-- ==== Sys2Proof/Word.lean ====
section
/-!
DEFINITION. The word types of the BA8 and their plainest helpers (spec/00 R4, R8, spec/01 R21).
-/
namespace Sys2Proof

/-- A byte of memory. -/
abbrev Byte := BitVec 8
/-- A scalar register, an address, a 64-bit control register (R21, R24). -/
abbrev Word := BitVec 64
/-- A vector register (R21). -/
abbrev V256 := BitVec 256
/-- A 32-bit field or word of memory. -/
abbrev W32 := BitVec 32

end Sys2Proof
end

