-- ==== Sys2Proof/Machine/KMap.lean ====
section
/-!
DEFINITION. Sparse data by key, in one canonical form: a list of (key, value) pairs with strictly rising keys. Byte
memories are such lists with no entry equal to 0, which is what an unlisted address reads as (log 5).
-/
namespace Sys2Proof.Machine

/-- A finite map from numbers, as a list with strictly rising keys. -/
abbrev KMap (α : Type) := List (Nat × α)

/-- The value at a key, if one is listed. -/
def KMap.get? {α : Type} : KMap α → Nat → Option α
  | [], _ => none
  | (k, v) :: m, i => if i = k then some v else if i < k then none else KMap.get? m i

/-- The value at a key, or the given value where none is listed. -/
def KMap.getD {α : Type} (m : KMap α) (i : Nat) (d : α) : α := (m.get? i).getD d

/-- Writes a key, keeping the keys strictly rising. -/
def KMap.set {α : Type} : KMap α → Nat → α → KMap α
  | [], i, x => [(i, x)]
  | (k, v) :: m, i, x =>
    if i = k then (k, x) :: m else if i < k then (i, x) :: (k, v) :: m else (k, v) :: KMap.set m i x

/-- Removes a key. -/
def KMap.erase {α : Type} : KMap α → Nat → KMap α
  | [], _ => []
  | (k, v) :: m, i => if i = k then m else if i < k then (k, v) :: m else (k, v) :: KMap.erase m i

/-- Whether a key is listed. -/
def KMap.has {α : Type} (m : KMap α) (i : Nat) : Bool := (m.get? i).isSome

/-- A set of numbers. -/
abbrev KSet := KMap Unit

/-- A byte memory: (address, byte) pairs (Host.Cell). -/
abbrev Memory := List Host.Cell

/-- One byte; an unlisted address reads 0. -/
def Memory.readByte (m : Memory) (a : Nat) : Byte := KMap.getD m a 0

/-- Writes one byte in canonical form: writing 0 removes the entry. -/
def Memory.writeByte (m : Memory) (a : Nat) (b : Byte) : Memory :=
  if b = 0 then KMap.erase m a else KMap.set m a b

/-- `n` bytes from `a`, as a list, the lowest address first. -/
def Memory.readBytes (m : Memory) (a : Nat) : Nat → List Byte
  | 0 => []
  | n + 1 => m.readByte a :: Memory.readBytes m (a + 1) n

/-- Writes a list of bytes at rising addresses. -/
def Memory.writeBytes (m : Memory) (a : Nat) : List Byte → Memory
  | [] => m
  | b :: bs => Memory.writeBytes (m.writeByte a b) (a + 1) bs

/-- Little-endian bytes to a number (R4). -/
def bytesToNat : List Byte → Nat
  | [] => 0
  | b :: bs => b.toNat + 256 * bytesToNat bs

/-- The low `n` bytes of a number, little-endian (R4). -/
def natToBytes : Nat → Nat → List Byte
  | 0, _ => []
  | n + 1, x => BitVec.ofNat 8 x :: natToBytes n (x / 256)

/-- An `n`-byte little-endian read. -/
def Memory.readNat (m : Memory) (a n : Nat) : Nat := bytesToNat (m.readBytes a n)

/-- An `n`-byte little-endian write. -/
def Memory.writeNat (m : Memory) (a n x : Nat) : Memory := m.writeBytes a (natToBytes n x)

/-- The canonical form of a byte memory: strictly rising addresses, no entry equal to 0. -/
def Memory.wf (m : Memory) : Bool :=
  match m with
  | [] => true
  | (_, b) :: [] => b != 0
  | (a, b) :: (a', b') :: rest => b != 0 && decide (a < a') && Memory.wf ((a', b') :: rest)

end Sys2Proof.Machine
end

