-- ==== Sys2Proof/Machine/Aes.lean ====
section
/-!
DEFINITION. The cipher of the inline encryption (spec/19 R401): AES-256 in XTS mode over one 64-byte data unit. The spec names the cipher
and not its steps, which are those of FIPS 197 and IEEE 1619 (PRESUMED, log 6). A block is a list of 16 bytes, the state of FIPS 197
column by column; of a number that stands for bytes, byte i is bits 8i to 8i + 7.
-/
namespace Sys2Proof.Machine

/-! ## GF(2^8) -/

def aesXtime (x : Byte) : Byte := (x <<< 1) ^^^ (if x.msb then 0x1B else 0)

/-- The product in GF(2^8) with the polynomial 0x11B. -/
def aesMul (x y : Byte) : Byte :=
  ((List.range 8).foldl (fun (acc, p) i => (if y.getLsbD i then acc ^^^ p else acc, aesXtime p)) ((0 : Byte), x)).1

/-- The inverse, and 0 of 0: the power 254. -/
def aesInv (x : Byte) : Byte :=
  ((List.range 7).foldl (fun (acc, p) _ => let q := aesMul p p; (aesMul acc q, q)) ((1 : Byte), x)).1

def aesSub (x : Byte) : Byte :=
  let b := aesInv x
  b ^^^ b.rotateLeft 1 ^^^ b.rotateLeft 2 ^^^ b.rotateLeft 3 ^^^ b.rotateLeft 4 ^^^ 0x63

def aesSubInv (y : Byte) : Byte := aesInv (y.rotateLeft 1 ^^^ y.rotateLeft 3 ^^^ y.rotateLeft 6 ^^^ 0x05)

/-! ## Rounds on a block -/

def aesXor (a b : List Byte) : List Byte := a.zipWith (· ^^^ ·) b

/-- Row r of the state moves r columns to the left; the inverse moves it 4 - r columns. -/
def aesShift (inv : Bool) (b : List Byte) : List Byte :=
  (List.range 16).map fun i => b.getD ((i + 4 * (i % 4) * (if inv then 3 else 1)) % 16) 0

/-- The columns are multiplied by the polynomial whose coefficients are given, least significant first. -/
def aesMix (k : List Byte) (b : List Byte) : List Byte :=
  (List.range 16).map fun i =>
    (List.range 4).foldl (fun acc j => acc ^^^ aesMul (b.getD (i / 4 * 4 + j) 0) (k.getD ((i + 4 - j) % 4) 0)) 0

def aesMixEnc : List Byte → List Byte := aesMix [2, 1, 1, 3]
def aesMixDec : List Byte → List Byte := aesMix [14, 9, 13, 11]

/-! ## The key schedule: 15 round keys of four words -/

/-- The next word of the schedule, of number i, from the last eight, the newest first, and the round constant. -/
def aesNextWord (i : Nat) (rc : Byte) (w : List (List Byte)) : List Byte :=
  let t := w.getD 0 []
  let t := if i % 8 = 0 then aesXor ((t.drop 1 ++ t.take 1).map aesSub) [rc, 0, 0, 0]
    else if i % 8 = 4 then t.map aesSub else t
  aesXor (w.getD 7 []) t

/-- The round keys of a 256-bit key, in order. -/
def aesKeys (key : BitVec 256) : List (List Byte) :=
  let bytes := natToBytes 32 key.toNat
  let first := (List.range 8).map fun i => (bytes.drop (4 * i)).take 4
  let all := ((List.range 52).foldl (fun ((w, rc) : List (List Byte) × Byte) k =>
    (aesNextWord (k + 8) rc w :: w, if k % 8 = 0 then aesXtime rc else rc)) (first.reverse, (1 : Byte))).1.reverse
  (List.range 15).map fun r => ((all.drop (4 * r)).take 4).flatten

/-! ## Blocks -/

def aesEnc (key : BitVec 256) (b : List Byte) : List Byte :=
  match aesKeys key with
  | [] => b
  | k :: ks =>
    let last := ks.getD 13 []
    let b := (ks.take 13).foldl (fun b k => aesXor (aesMixEnc (aesShift false (b.map aesSub))) k) (aesXor b k)
    aesXor (aesShift false (b.map aesSub)) last

def aesDec (key : BitVec 256) (b : List Byte) : List Byte :=
  match (aesKeys key).reverse with
  | [] => b
  | k :: ks =>
    let last := ks.getD 13 []
    let b := (ks.take 13).foldl (fun b k => aesMixDec (aesXor ((aesShift true b).map aesSubInv) k)) (aesXor b k)
    aesXor ((aesShift true b).map aesSubInv) last

/-! ## XTS (R401) -/

/-- The next block's tweak: the product with x in GF(2^128). -/
def xtsNext (t : Nat) : Nat := if 2 ^ 127 ≤ t then (2 * t % 2 ^ 128) ^^^ 0x87 else 2 * t

/-- A 64-byte data unit under a key pair, the data key below the tweak key (R402), and the tweak PA[51:6], zero-extended to 128 bits and
little-endian (R401). -/
def xtsUnit (enc : Bool) (key : BitVec 512) (pl : Nat) (x : BitVec 512) : BitVec 512 :=
  let dkey : BitVec 256 := key.extractLsb' 0 256
  let t := bytesToNat (aesEnc (key.extractLsb' 256 256) (natToBytes 16 (pl % 2 ^ 46)))
  let bytes := natToBytes 64 x.toNat
  let one (i t : Nat) : List Byte :=
    let tw := natToBytes 16 t
    let b := aesXor ((bytes.drop (16 * i)).take 16) tw
    aesXor (if enc then aesEnc dkey b else aesDec dkey b) tw
  BitVec.ofNat 512 (bytesToNat (((List.range 4).foldl (fun ((acc, t) : List Byte × Nat) i => (acc ++ one i t, xtsNext t)) ([], t)).1))

/-- What a line decrypts to under one key pair when it was encrypted under another (R401). -/
def xtsCross (written read : BitVec 512) (pl : Nat) (x : BitVec 512) : BitVec 512 :=
  xtsUnit false read pl (xtsUnit true written pl x)

end Sys2Proof.Machine
end

