-- ==== Sys2Proof/Config.lean ====
section
/-!
DEFINITION. The values the spec leaves open (free values, log 3, 6 and 10): opaque constants with no body, so that
nothing can evaluate them or prove a value of them. Each is applied to a number the machine has not used before
(`State.fresh`), or to the data it depends on.
-/
namespace Sys2Proof.Config

/-- A duration the spec does not fix, in cycles (R200, R226, R272; log 10). -/
opaque freeLatency : Nat → Nat
/-- A number the spec does not fix: an order of arrival or a moment (log 3). -/
opaque freeNat : Nat → Nat
/-- A truth value the spec does not fix, such as whether a lost AtomicOp was performed (R223). -/
opaque freeBool : Nat → Bool
/-- A word of bits the spec does not fix (a key, an identifier, contents after a fence). -/
opaque freeWord : Nat → Word
/-- The key pair that the Lamay controller draws for a partition (R401). -/
opaque freeKey : Nat → BitVec 512
/-- The contents of a physical line that a fence left undefined (R419): the fence's free number and the line. -/
opaque freeLine : Nat → Nat → BitVec 512
/-- The contents of a byte of host memory that a fence left undefined (R419): the fence's free number and the address. -/
opaque freeByte : Nat → Nat → BitVec 8

end Sys2Proof.Config
end

