-- ==== Sys2Proof/Syntax.lean ====
section
/-!
DEFINITION. The abstract syntax of the BA8: operand classes (spec/03 R65, R68, R73) and the one inductive
`Instr` with a constructor per row of spec/opcode_table.json.
-/
namespace Sys2Proof

/-- A scalar register field, s0 to s31 (R73). -/
abbrev SReg := BitVec 5
/-- A vector register field, v0 to v15 (R73, R22). -/
abbrev VReg := BitVec 4
/-- A predicate p0 to p7, or a port 0 to 7 (R73). -/
abbrev PReg := BitVec 3

/-- The width modifier of alu, mdv and cmp: d (wd = 0) or w (wd = 1) (R96). -/
inductive Wd where
  | d
  | w
  deriving DecidableEq, Repr, Inhabited

/-- The sign modifier of valu and vred: type i or type n (R142). -/
inductive Sgn where
  | i
  | n
  deriving DecidableEq, Repr, Inhabited

/-- Lane widths 8, 16, 32 and 64 (R142, R153). -/
inductive LaneW where
  | b
  | h
  | w
  | d
  deriving DecidableEq, Repr, Inhabited

/-- A rounding modifier (R68, fn[2:0] of R144). -/
inductive RoundSel where
  | rne
  | rtz
  | rdn
  | rup
  | dyn
  deriving DecidableEq, Repr, Inhabited

/-- The type of an atom (R177). -/
inductive AtomTy where
  | i32
  | i64
  | n32
  | n64
  | f32
  deriving DecidableEq, Repr, Inhabited

/-- The decode table that dec and tload name (R150). -/
inductive TblSel where
  | t8
  | t4
  deriving DecidableEq, Repr, Inhabited

/-- The control registers of R24, in the order of the selectors of R114. -/
inductive KReg where
  | tile
  | core
  | thread
  | deck
  | part
  | period
  | act
  | drift
  | driftalarm
  | overrun
  | clock
  | tcyc
  | tbm
  | fflags
  | frm
  | tvec
  | tpc
  | tinst
  | tcause
  | tval
  | tstat
  | loopcnt
  | loopstart
  | loopend
  | mxw
  | seed
  | epoch
  deriving DecidableEq, Repr, Inhabited

/-- The header fields a copy command carries besides engine and cmd (R78). -/
structure CopyHdr where
  flags : BitVec 16
  chan : BitVec 6
  prio : BitVec 2
  cls : BitVec 2
  deriving DecidableEq, Repr, Inhabited

/-- One hardware thread of the module: tile identifier in the layout of R25, core and thread. -/
structure ThreadRef where
  tile : Nat
  core : Fin 8
  thr : Fin 16
  deriving DecidableEq, Repr, Inhabited


/-- The instructions and steps of the BA8: one constructor per row of spec/opcode_table.json.
200 S-words (R70 to R77), 22 engine commands (R78 to R81), 115 steps of the module (spec/95), whose operands stand in the
state (log 1). -/
inductive Instr where
  /-- R116: No operation. -/
  | sysNop
  /-- R116: Raises a BREAK trap that carries a 10-bit code. -/
  | sysBreak (code : BitVec 10)
  /-- R116: Raises a SYSCALL trap that carries a 10-bit code. -/
  | sysScall (code : BitVec 10)
  /-- R117: Returns from a trap handler to k.tpc once the pending set is empty, or ends a CANCEL clean-up. -/
  | sysTret
  /-- R118: Ends the clean-up of a cancelled unit at once with its cancellation end. -/
  | sysCxend
  /-- R106: Jumps to the address held in s[a]. -/
  | sysJr (a : SReg)
  /-- R106: Calls the address held in s[a] and writes the return address to s31. -/
  | sysCallr (a : SReg)
  /-- R97: Integer add, 64-bit or 32-bit by the width bit. -/
  | aluAdd (d a b : SReg) (wd : Wd)
  /-- R97: Integer subtract. -/
  | aluSub (d a b : SReg) (wd : Wd)
  /-- R97: Bitwise AND. -/
  | aluAnd (d a b : SReg) (wd : Wd)
  /-- R97: Bitwise OR. -/
  | aluOr (d a b : SReg) (wd : Wd)
  /-- R97: Bitwise XOR. -/
  | aluXor (d a b : SReg) (wd : Wd)
  /-- R97: AND with the complement of the second operand. -/
  | aluAndn (d a b : SReg) (wd : Wd)
  /-- R97: Logical shift left. -/
  | aluShl (d a b : SReg) (wd : Wd)
  /-- R97: Logical shift right. -/
  | aluShr (d a b : SReg) (wd : Wd)
  /-- R97: Arithmetic shift right. -/
  | aluSar (d a b : SReg) (wd : Wd)
  /-- R97: Low bits of the product. -/
  | aluMul (d a b : SReg) (wd : Wd)
  /-- R97: Signed minimum. -/
  | aluMin (d a b : SReg) (wd : Wd)
  /-- R97: Signed maximum. -/
  | aluMax (d a b : SReg) (wd : Wd)
  /-- R97: Unsigned minimum. -/
  | aluMinu (d a b : SReg) (wd : Wd)
  /-- R97: Unsigned maximum. -/
  | aluMaxu (d a b : SReg) (wd : Wd)
  /-- R97: Counts leading zeros. -/
  | aluClz (d a : SReg) (wd : Wd)
  /-- R97: Counts one bits. -/
  | aluPopc (d a : SReg) (wd : Wd)
  /-- R97: Signed saturating add. -/
  | aluAdds (d a b : SReg) (wd : Wd)
  /-- R97: Signed saturating subtract. -/
  | aluSubs (d a b : SReg) (wd : Wd)
  /-- R98: Adds a sign-extended immediate. -/
  | aluiAdd (d a : SReg) (imm : BitVec 13)
  /-- R98: ANDs with a sign-extended immediate. -/
  | aluiAnd (d a : SReg) (imm : BitVec 13)
  /-- R98: ORs with a sign-extended immediate. -/
  | aluiOr (d a : SReg) (imm : BitVec 13)
  /-- R98: XORs with a sign-extended immediate. -/
  | aluiXor (d a : SReg) (imm : BitVec 13)
  /-- R98: Shifts left by an immediate amount. -/
  | aluiShl (d a : SReg) (imm : BitVec 6)
  /-- R98: Shifts right logically by an immediate amount. -/
  | aluiShr (d a : SReg) (imm : BitVec 6)
  /-- R98: Shifts right arithmetically by an immediate amount. -/
  | aluiSar (d a : SReg) (imm : BitVec 6)
  /-- R99: Writes imm21 into bits [63:43] of s[d] and clears the other bits. -/
  | lui (d : SReg) (imm : BitVec 21)
  /-- R101: Signed high half of the product; long-latency. -/
  | mdvMulh (d a b : SReg) (wd : Wd) (la : BitVec 4)
  /-- R101: Unsigned high half of the product; long-latency. -/
  | mdvMulhu (d a b : SReg) (wd : Wd) (la : BitVec 4)
  /-- R101: Signed division; long-latency. -/
  | mdvDiv (d a b : SReg) (wd : Wd) (la : BitVec 4)
  /-- R101: Unsigned division; long-latency. -/
  | mdvDivu (d a b : SReg) (wd : Wd) (la : BitVec 4)
  /-- R101: Signed remainder; long-latency. -/
  | mdvRem (d a b : SReg) (wd : Wd) (la : BitVec 4)
  /-- R101: Unsigned remainder; long-latency. -/
  | mdvRemu (d a b : SReg) (wd : Wd) (la : BitVec 4)
  /-- R102: Sets a predicate when the two registers are equal. -/
  | cmpEq (d : PReg) (a b : SReg) (wd : Wd)
  /-- R102: Sets a predicate when the two registers differ. -/
  | cmpNe (d : PReg) (a b : SReg) (wd : Wd)
  /-- R102: Signed less-than compare into a predicate. -/
  | cmpLt (d : PReg) (a b : SReg) (wd : Wd)
  /-- R102: Signed greater-or-equal compare into a predicate. -/
  | cmpGe (d : PReg) (a b : SReg) (wd : Wd)
  /-- R102: Unsigned less-than compare into a predicate. -/
  | cmpLtu (d : PReg) (a b : SReg) (wd : Wd)
  /-- R102: Unsigned greater-or-equal compare into a predicate. -/
  | cmpGeu (d : PReg) (a b : SReg) (wd : Wd)
  /-- R102: Predicate AND. -/
  | cmpPand (d a b : PReg)
  /-- R102: Predicate OR. -/
  | cmpPor (d a b : PReg)
  /-- R102: Predicate XOR. -/
  | cmpPxor (d a b : PReg)
  /-- R102: Predicate AND-NOT. -/
  | cmpPandn (d a b : PReg)
  /-- R103: Compares s[a] with an immediate for equality. -/
  | cmpiEq (d : PReg) (a : SReg) (imm : BitVec 13)
  /-- R103: Compares s[a] with an immediate for inequality. -/
  | cmpiNe (d : PReg) (a : SReg) (imm : BitVec 13)
  /-- R103: Signed less-than against an immediate. -/
  | cmpiLt (d : PReg) (a : SReg) (imm : BitVec 13)
  /-- R103: Signed greater-or-equal against an immediate. -/
  | cmpiGe (d : PReg) (a : SReg) (imm : BitVec 13)
  /-- R103: Unsigned less-than against a sign-extended immediate. -/
  | cmpiLtu (d : PReg) (a : SReg) (imm : BitVec 13)
  /-- R103: Unsigned greater-or-equal against a sign-extended immediate. -/
  | cmpiGeu (d : PReg) (a : SReg) (imm : BitVec 13)
  /-- R104: Branches when the predicate is 1. -/
  | brT (p : PReg) (off : BitVec 16)
  /-- R104: Branches when the predicate is 0. -/
  | brF (p : PReg) (off : BitVec 16)
  /-- R104: Branches when s[a] is nonzero. -/
  | brNz (a : SReg) (off : BitVec 16)
  /-- R104: Branches when s[a] is zero. -/
  | brZ (a : SReg) (off : BitVec 16)
  /-- R105: Jumps to a PC-relative target. -/
  | jmp (off : BitVec 26)
  /-- R105: Calls a PC-relative target and writes the return address to s31. -/
  | call (off : BitVec 26)
  /-- R109: Opens the inner hardware loop, or skips its body when the count is 0. -/
  | loopIn (a : SReg) (imm : BitVec 13)
  /-- R109: Opens the outer hardware loop, or skips its body when the count is 0. -/
  | loopOut (a : SReg) (imm : BitVec 13)
  /-- R131: Hands a pinned unit record to a sibling core's deque and returns its sequence number. -/
  | callatSend (d a b : SReg) (la : BitVec 4)
  /-- R160: Loads a byte, zero-extended. -/
  | memLdB (d a : SReg) (off : BitVec 9) (la : BitVec 4)
  /-- R160: Loads a half, zero-extended. -/
  | memLdH (d a : SReg) (off : BitVec 9) (la : BitVec 4)
  /-- R160: Loads a word, zero-extended. -/
  | memLdW (d a : SReg) (off : BitVec 9) (la : BitVec 4)
  /-- R160: Loads a doubleword. -/
  | memLdD (d a : SReg) (off : BitVec 9) (la : BitVec 4)
  /-- R160: Loads a byte, sign-extended. -/
  | memLdI8 (d a : SReg) (off : BitVec 9) (la : BitVec 4)
  /-- R160: Loads a half, sign-extended. -/
  | memLdI16 (d a : SReg) (off : BitVec 9) (la : BitVec 4)
  /-- R160: Loads a word, sign-extended. -/
  | memLdI32 (d a : SReg) (off : BitVec 9) (la : BitVec 4)
  /-- R174: Loads a doubleword through the read-only path. -/
  | memLdRo (d a : SReg) (off : BitVec 9) (la : BitVec 4)
  /-- R160: Stores a byte. -/
  | memStB (d a : SReg) (off : BitVec 9)
  /-- R160: Stores a half. -/
  | memStH (d a : SReg) (off : BitVec 9)
  /-- R160: Stores a word, setting watchers' ready bits and breaking reservations. -/
  | memStW (d a : SReg) (off : BitVec 9)
  /-- R160: Stores a doubleword. -/
  | memStD (d a : SReg) (off : BitVec 9)
  /-- R177: Fetch-and-add at the word's bank. -/
  | atomFaa (d a b : SReg) (t : AtomTy) (la : BitVec 4)
  /-- R177: Atomic swap. -/
  | atomSwap (d a b : SReg) (t : AtomTy) (la : BitVec 4)
  /-- R177: Atomic compare-and-swap. -/
  | atomCas (d a b : SReg) (t : AtomTy) (la : BitVec 4)
  /-- R177: Atomic fetch-and-AND. -/
  | atomFand (d a b : SReg) (t : AtomTy) (la : BitVec 4)
  /-- R177: Atomic fetch-and-OR. -/
  | atomFor (d a b : SReg) (t : AtomTy) (la : BitVec 4)
  /-- R177: Atomic fetch-and-XOR. -/
  | atomFxor (d a b : SReg) (t : AtomTy) (la : BitVec 4)
  /-- R177: Atomic fetch-and-minimum. -/
  | atomFmin (d a b : SReg) (t : AtomTy) (la : BitVec 4)
  /-- R177: Atomic fetch-and-maximum. -/
  | atomFmax (d a b : SReg) (t : AtomTy) (la : BitVec 4)
  /-- R181: Takes the bank and opens a reservation on a word, returning its value. -/
  | atomRsv (d a : SReg) (t : AtomTy) (la : BitVec 4)
  /-- R181: Writes the reserved word if the reservation is unbroken, and releases it. -/
  | atomRel (d a b : SReg) (t : AtomTy) (la : BitVec 4)
  /-- R181: Releases a held reservation without writing. -/
  | atomDrop
  /-- R165: Probes the own core's touched banks and waits for their echoes. -/
  | syncFenceCore
  /-- R165: Probes every touched bank of the tile and waits for their echoes. -/
  | syncFenceTile
  /-- R165: Tile fence that also waits for acknowledgements of posts and writebacks, under a timeout. -/
  | syncFencePart (b : SReg) (tp : PReg)
  /-- R169: Arms the thread's watch register on a local word and clears its ready bit. -/
  | syncWatch (a : SReg)
  /-- R169: Clears the watch register and the ready bit. -/
  | syncUnwatch
  /-- R169: Waits for the watched word's ready bit or the timeout. -/
  | syncWaitw (b : SReg) (tp : PReg) (la : BitVec 4)
  /-- R172: Waits for the word to be full and reads it, leaving it full. -/
  | syncLdf (d a b : SReg) (tp : PReg) (la : BitVec 4)
  /-- R172: Waits for the word to be full, reads it and empties it. -/
  | syncLdfe (d a b : SReg) (tp : PReg) (la : BitVec 4)
  /-- R172: Writes the word and sets it full. -/
  | syncStf (d a : SReg)
  /-- R172: Waits for the word to be empty, then writes it and sets it full. -/
  | syncStef (d a b : SReg) (tp : PReg) (la : BitVec 4)
  /-- R172: Sets the word's full/empty bit to empty. -/
  | syncClre (a : SReg)
  /-- R174: Fences the tile and invalidates the core's read-only cache. -/
  | syncRo
  /-- R175: Fences the tile and invalidates the tile's tensor-shape-record cache. -/
  | syncRec
  /-- R176: Writes a dirty global line back to its slice. -/
  | syncLwb (a : SReg)
  /-- R176: Writes a global line back if dirty, then invalidates it. -/
  | syncLinv (a : SReg)
  /-- R185: Enters a payload into the send queue for a sibling core, waiting for room up to a timeout. -/
  | msgSend (d : PReg) (a b : SReg) (tp : PReg) (la : BitVec 4)
  /-- R186: Takes the oldest non-return message from a source core's receive queue. -/
  | msgRecv (d : SReg) (a : PReg) (b : SReg) (tp : PReg) (la : BitVec 4)
  /-- R186: Takes the message named by sender thread and sequence. -/
  | msgRecvs (d : SReg) (a : PReg) (b : SReg) (tp : PReg) (la : BitVec 4)
  /-- R186: Takes the call-at return message with the given sequence. -/
  | msgRecvr (d : SReg) (a : PReg) (b : SReg) (tp : PReg) (la : BitVec 4)
  /-- R186: Describes the oldest message of a receive queue without taking it. -/
  | msgPeek (d : SReg) (a : PReg)
  /-- R190: Hands a 32-byte value to the post path for a sample cell of any tile. -/
  | smpPost (d : VReg) (a : SReg)
  /-- R191: Returns a 64-byte snapshot of a sample cell into two vector registers. -/
  | smpSample (d : VReg) (a b : SReg) (tp : PReg) (la : BitVec 4)
  /-- R191: Reads the count of an own-tile cell. -/
  | smpCount (d a : SReg) (la : BitVec 4)
  /-- R191: Waits until an own-tile cell's count differs from s[d] or a post performs. -/
  | smpWait (d a b : SReg) (tp : PReg) (la : BitVec 4)
  /-- R192: Joins or starts the tile's launch-wide barrier epoch. -/
  | smpBar (d b : SReg) (tp : PReg) (la : BitVec 4)
  /-- R126: Creates a child unit from a template in the own deque against a counter. -/
  | taskSpawn (d a b : SReg) (la : BitVec 4)
  /-- R127: Writes the unit's record to the top of the own deque and empties the slot. -/
  | taskYield
  /-- R128: Parks the unit on a watched local word, or continues if the word is ready. -/
  | taskPark (a : SReg)
  /-- R129: Tests a counter for zero at its home port, parking the unit otherwise. -/
  | taskJoin (a : SReg)
  /-- R130: Ends the unit: sends any return, decrements its parent counter and reports a root's end. -/
  | taskRetire (a : SReg)
  /-- R134: Cancels work below a counter at the unit, launch, graph, phase or job level. -/
  | taskCancel (d a b : SReg) (la : BitVec 4)
  /-- R202: Fences the tile, checks the T-word header and queues it to an engine, returning an identifier. -/
  | engPush (d : SReg) (a : VReg) (b : SReg) (tp : PReg)
  /-- R203: Waits for a channel identifier to be reached and reports the channel's failure record. -/
  | engXidwait (d a b : SReg) (tp : PReg) (la : BitVec 4)
  /-- R204: Waits for a matrix or event job of the core to be reached and reports its failures. -/
  | engJidwait (d a b : SReg) (tp : PReg) (la : BitVec 4)
  /-- R204: Reads the core's completed job identifier for an engine. -/
  | engJidrd (d a : SReg)
  /-- R194: Fences, checks a binding record and its shape, and binds v8-v15 to a stream. -/
  | strmBind (d : VReg) (a : SReg)
  /-- R194: Ends a stream binding, discarding input or handing output on. -/
  | strmUnbind (d : VReg)
  /-- R194: Returns the transfer identifier of a binding. -/
  | strmXid (d : SReg) (b : VReg)
  /-- R113: Reads a control register by selector. -/
  | kregRd (d : SReg) (imm : KReg)
  /-- R115: Writes a control register under its access code. -/
  | kregWr (a : SReg) (imm : KReg)
  /-- R113: Sets bits of an RW control register. -/
  | kregSet (a : SReg) (imm : KReg)
  /-- R113: Clears bits of an RW control register. -/
  | kregClr (a : SReg) (imm : KReg)
  /-- R138: Loads 32 bytes into a vector register. -/
  | vmemLdV (d : VReg) (a : SReg) (off : BitVec 9) (la : BitVec 4)
  /-- R138: Loads a word into every 32-bit lane. -/
  | vmemLdSw (d : VReg) (a : SReg) (off : BitVec 9) (la : BitVec 4)
  /-- R138: Loads a doubleword into every 64-bit lane. -/
  | vmemLdSd (d : VReg) (a : SReg) (off : BitVec 9) (la : BitVec 4)
  /-- R138: Loads 32 bytes through the read-only path. -/
  | vmemLdRo (d : VReg) (a : SReg) (off : BitVec 9) (la : BitVec 4)
  /-- R138: Stores 32 bytes from a vector register. -/
  | vmemStV (d : VReg) (a : SReg) (off : BitVec 9)
  /-- R138: Stores lane 0 of the 32-bit view. -/
  | vmemStW (d : VReg) (a : SReg) (off : BitVec 9)
  /-- R138: Stores lane 0 of the 64-bit view. -/
  | vmemStD (d : VReg) (a : SReg) (off : BitVec 9)
  /-- R142: Lane-wise wrapping add. -/
  | valuAdd (d a b : VReg) (sg : Sgn) (lw : LaneW)
  /-- R142: Lane-wise wrapping subtract. -/
  | valuSub (d a b : VReg) (sg : Sgn) (lw : LaneW)
  /-- R142: Lane-wise saturating add. -/
  | valuAdds (d a b : VReg) (sg : Sgn) (lw : LaneW)
  /-- R142: Lane-wise saturating subtract. -/
  | valuSubs (d a b : VReg) (sg : Sgn) (lw : LaneW)
  /-- R142: Lane-wise low product. -/
  | valuMul (d a b : VReg) (sg : Sgn) (lw : LaneW)
  /-- R142: Lane-wise high product. -/
  | valuMulh (d a b : VReg) (sg : Sgn) (lw : LaneW)
  /-- R142: Lane-wise minimum. -/
  | valuMin (d a b : VReg) (sg : Sgn) (lw : LaneW)
  /-- R142: Lane-wise maximum. -/
  | valuMax (d a b : VReg) (sg : Sgn) (lw : LaneW)
  /-- R142: Lane-wise AND. -/
  | valuAnd (d a b : VReg) (sg : Sgn) (lw : LaneW)
  /-- R142: Lane-wise OR. -/
  | valuOr (d a b : VReg) (sg : Sgn) (lw : LaneW)
  /-- R142: Lane-wise XOR. -/
  | valuXor (d a b : VReg) (sg : Sgn) (lw : LaneW)
  /-- R142: Lane-wise shift left. -/
  | valuShl (d a b : VReg) (sg : Sgn) (lw : LaneW)
  /-- R142: Lane-wise shift right, arithmetic or logical by type. -/
  | valuShr (d a b : VReg) (sg : Sgn) (lw : LaneW)
  /-- R142: Lane-wise equality mask. -/
  | valuCeq (d a b : VReg) (sg : Sgn) (lw : LaneW)
  /-- R142: Lane-wise less-than mask. -/
  | valuClt (d a b : VReg) (sg : Sgn) (lw : LaneW)
  /-- R145: FP32 lane add, rounded once. -/
  | vfltAdd (d a b : VReg) (rm : RoundSel)
  /-- R145: FP32 lane subtract. -/
  | vfltSub (d a b : VReg) (rm : RoundSel)
  /-- R145: FP32 lane multiply. -/
  | vfltMul (d a b : VReg) (rm : RoundSel)
  /-- R145: FP32 fused multiply-add into the destination. -/
  | vfltFma (d a b : VReg) (rm : RoundSel)
  /-- R145: FP32 fused negated multiply-add into the destination. -/
  | vfltFnma (d a b : VReg) (rm : RoundSel)
  /-- R147: FP32 lane divide; long-latency, result in 36 cycles. -/
  | vfltDiv (d a b : VReg) (rm : RoundSel) (la : BitVec 4)
  /-- R147: FP32 lane square root; long-latency. -/
  | vfltSqrt (d a : VReg) (rm : RoundSel) (la : BitVec 4)
  /-- R146: FP32 lane minimum. -/
  | vfltMin (d a b : VReg)
  /-- R146: FP32 lane maximum. -/
  | vfltMax (d a b : VReg)
  /-- R146: Clears bit 31 of each lane. -/
  | vfltAbs (d a : VReg)
  /-- R146: Inverts bit 31 of each lane. -/
  | vfltNeg (d a : VReg)
  /-- R146: FP32 equality mask. -/
  | vfltCeq (d a b : VReg)
  /-- R146: FP32 less-than mask. -/
  | vfltClt (d a b : VReg)
  /-- R146: FP32 less-or-equal mask. -/
  | vfltCle (d a b : VReg)
  /-- R151: Converts FP32 lanes to i32. -/
  | vcvtToi (d a : VReg) (rm : RoundSel)
  /-- R151: Converts FP32 lanes to n32. -/
  | vcvtTon (d a : VReg) (rm : RoundSel)
  /-- R151: Converts i32 lanes to FP32. -/
  | vcvtFri (d a : VReg) (rm : RoundSel)
  /-- R151: Converts n32 lanes to FP32. -/
  | vcvtFrn (d a : VReg) (rm : RoundSel)
  /-- R151: Rounds FP32 lanes to X19 containers. -/
  | vcvtTox (d a : VReg) (rm : RoundSel)
  /-- R151: Packs two registers of FP32 lanes to FP16. -/
  | vcvtPkh (d a b : VReg) (rm : RoundSel)
  /-- R151: Packs two registers of FP32 lanes to BF16. -/
  | vcvtPkb (d a b : VReg) (rm : RoundSel)
  /-- R151: Widens the low FP16 lanes to FP32. -/
  | vcvtUplh (d a : VReg)
  /-- R151: Widens the high FP16 lanes to FP32. -/
  | vcvtUphh (d a : VReg)
  /-- R151: Widens the low BF16 lanes to FP32. -/
  | vcvtUplb (d a : VReg)
  /-- R151: Widens the high BF16 lanes to FP32. -/
  | vcvtUphb (d a : VReg)
  /-- R151: Encodes FP32 lanes into T8 codes. -/
  | vcvtEnc8 (d a : VReg) (rm : RoundSel)
  /-- R151: Encodes FP32 lanes into T4 codes. -/
  | vcvtEnc4 (d a : VReg) (rm : RoundSel)
  /-- R151: Decodes T8 or T4 codes to X19 containers. -/
  | vcvtDec (d a : VReg) (t : TblSel)
  /-- R152: Queues a replacement of the core's T8 or T4 decode table from an image. -/
  | vcvtTload (a : SReg) (t : TblSel) (la : BitVec 4)
  /-- R149: Sums the 8 FP32 lanes by the fixed tree. -/
  | vredFadd (d : SReg) (a : VReg) (rm : RoundSel)
  /-- R149: Tree maximum of the FP32 lanes. -/
  | vredFmax (d : SReg) (a : VReg)
  /-- R149: Tree minimum of the FP32 lanes. -/
  | vredFmin (d : SReg) (a : VReg)
  /-- R148: Integer sum of all lanes modulo 2^64. -/
  | vredAdd (d : SReg) (a : VReg) (sg : Sgn) (lw : LaneW)
  /-- R148: Largest integer lane. -/
  | vredMax (d : SReg) (a : VReg) (sg : Sgn) (lw : LaneW)
  /-- R148: Smallest integer lane. -/
  | vredMin (d : SReg) (a : VReg) (sg : Sgn) (lw : LaneW)
  /-- R148: AND of the four 64-bit lanes. -/
  | vredAnd (d : SReg) (a : VReg)
  /-- R148: OR of the four 64-bit lanes. -/
  | vredOr (d : SReg) (a : VReg)
  /-- R148: XOR of the four 64-bit lanes. -/
  | vredXor (d : SReg) (a : VReg)
  /-- R153: Copies a vector register. -/
  | vmovMov (d a : VReg)
  /-- R153: Copies a scalar into every lane. -/
  | vmovSplat (d : VReg) (a : SReg) (lw : LaneW)
  /-- R154: Inserts a scalar into lane s[b] mod n. -/
  | vmovIns (d : VReg) (a b : SReg) (lw : LaneW)
  /-- R154: Extracts a lane, sign-extended. -/
  | vmovExt (d : SReg) (a : VReg) (b : SReg) (lw : LaneW)
  /-- R154: Extracts a lane, zero-extended. -/
  | vmovExtu (d : SReg) (a : VReg) (b : SReg) (lw : LaneW)
  /-- R154: Permutes lanes by an index register. -/
  | vmovPerm (d a b : VReg) (lw : LaneW)
  /-- R154: Slides lanes up by s[b]. -/
  | vmovSlup (d a : VReg) (b : SReg) (lw : LaneW)
  /-- R154: Slides lanes down by s[b]. -/
  | vmovSldn (d a : VReg) (b : SReg) (lw : LaneW)
  /-- R154: Selects bits of two registers by the mask in the destination. -/
  | vmovSel (d a b : VReg)
  /-- R153: Sets a predicate when any bit of a register is set. -/
  | vmovAny (d : PReg) (a : VReg)
  /-- R153: Sets a predicate when every lane is nonzero. -/
  | vmovAll (d : PReg) (a : VReg) (lw : LaneW)
  /-- R213: Copies bytes or shaped elements unchanged between places, local or remote. -/
  | copyAff (h : CopyHdr) (ops : BitVec 192)
  /-- R214: Adds a contribution of addends into W128 accumulators and raises the region count. -/
  | copyRed (h : CopyHdr) (ops : BitVec 192)
  /-- R215: Moves bytes to another tile under the receiver's grant tokens. -/
  | copyPull (h : CopyHdr) (ops : BitVec 192)
  /-- R217: Sends one line to every member of a multicast group and writes an acknowledgement record. -/
  | copyMcast (h : CopyHdr) (ops : BitVec 192)
  /-- R219: Sends an array of event words to a tile's event intake. -/
  | copyEv (h : CopyHdr) (ops : BitVec 192)
  /-- R221: Starts or joins a barrier epoch and runs its dissemination rounds. -/
  | copyBar (h : CopyHdr) (ops : BitVec 192)
  /-- R221: Sends a termination probe token around the launch and completes OK or MARKED. -/
  | copyProbe (h : CopyHdr) (ops : BitVec 192)
  /-- R223: Issues a PCIe AtomicOp to host memory and writes the old value. -/
  | copyHatom (h : CopyHdr) (ops : BitVec 192)
  /-- R224: Writes back every line of a global range in the tile's line caches. -/
  | copyWb (h : CopyHdr) (ops : BitVec 192)
  /-- R224: Writes back and invalidates every line of a global range. -/
  | copyInv (h : CopyHdr) (ops : BitVec 192)
  /-- R234: Loads a 32 x 32 weight tile into the shadow plane. -/
  | mxLdw (flags : BitVec 16) (ops : BitVec 192)
  /-- R235: Inverts the active-plane bit at a service boundary. -/
  | mxSwap (flags : BitVec 16) (ops : BitVec 192)
  /-- R236: Streams activation rows past the active plane into FP32 rows or W128 quads. -/
  | mxRun (flags : BitVec 16) (ops : BitVec 192)
  /-- R237: Adds one accumulator region into another. -/
  | mxAcc (flags : BitVec 16) (ops : BitVec 192)
  /-- R238: Writes accumulator rows or quads out, converting them. -/
  | mxSt (flags : BitVec 16) (ops : BitVec 192)
  /-- R239: Sets accumulator rows or quads to +0 and clears their flags. -/
  | mxZero (flags : BitVec 16) (ops : BitVec 192)
  /-- R240: Scales accumulator rows by powers of two. -/
  | mxScale (flags : BitVec 16) (ops : BitVec 192)
  /-- R245: Configures one neuron bank and its tables. -/
  | evCfg (flags : BitVec 16) (ops : BitVec 192)
  /-- R251: Enters an array of local event words into the queue. -/
  | evInj (flags : BitVec 16) (ops : BitVec 192)
  /-- R252: Declares the source tiles, their time cells, loss cells and minimum delay. -/
  | evHorizon (flags : BitVec 16) (ops : BitVec 192)
  /-- R254: Samples sources' time cells and delivers queued events below the bound. -/
  | evRun (flags : BitVec 16) (ops : BitVec 192)
  /-- R255: Copies a consistent range of neuron states out. -/
  | evRead (flags : BitVec 16) (ops : BitVec 192)
  /-- R15: A long-latency result arrives and its destinations leave the pending set. -/
  | resultArrival
  /-- R19: After outstanding instructions settle, the trap state is written and the handler is entered. -/
  | trapEntry
  /-- R119: An asynchronous CANCEL reaches a running or waiting thread and enters its handler. -/
  | cancel
  /-- R119: The 256-instruction clean-up budget of a CANCEL handler runs out. -/
  | cancelBudgetEnd
  /-- R158: The timeout of a waiting form expires and its predicate is set to 1. -/
  | waitTimeout
  /-- R124: An Empty slot picks up a record or frame from its deque and restores the unit. -/
  | pickUp
  /-- R32: A message leaves a send queue on its crossbar turn into the receive queue. -/
  | messageCrossing
  /-- R338: A core with an Empty slot and empty deque asks a sibling for an entry. -/
  | stealRequest
  /-- R338: A stolen record or frame arrives at the thief's deque. -/
  | stolenEntryArrival
  /-- R273: A thread is fenced and moved to the home core of its global accesses. -/
  | migration
  /-- R339: A lower-priority unit is saved to a frame to free its slot for a higher-priority entry. -/
  | displacement
  /-- R183: The 65th instruction after rsv revokes the reservation and raises RESV. -/
  | reservationWindowExceeded
  /-- R155: A stream wait limit passes; the instruction is skipped and the starved predicate set. -/
  | streamWaitExpiry
  /-- R275: A stream datum's last element arrives and the datum becomes available. -/
  | streamFill
  /-- R152: A queued table load completes and cuts the core over to the new table. -/
  | tloadComplete
  /-- R165: A bank echoes a fence probe once earlier accesses have performed and clears its k.tbm bit. -/
  | bankEcho
  /-- R190: The cell array performs a post on a cell from its intake. -/
  | postPerform
  /-- R191: A remote cell array answers a sample request with a snapshot at once. -/
  | sampleRequest
  /-- R191: A sample reply arrives and its snapshot is delivered. -/
  | sampleReply
  /-- R213: A copy unit answers a read of its tile's source from another tile. -/
  | remoteReadRequest
  /-- R349: An RDATA reply with a line fill or remote source line arrives. -/
  | readReply
  /-- R349: An acknowledgement of a post, write or writeback arrives at its sender. -/
  | ackReceived
  /-- R221: A barrier round's post arrives in a barrier cell and may complete the rounds. -/
  | barrierToken
  /-- R221: A copy.bar's timeout expires and the command ends with TIMEOUT. -/
  | copyBarTimeout
  /-- R221: A probe token arrives, is marked with the work bit and passed on, or completes at its initiator. -/
  | probeToken
  /-- R259: The tile's period timer ticks, starting an activation or counting an overrun. -/
  | periodTick
  /-- R260: An activation retires once every root and unit of the tile has ended. -/
  | activationRetire
  /-- R334: The sequencer starts the highest-ranked READY launch once its tiles are free. -/
  | launchStart
  /-- R333: A queued job starts once no earlier job of its context runs or is held. -/
  | jobStart
  /-- R331: A 32-byte host write to the job cell performs as one post. -/
  | hostJobPost
  /-- R333: The sequencer checks a job's records and queues the job, echoing the result. -/
  | submit
  /-- R333: The sequencer cancels a record of a given level. -/
  | sequencerCancel
  /-- R333: The sequencer returns a HELD job to RUNNING. -/
  | sequencerResume
  /-- R344: A context's quantum expires while another context has READY work. -/
  | quantumExpiry
  /-- R344: The sequencer stops a context's activations to save it. -/
  | preEmption
  /-- R394: A context's threads, engines, copy unit and caches are written to its save area. -/
  | contextSave
  /-- R394: A saved context is restored from its save area. -/
  | contextRestore
  /-- R242: The watchdog count reaches its limit and a hang is reported. -/
  | groupWatchdog
  /-- R250: An event enters the queue with its stamps, or is dropped or refused. -/
  | eventIntake
  /-- R254: A time-cell sample of ev.run gets no reply within 4,096 cycles. -/
  | timeCellSampleTimeout
  /-- R231: The matrix engine arbitrates and dispatches one service of a core's head command. -/
  | matrixService
  /-- R231: An admitted row writes its accumulator row 40 cycles later. -/
  | matrixRowWrite
  /-- R232: The shadow plane finishes loading its weight rows. -/
  | weightLoadDone
  /-- R197: A copy command completes, advancing ct and any failure record. -/
  | copyCompletion
  /-- R226: A matrix job completes and the completed job identifier may advance. -/
  | matrixJobCompletion
  /-- R226: An event job completes and the completed job identifier may advance. -/
  | eventJobCompletion
  /-- R391: A walker completes a page walk for waiting copy units. -/
  | translationWalk
  /-- R392: A pending fault writes its record once the fault queue has room. -/
  | faultRecordWrite
  /-- R392: A settle write with act RESUME retries a pending fault's translation. -/
  | faultResume
  /-- R392: A settle write with act ABORT completes the faulting command with PAGE. -/
  | faultAbort
  /-- R391: A tbinv write drops matching translation entries across the partition. -/
  | tbinv
  /-- R391: Every access that used a dropped entry has performed and tbdone rises. -/
  | tbinvDone
  /-- R392: System software consumes fault records, freeing room for a waiting record. -/
  | fqconsWrite
  /-- R399: Writes a context's LLC way mask for later fills. -/
  | wmaskWrite
  /-- R351: A router routes the arriving flits of a fabric cycle by age, ejecting or deflecting them. -/
  | flitRoute
  /-- R352: The copy unit injects a ready flit into a free productive port. -/
  | flitInject
  /-- R357: An ejected flit is accepted by the copy unit or dropped for ctag, age or kind. -/
  | flitIngress
  /-- R350: A 64-tick reference boundary adds 1 to the age of every held flit. -/
  | flitAgeTick
  /-- R361: A REQ arrives and makes a request-table entry with token 0, or a RETRY. -/
  | pullReq
  /-- R361: A prefix flit is accepted into its entry or waits in the prefix pool. -/
  | pullPfx
  /-- R361: A pooled prefix flit waits 8,192 cycles and is dropped. -/
  | pfxPoolExpiry
  /-- R362: The grant scheduler posts a TOKEN for the next eligible entry. -/
  | grant
  /-- R363: A DATA flit is accepted against its live token or discarded. -/
  | pullData
  /-- R363: A live token expires and its unaccepted sectors are granted again. -/
  | tokenExpiry
  /-- R215: The sender finds a changed grant cell and acts on TOKEN, RETRY or DONE. -/
  | pullTokenSample
  /-- R215: 2,048 cycles after a RETRY the sender resends its request. -/
  | retryResend
  /-- R364: A grant cell unchanged for 65,536 cycles makes the sender resend its REQ. -/
  | silentCellResend
  /-- R367: A scale-up link sends the next buffered flit in round robin over partitions. -/
  | linkTransmit
  /-- R368: A gateway receives a link flit, checks CRC, lane and epoch, and forwards or drops it. -/
  | linkReceive
  /-- R369: A replay request makes the sender resend unacknowledged flits. -/
  | linkReplay
  /-- R369: The far end acknowledges flits by lseq, freeing egress buffers. -/
  | linkAck
  /-- R372: A multicast copy reaches a module, which replicates it and writes its own member's window. -/
  | mcastCopyArrival
  /-- R373: A multicast acknowledgement arrives and is combined and sent back. -/
  | mcastAck
  /-- R373: The acknowledgement wait of a copy runs out and its subtree counts UNREACHABLE. -/
  | mcastAckTimeout
  /-- R375: A partition's routers are cleared and its old-epoch gateway buffers purged. -/
  | partitionReset
  /-- R376: A virtual function's contexts are bumped, their commands cancelled and their flits dropped. -/
  | vfTeardown
  /-- R419: An uncorrectable error stops a context's tiles, fails its job and writes an error record. -/
  | contextFence
  /-- R294: A held racy store performs in its recorded turn, or on buffer overflow or timeout. -/
  | replayStoreRelease
  /-- R270: A line-cache line is evicted, writing back if dirty. -/
  | lineEviction
  /-- R274: An LLC slice line is evicted and written to HBM through encryption. -/
  | sliceEviction
  /-- R223: A host AtomicOp completion arrives and ends the copy.hatom. -/
  | hostAtomicCompletion
  /-- R223: No host completion arrives in time and copy.hatom ends HOSTFAIL. -/
  | hostCompletionTimeout
  /-- R430: Every 2^14 fabric cycles the router checks the tile and advances its health count. -/
  | healthCheck
  /-- R431: Management tiles sample each tile's health count once per millisecond. -/
  | healthSample
  /-- R431: After spare BIST the row is remapped and affected partitions reset. -/
  | rowShift
  /-- R432: A failed HBM channel fences contexts and makes its strip unavailable. -/
  | hbmChannelFailure
  /-- R424: The module begins a start, or enters Cocoon mode after three failures. -/
  | moduleStart
  /-- R424: A start stage completes its check and extends a measurement. -/
  | startStage
  /-- R424: A start stage exceeds its limit and the start fails. -/
  | startStageTimeout
  /-- R425: Power is lost; a start in progress counts as failed. -/
  | powerLoss
  /-- R424: A rail fault or overtemperature fails a start, or shuts down in Cocoon mode. -/
  | railFault
  /-- R435: A deck throttles or restores its tile clock by temperature or power cap. -/
  | thermalThrottle
  /-- R435: A deck above 115 C fences every context and the module enters SHUTDOWN. -/
  | thermalShutdown
  /-- R423: Copies a port's trace ring into the management buffer. -/
  | ringRead
  /-- R423: Loads a port's ring from the buffer as the recorded order for replay. -/
  | ringWrite
  /-- R427: Clears the start-failure count and starts the module afresh. -/
  | leave
  /-- R427: Starts the module afresh without changing the count. -/
  | restart
  /-- R427: Writes a verified configuration image or firmware to flash. -/
  | imageLoad
  /-- R435: Sets the module's power cap, refusing values outside 800-2,800 W. -/
  | powercap
  /-- R427: A management command finishes and cseq rises. -/
  | mgmtCommandComplete
  /-- R402: Loads and binds a key pair into a key slot over SPDM. -/
  | keyPut
  /-- R402: Zeroes a key slot. -/
  | keyDel
  /-- R402: Returns the tenant key identifier of a slot. -/
  | keyQuery
  /-- R400: A ZEROING slot finishes writing back its lines and returns to FREE. -/
  | keyZeroingDone
  /-- R421: A host write to a management register that has no behaviour of its own. -/
  | registerWrite
  /-- R76: A thread issues a word that is not an instruction (all-zero padding, reserved major, unassigned function or modifier) and raises ILLEGAL. -/
  | notAnInstruction
  /-- R107: Sequential execution reaches the first address past the code segment and raises PROT there. -/
  | runPastCodeSegment
  /-- R12: System software restarts a core, so a Stopped thread becomes Empty and the core rejoins its tile's cycle count. -/
  | coreRestart
  /-- R270: A read of host memory (leaf H = 1) completes over the host link, possibly poisoned, and delivers its data or a UE. -/
  | hostReadCompletion
  /-- R274: An LLC slice's fill from HBM completes, the line being decrypted and checked and an uncorrectable error fencing the context. -/
  | hbmFill
  /-- R384: System software creates a partition through the physical function, which creates its job and echo cells and draws its own key. -/
  | partitionCreation
  /-- R421: System software destroys a partition, ending its logs and its sequencer page. -/
  | partitionDestruction
  /-- R357: A deferred context-epoch bump takes effect once 2^23 reference ticks have passed since the ctag was last carried. -/
  | epochBump
  /-- R431: An uncorrectable error in a tile's logic is reported and the tile is declared failed at once. -/
  | logicErrorReport
  /-- R402: A tenant establishes an SPDM 1.3 secured session with the Lamay controller, bound through TDISP to a virtual function. -/
  | securedSession
  deriving DecidableEq, Repr, Inhabited

end Sys2Proof
end

