-- ==== Sys2Proof/WellFormed.lean ====
section
/-!
DEFINITION. Well-formed instructions: the operand combinations the encodings of spec/03 (R73 to R81), spec/06 (R177)
and the command tables of spec/07 and spec/08 admit. Ranges of single operands are in their types; what is left are
the types an atom lists, the flag bits a command defines, and numbers that name units of the module.
-/
namespace Sys2Proof

/-- The types that an atom lists in R177: integer arithmetic of 32 and 64 bits. -/
def AtomTy.isInt : AtomTy → Bool
  | .i32 => true
  | .i64 => true
  | .n32 => false
  | .n64 => false
  | .f32 => false

/-- A command's flag bits all lie in the defined mask (R78, R81 check 4). -/
def flagsWithin (mask flags : BitVec 16) : Bool := flags &&& ~~~mask == 0

/-- A tile identifier in the layout of R25: y is at most 19 and bits [15:13] are 0. -/
def tileIdOk (t : Nat) : Bool := t < 0x2000 && t / 32 % 32 < 20

/-- The operand checks of each constructor that the operand types do not already make. -/
def Instr.wf : Instr → Bool
  | .atomFaa _ _ _ t _ => t.isInt || t == .f32
  | .atomSwap _ _ _ t _ => t.isInt
  | .atomCas _ _ _ t _ => t.isInt
  | .atomFand _ _ _ t _ => t.isInt
  | .atomFor _ _ _ t _ => t.isInt
  | .atomFxor _ _ _ t _ => t.isInt
  | .atomFmin _ _ _ t _ => t != .f32
  | .atomFmax _ _ _ t _ => t != .f32
  | .atomRsv _ _ t _ => t.isInt
  | .atomRel _ _ _ t _ => t.isInt
  | .copyAff h _ => flagsWithin 0b11 h.flags
  | .copyRed h _ => flagsWithin 0b11 h.flags
  | .copyPull h _ => flagsWithin 0 h.flags
  | .copyMcast h _ => flagsWithin 0 h.flags
  | .copyEv h _ => flagsWithin 0 h.flags
  | .copyBar h _ => flagsWithin 0 h.flags
  | .copyProbe h _ => flagsWithin 0 h.flags
  | .copyHatom h _ => flagsWithin 0b1111 h.flags
  | .copyWb h _ => flagsWithin 0 h.flags
  | .copyInv h _ => flagsWithin 0 h.flags
  | .mxLdw flags _ => flagsWithin 0b1 flags
  | .mxSwap flags _ => flagsWithin 0 flags
  | .mxRun flags _ => flagsWithin 0b11 flags
  | .mxAcc flags _ => flagsWithin 0b10 flags
  | .mxSt flags _ => flagsWithin 0b1111 flags
  | .mxZero flags _ => flagsWithin 0b10 flags
  | .mxScale flags _ => flagsWithin 0b1 flags
  | .evCfg flags _ => flagsWithin 0b1 flags
  | .evInj flags _ => flagsWithin 0 flags
  | .evHorizon flags _ => flagsWithin 0 flags
  | .evRun flags _ => flagsWithin 0b1 flags
  | .evRead flags _ => flagsWithin 0b1 flags
  | _ => true

end Sys2Proof
end

