-- ==== Sys2Proof/Decode.lean ====
section
/-!
DEFINITION. The two encodings of spec/03: S-words (R70 to R77) and T-words (R78 to R81). The decoder is total on any
bits and rejects by name; the encoder stands after it.
-/
namespace Sys2Proof

/-- Why a word is no instruction (R76, R77) or a T-word no command (R81). -/
inductive Illegal where
  /-- The all-zero word, or a major in 0x1D to 0x3F (R77 order 1). -/
  | reservedMajor
  /-- A function value the major does not list (order 2). -/
  | function
  /-- A modifier value the instruction does not list (order 3). -/
  | modifier
  /-- A register field outside its class (order 3, R73). -/
  | operandClass
  /-- Nonzero unused bits or a misused la (order 4, R74, R14). -/
  | unusedBits
  /-- A T-word whose engine code is reserved (R81 check 1). -/
  | engine
  /-- A T-word whose command code is reserved for its engine (R81 check 2). -/
  | command
  /-- A T-word with a reserved header bit, or a field its engine does not use (R81 check 3). -/
  | headerBits
  /-- A T-word with a flag bit its command does not define (R81 check 4). -/
  | flagBits
  /-- Neither one S-word nor the eight words of a T-word. -/
  | length
  deriving DecidableEq, Repr, Inhabited

/-- The fields of an S-word, by format (R70). -/
inductive Raw where
  | fR (maj : BitVec 6) (d a b : BitVec 5) (fn : BitVec 7) (la : BitVec 4)
  | fI (maj : BitVec 6) (d a : BitVec 5) (fn : BitVec 3) (imm : BitVec 13)
  | fM (maj : BitVec 6) (d a : BitVec 5) (fn : BitVec 3) (off : BitVec 9) (la : BitVec 4)
  | fB (maj : BitVec 6) (fn : BitVec 2) (p : BitVec 3) (a : BitVec 5) (off : BitVec 16)
  | fJ (maj : BitVec 6) (off : BitVec 26)
  | fU (maj : BitVec 6) (d : BitVec 5) (imm : BitVec 21)
  deriving DecidableEq, Repr, Inhabited

/-- The formats of R70 (V has the layout of R). -/
inductive Fmt where
  | r
  | i
  | m
  | b
  | j
  | u
  deriving DecidableEq, Repr, Inhabited

/-- The format of each major opcode (R75); none for the reserved majors. -/
def fmtOf (maj : BitVec 6) : Option Fmt :=
  match maj.toNat with
  | 0 | 1 | 4 | 5 | 11 | 14 | 15 | 16 | 17 | 18 | 19 | 20 | 24 | 25 | 26 | 27 | 28 => some .r
  | 2 | 6 | 10 | 21 => some .i
  | 12 | 13 | 22 | 23 => some .m
  | 7 => some .b
  | 8 | 9 => some .j
  | 3 => some .u
  | _ => none

/-- The bit positions of R70. -/
def Raw.pack : Raw → BitVec 32
  | .fR maj d a b fn la => maj ++ d ++ a ++ b ++ fn ++ la
  | .fI maj d a fn imm => maj ++ d ++ a ++ fn ++ imm
  | .fM maj d a fn off la => maj ++ d ++ a ++ fn ++ off ++ la
  | .fB maj fn p a off => maj ++ fn ++ p ++ a ++ off
  | .fJ maj off => maj ++ off
  | .fU maj d imm => maj ++ d ++ imm

/-- The fields of a word, cut out once at the positions of R70; the all-zero word and reserved majors are refused. -/
def Raw.unpack (w : BitVec 32) : Except Illegal Raw :=
  if w = 0 then .error .reservedMajor else
  let maj := w.extractLsb' 26 6
  let d := w.extractLsb' 21 5
  let a := w.extractLsb' 16 5
  match fmtOf maj with
  | some .r => .ok (.fR maj d a (w.extractLsb' 11 5) (w.extractLsb' 4 7) (w.extractLsb' 0 4))
  | some .i => .ok (.fI maj d a (w.extractLsb' 13 3) (w.extractLsb' 0 13))
  | some .m => .ok (.fM maj d a (w.extractLsb' 13 3) (w.extractLsb' 4 9) (w.extractLsb' 0 4))
  | some .b => .ok (.fB maj (w.extractLsb' 24 2) (w.extractLsb' 21 3) a (w.extractLsb' 0 16))
  | some .j => .ok (.fJ maj (w.extractLsb' 0 26))
  | some .u => .ok (.fU maj d (w.extractLsb' 0 21))
  | none => .error .reservedMajor

/-- wd of R96: d is 0, w is 1. -/
def Wd.bits : Wd → BitVec 1
  | .d => 0
  | .w => 1
def Wd.ofBits (x : BitVec 1) : Wd := if x = 0 then .d else .w

/-- fn[2] of R142: i is 0, n is 1. -/
def Sgn.bits : Sgn → BitVec 1
  | .i => 0
  | .n => 1
def Sgn.ofBits (x : BitVec 1) : Sgn := if x = 0 then .i else .n

/-- fn[1:0] of R142 and R153: 0 for 8 bits up to 3 for 64. -/
def LaneW.bits : LaneW → BitVec 2
  | .b => 0
  | .h => 1
  | .w => 2
  | .d => 3
def LaneW.ofBits (x : BitVec 2) : LaneW :=
  if x = 0 then .b else if x = 1 then .h else if x = 2 then .w else .d

/-- fn[2:0] of vflt, vred and vcvt: 0 rne to 4 dyn, 5 to 7 reserved. -/
def RoundSel.bits : RoundSel → BitVec 3
  | .rne => 0
  | .rtz => 1
  | .rdn => 2
  | .rup => 3
  | .dyn => 4
def RoundSel.ofBits (x : BitVec 3) : Except Illegal RoundSel :=
  match x.toNat with
  | 0 => .ok .rne
  | 1 => .ok .rtz
  | 2 => .ok .rdn
  | 3 => .ok .rup
  | 4 => .ok .dyn
  | _ => .error .modifier

/-- fn[2:0] of atom: 0 i32 to 4 f32, 5 to 7 reserved. -/
def AtomTy.bits : AtomTy → BitVec 3
  | .i32 => 0
  | .i64 => 1
  | .n32 => 2
  | .n64 => 3
  | .f32 => 4
def AtomTy.ofBits (x : BitVec 3) : Except Illegal AtomTy :=
  match x.toNat with
  | 0 => .ok .i32
  | 1 => .ok .i64
  | 2 => .ok .n32
  | 3 => .ok .n64
  | 4 => .ok .f32
  | _ => .error .modifier

/-- The table selector of vcvt: 0 t8, 1 t4, 2 to 7 reserved. -/
def TblSel.bits : TblSel → BitVec 3
  | .t8 => 0
  | .t4 => 1
def TblSel.ofBits (x : BitVec 3) : Except Illegal TblSel :=
  match x.toNat with
  | 0 => .ok .t8
  | 1 => .ok .t4
  | _ => .error .modifier

/-- The selectors of R114. -/
def KReg.sel : KReg → BitVec 13
  | .tile => 0x000
  | .core => 0x001
  | .thread => 0x002
  | .deck => 0x003
  | .part => 0x004
  | .period => 0x010
  | .act => 0x011
  | .drift => 0x012
  | .driftalarm => 0x013
  | .overrun => 0x014
  | .clock => 0x020
  | .tcyc => 0x021
  | .tbm => 0x030
  | .fflags => 0x040
  | .frm => 0x041
  | .tvec => 0x050
  | .tpc => 0x051
  | .tinst => 0x052
  | .tcause => 0x053
  | .tval => 0x054
  | .tstat => 0x055
  | .loopcnt => 0x060
  | .loopstart => 0x061
  | .loopend => 0x062
  | .mxw => 0x070
  | .seed => 0x071
  | .epoch => 0x072
/-- The control register of a selector; a selector R114 does not list is refused. -/
def KReg.ofSel (x : BitVec 13) : Except Illegal KReg :=
  match x.toNat with
  | 0x000 => .ok .tile
  | 0x001 => .ok .core
  | 0x002 => .ok .thread
  | 0x003 => .ok .deck
  | 0x004 => .ok .part
  | 0x010 => .ok .period
  | 0x011 => .ok .act
  | 0x012 => .ok .drift
  | 0x013 => .ok .driftalarm
  | 0x014 => .ok .overrun
  | 0x020 => .ok .clock
  | 0x021 => .ok .tcyc
  | 0x030 => .ok .tbm
  | 0x040 => .ok .fflags
  | 0x041 => .ok .frm
  | 0x050 => .ok .tvec
  | 0x051 => .ok .tpc
  | 0x052 => .ok .tinst
  | 0x053 => .ok .tcause
  | 0x054 => .ok .tval
  | 0x055 => .ok .tstat
  | 0x060 => .ok .loopcnt
  | 0x061 => .ok .loopstart
  | 0x062 => .ok .loopend
  | 0x070 => .ok .mxw
  | 0x071 => .ok .seed
  | 0x072 => .ok .epoch
  | _ => .error .modifier

/-- A register field of the vector class (R73): 16 to 31 are refused. -/
def vec (x : BitVec 5) : Except Illegal VReg :=
  if x.extractLsb' 4 1 = 0 then .ok (x.extractLsb' 0 4) else .error .operandClass
/-- A register field of the predicate or port class (R73): 8 to 31 are refused. -/
def prd (x : BitVec 5) : Except Illegal PReg :=
  if x.extractLsb' 3 2 = 0 then .ok (x.extractLsb' 0 3) else .error .operandClass
/-- An unused field must be 0 (R73, R74, R14). -/
def unused {n : Nat} (x : BitVec n) : Except Illegal Unit :=
  if x = 0 then .ok () else .error .unusedBits
/-- An atom whose op does not list its type is refused (R177). -/
def admitted (i : Instr) : Except Illegal Instr := if i.wf then .ok i else .error .modifier

/-- Major 0x00 (R75). -/
def decodeSys (d a b : BitVec 5) (fn : BitVec 7) (la : BitVec 4) : Except Illegal Instr :=
  match fn.toNat with
  | 1 => do unused d; unused a; unused b; unused la; .ok .sysNop
  | 2 => do let code := (d ++ a : BitVec 10); unused b; unused la; .ok (.sysBreak code)
  | 3 => do let code := (d ++ a : BitVec 10); unused b; unused la; .ok (.sysScall code)
  | 4 => do unused d; unused a; unused b; unused la; .ok .sysTret
  | 5 => do unused d; unused a; unused b; unused la; .ok .sysCxend
  | 6 => do unused d; unused b; unused la; .ok (.sysJr a)
  | 7 => do unused d; unused b; unused la; .ok (.sysCallr a)
  | _ => .error .function

/-- Major 0x01 (R75). -/
def decodeAlu (d a b : BitVec 5) (fn : BitVec 7) (la : BitVec 4) : Except Illegal Instr :=
  let sub := fn.extractLsb' 0 1
  match (fn.extractLsb' 1 6).toNat with
  | 1 => do let wd := Wd.ofBits sub; unused la; .ok (.aluAdd d a b wd)
  | 2 => do let wd := Wd.ofBits sub; unused la; .ok (.aluSub d a b wd)
  | 3 => do let wd := Wd.ofBits sub; unused la; .ok (.aluAnd d a b wd)
  | 4 => do let wd := Wd.ofBits sub; unused la; .ok (.aluOr d a b wd)
  | 5 => do let wd := Wd.ofBits sub; unused la; .ok (.aluXor d a b wd)
  | 6 => do let wd := Wd.ofBits sub; unused la; .ok (.aluAndn d a b wd)
  | 7 => do let wd := Wd.ofBits sub; unused la; .ok (.aluShl d a b wd)
  | 8 => do let wd := Wd.ofBits sub; unused la; .ok (.aluShr d a b wd)
  | 9 => do let wd := Wd.ofBits sub; unused la; .ok (.aluSar d a b wd)
  | 10 => do let wd := Wd.ofBits sub; unused la; .ok (.aluMul d a b wd)
  | 11 => do let wd := Wd.ofBits sub; unused la; .ok (.aluMin d a b wd)
  | 12 => do let wd := Wd.ofBits sub; unused la; .ok (.aluMax d a b wd)
  | 13 => do let wd := Wd.ofBits sub; unused la; .ok (.aluMinu d a b wd)
  | 14 => do let wd := Wd.ofBits sub; unused la; .ok (.aluMaxu d a b wd)
  | 15 => do let wd := Wd.ofBits sub; unused b; unused la; .ok (.aluClz d a wd)
  | 16 => do let wd := Wd.ofBits sub; unused b; unused la; .ok (.aluPopc d a wd)
  | 17 => do let wd := Wd.ofBits sub; unused la; .ok (.aluAdds d a b wd)
  | 18 => do let wd := Wd.ofBits sub; unused la; .ok (.aluSubs d a b wd)
  | _ => .error .function

/-- Major 0x02 (R75). -/
def decodeAlui (d a : BitVec 5) (fn : BitVec 3) (imm : BitVec 13) : Except Illegal Instr :=
  match fn.toNat with
  | 0 => .ok (.aluiAdd d a imm)
  | 1 => .ok (.aluiAnd d a imm)
  | 2 => .ok (.aluiOr d a imm)
  | 3 => .ok (.aluiXor d a imm)
  | 4 => do unused (imm.extractLsb' 6 7); let imm := imm.extractLsb' 0 6; .ok (.aluiShl d a imm)
  | 5 => do unused (imm.extractLsb' 6 7); let imm := imm.extractLsb' 0 6; .ok (.aluiShr d a imm)
  | 6 => do unused (imm.extractLsb' 6 7); let imm := imm.extractLsb' 0 6; .ok (.aluiSar d a imm)
  | _ => .error .function

/-- Major 0x04 (R75). -/
def decodeMdv (d a b : BitVec 5) (fn : BitVec 7) (la : BitVec 4) : Except Illegal Instr :=
  let sub := fn.extractLsb' 0 1
  match (fn.extractLsb' 1 6).toNat with
  | 1 => do let wd := Wd.ofBits sub; .ok (.mdvMulh d a b wd la)
  | 2 => do let wd := Wd.ofBits sub; .ok (.mdvMulhu d a b wd la)
  | 3 => do let wd := Wd.ofBits sub; .ok (.mdvDiv d a b wd la)
  | 4 => do let wd := Wd.ofBits sub; .ok (.mdvDivu d a b wd la)
  | 5 => do let wd := Wd.ofBits sub; .ok (.mdvRem d a b wd la)
  | 6 => do let wd := Wd.ofBits sub; .ok (.mdvRemu d a b wd la)
  | _ => .error .function

/-- Major 0x05 (R75). -/
def decodeCmp (d a b : BitVec 5) (fn : BitVec 7) (la : BitVec 4) : Except Illegal Instr :=
  match fn.toNat with
  | 64 => do let d ← prd d; let a ← prd a; let b ← prd b; unused la; .ok (.cmpPand d a b)
  | 65 => do let d ← prd d; let a ← prd a; let b ← prd b; unused la; .ok (.cmpPor d a b)
  | 66 => do let d ← prd d; let a ← prd a; let b ← prd b; unused la; .ok (.cmpPxor d a b)
  | 67 => do let d ← prd d; let a ← prd a; let b ← prd b; unused la; .ok (.cmpPandn d a b)
  | _ =>
    let sub := fn.extractLsb' 0 1
    match (fn.extractLsb' 1 6).toNat with
    | 1 => do let wd := Wd.ofBits sub; let d ← prd d; unused la; .ok (.cmpEq d a b wd)
    | 2 => do let wd := Wd.ofBits sub; let d ← prd d; unused la; .ok (.cmpNe d a b wd)
    | 3 => do let wd := Wd.ofBits sub; let d ← prd d; unused la; .ok (.cmpLt d a b wd)
    | 4 => do let wd := Wd.ofBits sub; let d ← prd d; unused la; .ok (.cmpGe d a b wd)
    | 5 => do let wd := Wd.ofBits sub; let d ← prd d; unused la; .ok (.cmpLtu d a b wd)
    | 6 => do let wd := Wd.ofBits sub; let d ← prd d; unused la; .ok (.cmpGeu d a b wd)
    | _ => .error .function

/-- Major 0x06 (R75). -/
def decodeCmpi (d a : BitVec 5) (fn : BitVec 3) (imm : BitVec 13) : Except Illegal Instr :=
  match fn.toNat with
  | 0 => do let d ← prd d; .ok (.cmpiEq d a imm)
  | 1 => do let d ← prd d; .ok (.cmpiNe d a imm)
  | 2 => do let d ← prd d; .ok (.cmpiLt d a imm)
  | 3 => do let d ← prd d; .ok (.cmpiGe d a imm)
  | 4 => do let d ← prd d; .ok (.cmpiLtu d a imm)
  | 5 => do let d ← prd d; .ok (.cmpiGeu d a imm)
  | _ => .error .function

/-- Major 0x07 (R75). -/
def decodeBr (fn : BitVec 2) (p : BitVec 3) (a : BitVec 5) (off : BitVec 16) : Except Illegal Instr :=
  match fn.toNat with
  | 0 => do unused a; .ok (.brT p off)
  | 1 => do unused a; .ok (.brF p off)
  | 2 => do unused p; .ok (.brNz a off)
  | 3 => do unused p; .ok (.brZ a off)
  | _ => .error .function

/-- Major 0x0A (R75). -/
def decodeLoop (d a : BitVec 5) (fn : BitVec 3) (imm : BitVec 13) : Except Illegal Instr :=
  match fn.toNat with
  | 0 => do unused d; .ok (.loopIn a imm)
  | 1 => do unused d; .ok (.loopOut a imm)
  | _ => .error .function

/-- Major 0x0B (R75). -/
def decodeCallat (d a b : BitVec 5) (fn : BitVec 7) (la : BitVec 4) : Except Illegal Instr :=
  match fn.toNat with
  | 1 => .ok (.callatSend d a b la)
  | _ => .error .function

/-- Major 0x0C (R75). -/
def decodeMemLd (d a : BitVec 5) (fn : BitVec 3) (off : BitVec 9) (la : BitVec 4) : Except Illegal Instr :=
  match fn.toNat with
  | 0 => .ok (.memLdB d a off la)
  | 1 => .ok (.memLdH d a off la)
  | 2 => .ok (.memLdW d a off la)
  | 3 => .ok (.memLdD d a off la)
  | 4 => .ok (.memLdI8 d a off la)
  | 5 => .ok (.memLdI16 d a off la)
  | 6 => .ok (.memLdI32 d a off la)
  | 7 => .ok (.memLdRo d a off la)
  | _ => .error .function

/-- Major 0x0D (R75). -/
def decodeMemSt (d a : BitVec 5) (fn : BitVec 3) (off : BitVec 9) (la : BitVec 4) : Except Illegal Instr :=
  match fn.toNat with
  | 0 => do unused la; .ok (.memStB d a off)
  | 1 => do unused la; .ok (.memStH d a off)
  | 2 => do unused la; .ok (.memStW d a off)
  | 3 => do unused la; .ok (.memStD d a off)
  | _ => .error .function

/-- Major 0x0E (R75). -/
def decodeAtom (d a b : BitVec 5) (fn : BitVec 7) (la : BitVec 4) : Except Illegal Instr :=
  let sub := fn.extractLsb' 0 3
  match (fn.extractLsb' 3 4).toNat with
  | 1 => do let t ← AtomTy.ofBits sub; admitted (.atomFaa d a b t la)
  | 2 => do let t ← AtomTy.ofBits sub; admitted (.atomSwap d a b t la)
  | 3 => do let t ← AtomTy.ofBits sub; admitted (.atomCas d a b t la)
  | 4 => do let t ← AtomTy.ofBits sub; admitted (.atomFand d a b t la)
  | 5 => do let t ← AtomTy.ofBits sub; admitted (.atomFor d a b t la)
  | 6 => do let t ← AtomTy.ofBits sub; admitted (.atomFxor d a b t la)
  | 7 => do let t ← AtomTy.ofBits sub; admitted (.atomFmin d a b t la)
  | 8 => do let t ← AtomTy.ofBits sub; admitted (.atomFmax d a b t la)
  | 9 => do let t ← AtomTy.ofBits sub; unused b; admitted (.atomRsv d a t la)
  | 10 => do let t ← AtomTy.ofBits sub; admitted (.atomRel d a b t la)
  | 11 => do unused d; unused a; unused b; unused la; unused sub; .ok .atomDrop
  | _ => .error .function

/-- Major 0x0F (R75). -/
def decodeSync (d a b : BitVec 5) (fn : BitVec 7) (la : BitVec 4) : Except Illegal Instr :=
  let sub := fn.extractLsb' 0 3
  match (fn.extractLsb' 3 4).toNat with
  | 1 => do unused d; unused a; unused b; unused la; unused sub; .ok .syncFenceCore
  | 2 => do unused d; unused a; unused b; unused la; unused sub; .ok .syncFenceTile
  | 3 => do let tp := sub; unused d; unused a; unused la; .ok (.syncFencePart b tp)
  | 4 => do unused d; unused b; unused la; unused sub; .ok (.syncWatch a)
  | 5 => do unused d; unused a; unused b; unused la; unused sub; .ok .syncUnwatch
  | 6 => do let tp := sub; unused d; unused a; .ok (.syncWaitw b tp la)
  | 7 => do let tp := sub; .ok (.syncLdf d a b tp la)
  | 8 => do let tp := sub; .ok (.syncLdfe d a b tp la)
  | 9 => do unused b; unused la; unused sub; .ok (.syncStf d a)
  | 10 => do let tp := sub; .ok (.syncStef d a b tp la)
  | 11 => do unused d; unused b; unused la; unused sub; .ok (.syncClre a)
  | 12 => do unused d; unused a; unused b; unused la; unused sub; .ok .syncRo
  | 13 => do unused d; unused a; unused b; unused la; unused sub; .ok .syncRec
  | 14 => do unused d; unused b; unused la; unused sub; .ok (.syncLwb a)
  | 15 => do unused d; unused b; unused la; unused sub; .ok (.syncLinv a)
  | _ => .error .function

/-- Major 0x10 (R75). -/
def decodeMsg (d a b : BitVec 5) (fn : BitVec 7) (la : BitVec 4) : Except Illegal Instr :=
  let sub := fn.extractLsb' 0 3
  match (fn.extractLsb' 3 4).toNat with
  | 1 => do let tp := sub; let d ← prd d; .ok (.msgSend d a b tp la)
  | 2 => do let tp := sub; let a ← prd a; .ok (.msgRecv d a b tp la)
  | 3 => do let tp := sub; let a ← prd a; .ok (.msgRecvs d a b tp la)
  | 4 => do let tp := sub; let a ← prd a; .ok (.msgRecvr d a b tp la)
  | 5 => do let a ← prd a; unused b; unused la; unused sub; .ok (.msgPeek d a)
  | _ => .error .function

/-- Major 0x11 (R75). -/
def decodeSmp (d a b : BitVec 5) (fn : BitVec 7) (la : BitVec 4) : Except Illegal Instr :=
  let sub := fn.extractLsb' 0 3
  match (fn.extractLsb' 3 4).toNat with
  | 1 => do let d ← vec d; unused b; unused la; unused sub; .ok (.smpPost d a)
  | 2 => do let tp := sub; let d ← vec d; .ok (.smpSample d a b tp la)
  | 3 => do unused b; unused sub; .ok (.smpCount d a la)
  | 4 => do let tp := sub; .ok (.smpWait d a b tp la)
  | 5 => do let tp := sub; unused a; .ok (.smpBar d b tp la)
  | _ => .error .function

/-- Major 0x12 (R75). -/
def decodeTask (d a b : BitVec 5) (fn : BitVec 7) (la : BitVec 4) : Except Illegal Instr :=
  match fn.toNat with
  | 1 => .ok (.taskSpawn d a b la)
  | 2 => do unused d; unused a; unused b; unused la; .ok .taskYield
  | 3 => do unused d; unused b; unused la; .ok (.taskPark a)
  | 4 => do unused d; unused b; unused la; .ok (.taskJoin a)
  | 5 => do unused d; unused b; unused la; .ok (.taskRetire a)
  | 6 => .ok (.taskCancel d a b la)
  | _ => .error .function

/-- Major 0x13 (R75). -/
def decodeEng (d a b : BitVec 5) (fn : BitVec 7) (la : BitVec 4) : Except Illegal Instr :=
  let sub := fn.extractLsb' 0 3
  match (fn.extractLsb' 3 4).toNat with
  | 1 => do let tp := sub; let a ← vec a; unused la; .ok (.engPush d a b tp)
  | 2 => do let tp := sub; .ok (.engXidwait d a b tp la)
  | 3 => do let tp := sub; .ok (.engJidwait d a b tp la)
  | 4 => do unused b; unused la; unused sub; .ok (.engJidrd d a)
  | _ => .error .function

/-- Major 0x14 (R75). -/
def decodeStrm (d a b : BitVec 5) (fn : BitVec 7) (la : BitVec 4) : Except Illegal Instr :=
  match fn.toNat with
  | 1 => do let d ← vec d; unused b; unused la; .ok (.strmBind d a)
  | 2 => do let d ← vec d; unused a; unused b; unused la; .ok (.strmUnbind d)
  | 3 => do let b ← vec b; unused a; unused la; .ok (.strmXid d b)
  | _ => .error .function

/-- Major 0x15 (R75). -/
def decodeKreg (d a : BitVec 5) (fn : BitVec 3) (imm : BitVec 13) : Except Illegal Instr :=
  match fn.toNat with
  | 0 => do let imm ← KReg.ofSel imm; unused a; .ok (.kregRd d imm)
  | 1 => do let imm ← KReg.ofSel imm; unused d; .ok (.kregWr a imm)
  | 2 => do let imm ← KReg.ofSel imm; unused d; .ok (.kregSet a imm)
  | 3 => do let imm ← KReg.ofSel imm; unused d; .ok (.kregClr a imm)
  | _ => .error .function

/-- Major 0x16 (R75). -/
def decodeVmemLd (d a : BitVec 5) (fn : BitVec 3) (off : BitVec 9) (la : BitVec 4) : Except Illegal Instr :=
  match fn.toNat with
  | 0 => do let d ← vec d; .ok (.vmemLdV d a off la)
  | 1 => do let d ← vec d; .ok (.vmemLdSw d a off la)
  | 2 => do let d ← vec d; .ok (.vmemLdSd d a off la)
  | 3 => do let d ← vec d; .ok (.vmemLdRo d a off la)
  | _ => .error .function

/-- Major 0x17 (R75). -/
def decodeVmemSt (d a : BitVec 5) (fn : BitVec 3) (off : BitVec 9) (la : BitVec 4) : Except Illegal Instr :=
  match fn.toNat with
  | 0 => do let d ← vec d; unused la; .ok (.vmemStV d a off)
  | 1 => do let d ← vec d; unused la; .ok (.vmemStW d a off)
  | 2 => do let d ← vec d; unused la; .ok (.vmemStD d a off)
  | _ => .error .function

/-- Major 0x18 (R75). -/
def decodeValu (d a b : BitVec 5) (fn : BitVec 7) (la : BitVec 4) : Except Illegal Instr :=
  let sub := fn.extractLsb' 0 3
  match (fn.extractLsb' 3 4).toNat with
  | 1 => do let sg := Sgn.ofBits (sub.extractLsb' 2 1); let lw := LaneW.ofBits (sub.extractLsb' 0 2); let d ← vec d; let a ← vec a; let b ← vec b; unused la; .ok (.valuAdd d a b sg lw)
  | 2 => do let sg := Sgn.ofBits (sub.extractLsb' 2 1); let lw := LaneW.ofBits (sub.extractLsb' 0 2); let d ← vec d; let a ← vec a; let b ← vec b; unused la; .ok (.valuSub d a b sg lw)
  | 3 => do let sg := Sgn.ofBits (sub.extractLsb' 2 1); let lw := LaneW.ofBits (sub.extractLsb' 0 2); let d ← vec d; let a ← vec a; let b ← vec b; unused la; .ok (.valuAdds d a b sg lw)
  | 4 => do let sg := Sgn.ofBits (sub.extractLsb' 2 1); let lw := LaneW.ofBits (sub.extractLsb' 0 2); let d ← vec d; let a ← vec a; let b ← vec b; unused la; .ok (.valuSubs d a b sg lw)
  | 5 => do let sg := Sgn.ofBits (sub.extractLsb' 2 1); let lw := LaneW.ofBits (sub.extractLsb' 0 2); let d ← vec d; let a ← vec a; let b ← vec b; unused la; .ok (.valuMul d a b sg lw)
  | 6 => do let sg := Sgn.ofBits (sub.extractLsb' 2 1); let lw := LaneW.ofBits (sub.extractLsb' 0 2); let d ← vec d; let a ← vec a; let b ← vec b; unused la; .ok (.valuMulh d a b sg lw)
  | 7 => do let sg := Sgn.ofBits (sub.extractLsb' 2 1); let lw := LaneW.ofBits (sub.extractLsb' 0 2); let d ← vec d; let a ← vec a; let b ← vec b; unused la; .ok (.valuMin d a b sg lw)
  | 8 => do let sg := Sgn.ofBits (sub.extractLsb' 2 1); let lw := LaneW.ofBits (sub.extractLsb' 0 2); let d ← vec d; let a ← vec a; let b ← vec b; unused la; .ok (.valuMax d a b sg lw)
  | 9 => do let sg := Sgn.ofBits (sub.extractLsb' 2 1); let lw := LaneW.ofBits (sub.extractLsb' 0 2); let d ← vec d; let a ← vec a; let b ← vec b; unused la; .ok (.valuAnd d a b sg lw)
  | 10 => do let sg := Sgn.ofBits (sub.extractLsb' 2 1); let lw := LaneW.ofBits (sub.extractLsb' 0 2); let d ← vec d; let a ← vec a; let b ← vec b; unused la; .ok (.valuOr d a b sg lw)
  | 11 => do let sg := Sgn.ofBits (sub.extractLsb' 2 1); let lw := LaneW.ofBits (sub.extractLsb' 0 2); let d ← vec d; let a ← vec a; let b ← vec b; unused la; .ok (.valuXor d a b sg lw)
  | 12 => do let sg := Sgn.ofBits (sub.extractLsb' 2 1); let lw := LaneW.ofBits (sub.extractLsb' 0 2); let d ← vec d; let a ← vec a; let b ← vec b; unused la; .ok (.valuShl d a b sg lw)
  | 13 => do let sg := Sgn.ofBits (sub.extractLsb' 2 1); let lw := LaneW.ofBits (sub.extractLsb' 0 2); let d ← vec d; let a ← vec a; let b ← vec b; unused la; .ok (.valuShr d a b sg lw)
  | 14 => do let sg := Sgn.ofBits (sub.extractLsb' 2 1); let lw := LaneW.ofBits (sub.extractLsb' 0 2); let d ← vec d; let a ← vec a; let b ← vec b; unused la; .ok (.valuCeq d a b sg lw)
  | 15 => do let sg := Sgn.ofBits (sub.extractLsb' 2 1); let lw := LaneW.ofBits (sub.extractLsb' 0 2); let d ← vec d; let a ← vec a; let b ← vec b; unused la; .ok (.valuClt d a b sg lw)
  | _ => .error .function

/-- Major 0x19 (R75). -/
def decodeVflt (d a b : BitVec 5) (fn : BitVec 7) (la : BitVec 4) : Except Illegal Instr :=
  let sub := fn.extractLsb' 0 3
  match (fn.extractLsb' 3 4).toNat with
  | 1 => do let rm ← RoundSel.ofBits sub; let d ← vec d; let a ← vec a; let b ← vec b; unused la; .ok (.vfltAdd d a b rm)
  | 2 => do let rm ← RoundSel.ofBits sub; let d ← vec d; let a ← vec a; let b ← vec b; unused la; .ok (.vfltSub d a b rm)
  | 3 => do let rm ← RoundSel.ofBits sub; let d ← vec d; let a ← vec a; let b ← vec b; unused la; .ok (.vfltMul d a b rm)
  | 4 => do let rm ← RoundSel.ofBits sub; let d ← vec d; let a ← vec a; let b ← vec b; unused la; .ok (.vfltFma d a b rm)
  | 5 => do let rm ← RoundSel.ofBits sub; let d ← vec d; let a ← vec a; let b ← vec b; unused la; .ok (.vfltFnma d a b rm)
  | 6 => do let rm ← RoundSel.ofBits sub; let d ← vec d; let a ← vec a; let b ← vec b; .ok (.vfltDiv d a b rm la)
  | 7 => do let rm ← RoundSel.ofBits sub; let d ← vec d; let a ← vec a; unused b; .ok (.vfltSqrt d a rm la)
  | 8 => do let d ← vec d; let a ← vec a; let b ← vec b; unused la; unused sub; .ok (.vfltMin d a b)
  | 9 => do let d ← vec d; let a ← vec a; let b ← vec b; unused la; unused sub; .ok (.vfltMax d a b)
  | 10 => do let d ← vec d; let a ← vec a; unused b; unused la; unused sub; .ok (.vfltAbs d a)
  | 11 => do let d ← vec d; let a ← vec a; unused b; unused la; unused sub; .ok (.vfltNeg d a)
  | 12 => do let d ← vec d; let a ← vec a; let b ← vec b; unused la; unused sub; .ok (.vfltCeq d a b)
  | 13 => do let d ← vec d; let a ← vec a; let b ← vec b; unused la; unused sub; .ok (.vfltClt d a b)
  | 14 => do let d ← vec d; let a ← vec a; let b ← vec b; unused la; unused sub; .ok (.vfltCle d a b)
  | _ => .error .function

/-- Major 0x1A (R75). -/
def decodeVcvt (d a b : BitVec 5) (fn : BitVec 7) (la : BitVec 4) : Except Illegal Instr :=
  let sub := fn.extractLsb' 0 3
  match (fn.extractLsb' 3 4).toNat with
  | 1 => do let rm ← RoundSel.ofBits sub; let d ← vec d; let a ← vec a; unused b; unused la; .ok (.vcvtToi d a rm)
  | 2 => do let rm ← RoundSel.ofBits sub; let d ← vec d; let a ← vec a; unused b; unused la; .ok (.vcvtTon d a rm)
  | 3 => do let rm ← RoundSel.ofBits sub; let d ← vec d; let a ← vec a; unused b; unused la; .ok (.vcvtFri d a rm)
  | 4 => do let rm ← RoundSel.ofBits sub; let d ← vec d; let a ← vec a; unused b; unused la; .ok (.vcvtFrn d a rm)
  | 5 => do let rm ← RoundSel.ofBits sub; let d ← vec d; let a ← vec a; unused b; unused la; .ok (.vcvtTox d a rm)
  | 6 => do let rm ← RoundSel.ofBits sub; let d ← vec d; let a ← vec a; let b ← vec b; unused la; .ok (.vcvtPkh d a b rm)
  | 7 => do let rm ← RoundSel.ofBits sub; let d ← vec d; let a ← vec a; let b ← vec b; unused la; .ok (.vcvtPkb d a b rm)
  | 8 => do let d ← vec d; let a ← vec a; unused b; unused la; unused sub; .ok (.vcvtUplh d a)
  | 9 => do let d ← vec d; let a ← vec a; unused b; unused la; unused sub; .ok (.vcvtUphh d a)
  | 10 => do let d ← vec d; let a ← vec a; unused b; unused la; unused sub; .ok (.vcvtUplb d a)
  | 11 => do let d ← vec d; let a ← vec a; unused b; unused la; unused sub; .ok (.vcvtUphb d a)
  | 12 => do let rm ← RoundSel.ofBits sub; let d ← vec d; let a ← vec a; unused b; unused la; .ok (.vcvtEnc8 d a rm)
  | 13 => do let rm ← RoundSel.ofBits sub; let d ← vec d; let a ← vec a; unused b; unused la; .ok (.vcvtEnc4 d a rm)
  | 14 => do let t ← TblSel.ofBits sub; let d ← vec d; let a ← vec a; unused b; unused la; .ok (.vcvtDec d a t)
  | 15 => do let t ← TblSel.ofBits sub; unused d; unused b; .ok (.vcvtTload a t la)
  | _ => .error .function

/-- Major 0x1B (R75). -/
def decodeVred (d a b : BitVec 5) (fn : BitVec 7) (la : BitVec 4) : Except Illegal Instr :=
  let sub := fn.extractLsb' 0 3
  match (fn.extractLsb' 3 4).toNat with
  | 1 => do let rm ← RoundSel.ofBits sub; let a ← vec a; unused b; unused la; .ok (.vredFadd d a rm)
  | 2 => do let a ← vec a; unused b; unused la; unused sub; .ok (.vredFmax d a)
  | 3 => do let a ← vec a; unused b; unused la; unused sub; .ok (.vredFmin d a)
  | 4 => do let sg := Sgn.ofBits (sub.extractLsb' 2 1); let lw := LaneW.ofBits (sub.extractLsb' 0 2); let a ← vec a; unused b; unused la; .ok (.vredAdd d a sg lw)
  | 5 => do let sg := Sgn.ofBits (sub.extractLsb' 2 1); let lw := LaneW.ofBits (sub.extractLsb' 0 2); let a ← vec a; unused b; unused la; .ok (.vredMax d a sg lw)
  | 6 => do let sg := Sgn.ofBits (sub.extractLsb' 2 1); let lw := LaneW.ofBits (sub.extractLsb' 0 2); let a ← vec a; unused b; unused la; .ok (.vredMin d a sg lw)
  | 7 => do let a ← vec a; unused b; unused la; unused sub; .ok (.vredAnd d a)
  | 8 => do let a ← vec a; unused b; unused la; unused sub; .ok (.vredOr d a)
  | 9 => do let a ← vec a; unused b; unused la; unused sub; .ok (.vredXor d a)
  | _ => .error .function

/-- Major 0x1C (R75). -/
def decodeVmov (d a b : BitVec 5) (fn : BitVec 7) (la : BitVec 4) : Except Illegal Instr :=
  let sub := fn.extractLsb' 0 2
  match (fn.extractLsb' 2 5).toNat with
  | 1 => do let d ← vec d; let a ← vec a; unused b; unused la; unused sub; .ok (.vmovMov d a)
  | 2 => do let lw := LaneW.ofBits sub; let d ← vec d; unused b; unused la; .ok (.vmovSplat d a lw)
  | 3 => do let lw := LaneW.ofBits sub; let d ← vec d; unused la; .ok (.vmovIns d a b lw)
  | 4 => do let lw := LaneW.ofBits sub; let a ← vec a; unused la; .ok (.vmovExt d a b lw)
  | 5 => do let lw := LaneW.ofBits sub; let a ← vec a; unused la; .ok (.vmovExtu d a b lw)
  | 6 => do let lw := LaneW.ofBits sub; let d ← vec d; let a ← vec a; let b ← vec b; unused la; .ok (.vmovPerm d a b lw)
  | 7 => do let lw := LaneW.ofBits sub; let d ← vec d; let a ← vec a; unused la; .ok (.vmovSlup d a b lw)
  | 8 => do let lw := LaneW.ofBits sub; let d ← vec d; let a ← vec a; unused la; .ok (.vmovSldn d a b lw)
  | 9 => do let d ← vec d; let a ← vec a; let b ← vec b; unused la; unused sub; .ok (.vmovSel d a b)
  | 10 => do let d ← prd d; let a ← vec a; unused b; unused la; unused sub; .ok (.vmovAny d a)
  | 11 => do let lw := LaneW.ofBits sub; let d ← prd d; let a ← vec a; unused b; unused la; .ok (.vmovAll d a lw)
  | _ => .error .function

/-- The instruction that the fields of an S-word name, in the order of R77. -/
def decodeRaw : Raw → Except Illegal Instr
  | .fR maj d a b fn la =>
    match maj.toNat with
    | 0 => decodeSys d a b fn la
    | 1 => decodeAlu d a b fn la
    | 4 => decodeMdv d a b fn la
    | 5 => decodeCmp d a b fn la
    | 11 => decodeCallat d a b fn la
    | 14 => decodeAtom d a b fn la
    | 15 => decodeSync d a b fn la
    | 16 => decodeMsg d a b fn la
    | 17 => decodeSmp d a b fn la
    | 18 => decodeTask d a b fn la
    | 19 => decodeEng d a b fn la
    | 20 => decodeStrm d a b fn la
    | 24 => decodeValu d a b fn la
    | 25 => decodeVflt d a b fn la
    | 26 => decodeVcvt d a b fn la
    | 27 => decodeVred d a b fn la
    | 28 => decodeVmov d a b fn la
    | _ => .error .reservedMajor
  | .fI maj d a fn imm =>
    match maj.toNat with
    | 2 => decodeAlui d a fn imm
    | 6 => decodeCmpi d a fn imm
    | 10 => decodeLoop d a fn imm
    | 21 => decodeKreg d a fn imm
    | _ => .error .reservedMajor
  | .fM maj d a fn off la =>
    match maj.toNat with
    | 12 => decodeMemLd d a fn off la
    | 13 => decodeMemSt d a fn off la
    | 22 => decodeVmemLd d a fn off la
    | 23 => decodeVmemSt d a fn off la
    | _ => .error .reservedMajor
  | .fB maj fn p a off =>
    match maj.toNat with
    | 7 => decodeBr fn p a off
    | _ => .error .reservedMajor
  | .fJ maj off =>
    match maj.toNat with
    | 8 => .ok (.jmp off)
    | 9 => .ok (.call off)
    | _ => .error .reservedMajor
  | .fU maj d imm =>
    match maj.toNat with
    | 3 => .ok (.lui d imm)
    | _ => .error .reservedMajor

/-- The S-word decoder (R76, R77). -/
def decodeWord (w : BitVec 32) : Except Illegal Instr := (Raw.unpack w).bind decodeRaw

/-- The header check of R81 and the command it names. -/
def decodeTWord (w : BitVec 256) : Except Illegal Instr :=
  let engine := w.extractLsb' 248 8
  let cmd := w.extractLsb' 240 8
  let flags := w.extractLsb' 224 16
  let chan := w.extractLsb' 216 6
  let prio := w.extractLsb' 210 2
  let cls := w.extractLsb' 208 2
  let ops := w.extractLsb' 0 192
  let resv := w.extractLsb' 222 2 = 0 ∧ w.extractLsb' 212 4 = 0 ∧ w.extractLsb' 192 16 = 0
  let h : CopyHdr := ⟨flags, chan, prio, cls⟩
  let chk (i : Instr) (unusedZero : Bool) : Except Illegal Instr :=
    if ¬ resv ∨ unusedZero = false then .error .headerBits
    else if i.wf then .ok i else .error .flagBits
  let none0 : Bool := chan = 0 ∧ prio = 0 ∧ cls = 0
  match engine.toNat with
  | 1 =>
    match cmd.toNat with
    | 1 => chk (.copyAff h ops) true
    | 2 => chk (.copyRed h ops) true
    | 3 => chk (.copyPull h ops) true
    | 4 => chk (.copyMcast h ops) true
    | 5 => chk (.copyEv h ops) true
    | 6 => chk (.copyBar h ops) true
    | 7 => chk (.copyProbe h ops) true
    | 8 => chk (.copyHatom h ops) true
    | 9 => chk (.copyWb h ops) true
    | 10 => chk (.copyInv h ops) true
    | _ => .error .command
  | 2 =>
    match cmd.toNat with
    | 1 => chk (.mxLdw flags ops) none0
    | 2 => chk (.mxSwap flags ops) none0
    | 3 => chk (.mxRun flags ops) none0
    | 4 => chk (.mxAcc flags ops) none0
    | 5 => chk (.mxSt flags ops) none0
    | 6 => chk (.mxZero flags ops) none0
    | 7 => chk (.mxScale flags ops) none0
    | _ => .error .command
  | 3 =>
    match cmd.toNat with
    | 1 => chk (.evCfg flags ops) none0
    | 2 => chk (.evInj flags ops) none0
    | 3 => chk (.evHorizon flags ops) none0
    | 4 => chk (.evRun flags ops) none0
    | 5 => chk (.evRead flags ops) none0
    | _ => .error .command
  | _ => .error .engine

/-- The T-word of a command (R78). -/
def packT (engine cmd : BitVec 8) (h : CopyHdr) (ops : BitVec 192) : BitVec 256 :=
  engine ++ cmd ++ h.flags ++ 0#2 ++ h.chan ++ 0#4 ++ h.prio ++ h.cls ++ 0#16 ++ ops

/-- The 256 bits of a command; none where the instruction is no command. -/
def encodeTWord : Instr → Option (BitVec 256)
  | .copyAff h ops => some (packT 1 1 h ops)
  | .copyRed h ops => some (packT 1 2 h ops)
  | .copyPull h ops => some (packT 1 3 h ops)
  | .copyMcast h ops => some (packT 1 4 h ops)
  | .copyEv h ops => some (packT 1 5 h ops)
  | .copyBar h ops => some (packT 1 6 h ops)
  | .copyProbe h ops => some (packT 1 7 h ops)
  | .copyHatom h ops => some (packT 1 8 h ops)
  | .copyWb h ops => some (packT 1 9 h ops)
  | .copyInv h ops => some (packT 1 10 h ops)
  | .mxLdw flags ops => some (packT 2 1 ⟨flags, 0, 0, 0⟩ ops)
  | .mxSwap flags ops => some (packT 2 2 ⟨flags, 0, 0, 0⟩ ops)
  | .mxRun flags ops => some (packT 2 3 ⟨flags, 0, 0, 0⟩ ops)
  | .mxAcc flags ops => some (packT 2 4 ⟨flags, 0, 0, 0⟩ ops)
  | .mxSt flags ops => some (packT 2 5 ⟨flags, 0, 0, 0⟩ ops)
  | .mxZero flags ops => some (packT 2 6 ⟨flags, 0, 0, 0⟩ ops)
  | .mxScale flags ops => some (packT 2 7 ⟨flags, 0, 0, 0⟩ ops)
  | .evCfg flags ops => some (packT 3 1 ⟨flags, 0, 0, 0⟩ ops)
  | .evInj flags ops => some (packT 3 2 ⟨flags, 0, 0, 0⟩ ops)
  | .evHorizon flags ops => some (packT 3 3 ⟨flags, 0, 0, 0⟩ ops)
  | .evRun flags ops => some (packT 3 4 ⟨flags, 0, 0, 0⟩ ops)
  | .evRead flags ops => some (packT 3 5 ⟨flags, 0, 0, 0⟩ ops)
  | _ => none

/-- The fields of an S-word instruction (the encoding tables of spec/04 to spec/07); none for commands and steps. -/
def Instr.raw : Instr → Option Raw
  | .sysNop => some (.fR 0 0 0 0 1 0)
  | .sysBreak code => some (.fR 0 (code.extractLsb' 5 5) (code.extractLsb' 0 5) 0 2 0)
  | .sysScall code => some (.fR 0 (code.extractLsb' 5 5) (code.extractLsb' 0 5) 0 3 0)
  | .sysTret => some (.fR 0 0 0 0 4 0)
  | .sysCxend => some (.fR 0 0 0 0 5 0)
  | .sysJr a => some (.fR 0 0 a 0 6 0)
  | .sysCallr a => some (.fR 0 0 a 0 7 0)
  | .aluAdd d a b wd => some (.fR 1 d a b (1#6 ++ wd.bits) 0)
  | .aluSub d a b wd => some (.fR 1 d a b (2#6 ++ wd.bits) 0)
  | .aluAnd d a b wd => some (.fR 1 d a b (3#6 ++ wd.bits) 0)
  | .aluOr d a b wd => some (.fR 1 d a b (4#6 ++ wd.bits) 0)
  | .aluXor d a b wd => some (.fR 1 d a b (5#6 ++ wd.bits) 0)
  | .aluAndn d a b wd => some (.fR 1 d a b (6#6 ++ wd.bits) 0)
  | .aluShl d a b wd => some (.fR 1 d a b (7#6 ++ wd.bits) 0)
  | .aluShr d a b wd => some (.fR 1 d a b (8#6 ++ wd.bits) 0)
  | .aluSar d a b wd => some (.fR 1 d a b (9#6 ++ wd.bits) 0)
  | .aluMul d a b wd => some (.fR 1 d a b (10#6 ++ wd.bits) 0)
  | .aluMin d a b wd => some (.fR 1 d a b (11#6 ++ wd.bits) 0)
  | .aluMax d a b wd => some (.fR 1 d a b (12#6 ++ wd.bits) 0)
  | .aluMinu d a b wd => some (.fR 1 d a b (13#6 ++ wd.bits) 0)
  | .aluMaxu d a b wd => some (.fR 1 d a b (14#6 ++ wd.bits) 0)
  | .aluClz d a wd => some (.fR 1 d a 0 (15#6 ++ wd.bits) 0)
  | .aluPopc d a wd => some (.fR 1 d a 0 (16#6 ++ wd.bits) 0)
  | .aluAdds d a b wd => some (.fR 1 d a b (17#6 ++ wd.bits) 0)
  | .aluSubs d a b wd => some (.fR 1 d a b (18#6 ++ wd.bits) 0)
  | .aluiAdd d a imm => some (.fI 2 d a 0 imm)
  | .aluiAnd d a imm => some (.fI 2 d a 1 imm)
  | .aluiOr d a imm => some (.fI 2 d a 2 imm)
  | .aluiXor d a imm => some (.fI 2 d a 3 imm)
  | .aluiShl d a imm => some (.fI 2 d a 4 (0#7 ++ imm))
  | .aluiShr d a imm => some (.fI 2 d a 5 (0#7 ++ imm))
  | .aluiSar d a imm => some (.fI 2 d a 6 (0#7 ++ imm))
  | .lui d imm => some (.fU 3 d imm)
  | .mdvMulh d a b wd la => some (.fR 4 d a b (1#6 ++ wd.bits) la)
  | .mdvMulhu d a b wd la => some (.fR 4 d a b (2#6 ++ wd.bits) la)
  | .mdvDiv d a b wd la => some (.fR 4 d a b (3#6 ++ wd.bits) la)
  | .mdvDivu d a b wd la => some (.fR 4 d a b (4#6 ++ wd.bits) la)
  | .mdvRem d a b wd la => some (.fR 4 d a b (5#6 ++ wd.bits) la)
  | .mdvRemu d a b wd la => some (.fR 4 d a b (6#6 ++ wd.bits) la)
  | .cmpEq d a b wd => some (.fR 5 (0#2 ++ d) a b (1#6 ++ wd.bits) 0)
  | .cmpNe d a b wd => some (.fR 5 (0#2 ++ d) a b (2#6 ++ wd.bits) 0)
  | .cmpLt d a b wd => some (.fR 5 (0#2 ++ d) a b (3#6 ++ wd.bits) 0)
  | .cmpGe d a b wd => some (.fR 5 (0#2 ++ d) a b (4#6 ++ wd.bits) 0)
  | .cmpLtu d a b wd => some (.fR 5 (0#2 ++ d) a b (5#6 ++ wd.bits) 0)
  | .cmpGeu d a b wd => some (.fR 5 (0#2 ++ d) a b (6#6 ++ wd.bits) 0)
  | .cmpPand d a b => some (.fR 5 (0#2 ++ d) (0#2 ++ a) (0#2 ++ b) 64 0)
  | .cmpPor d a b => some (.fR 5 (0#2 ++ d) (0#2 ++ a) (0#2 ++ b) 65 0)
  | .cmpPxor d a b => some (.fR 5 (0#2 ++ d) (0#2 ++ a) (0#2 ++ b) 66 0)
  | .cmpPandn d a b => some (.fR 5 (0#2 ++ d) (0#2 ++ a) (0#2 ++ b) 67 0)
  | .cmpiEq d a imm => some (.fI 6 (0#2 ++ d) a 0 imm)
  | .cmpiNe d a imm => some (.fI 6 (0#2 ++ d) a 1 imm)
  | .cmpiLt d a imm => some (.fI 6 (0#2 ++ d) a 2 imm)
  | .cmpiGe d a imm => some (.fI 6 (0#2 ++ d) a 3 imm)
  | .cmpiLtu d a imm => some (.fI 6 (0#2 ++ d) a 4 imm)
  | .cmpiGeu d a imm => some (.fI 6 (0#2 ++ d) a 5 imm)
  | .brT p off => some (.fB 7 0 p 0 off)
  | .brF p off => some (.fB 7 1 p 0 off)
  | .brNz a off => some (.fB 7 2 0 a off)
  | .brZ a off => some (.fB 7 3 0 a off)
  | .jmp off => some (.fJ 8 off)
  | .call off => some (.fJ 9 off)
  | .loopIn a imm => some (.fI 10 0 a 0 imm)
  | .loopOut a imm => some (.fI 10 0 a 1 imm)
  | .callatSend d a b la => some (.fR 11 d a b 1 la)
  | .memLdB d a off la => some (.fM 12 d a 0 off la)
  | .memLdH d a off la => some (.fM 12 d a 1 off la)
  | .memLdW d a off la => some (.fM 12 d a 2 off la)
  | .memLdD d a off la => some (.fM 12 d a 3 off la)
  | .memLdI8 d a off la => some (.fM 12 d a 4 off la)
  | .memLdI16 d a off la => some (.fM 12 d a 5 off la)
  | .memLdI32 d a off la => some (.fM 12 d a 6 off la)
  | .memLdRo d a off la => some (.fM 12 d a 7 off la)
  | .memStB d a off => some (.fM 13 d a 0 off 0)
  | .memStH d a off => some (.fM 13 d a 1 off 0)
  | .memStW d a off => some (.fM 13 d a 2 off 0)
  | .memStD d a off => some (.fM 13 d a 3 off 0)
  | .atomFaa d a b t la => some (.fR 14 d a b (1#4 ++ t.bits) la)
  | .atomSwap d a b t la => some (.fR 14 d a b (2#4 ++ t.bits) la)
  | .atomCas d a b t la => some (.fR 14 d a b (3#4 ++ t.bits) la)
  | .atomFand d a b t la => some (.fR 14 d a b (4#4 ++ t.bits) la)
  | .atomFor d a b t la => some (.fR 14 d a b (5#4 ++ t.bits) la)
  | .atomFxor d a b t la => some (.fR 14 d a b (6#4 ++ t.bits) la)
  | .atomFmin d a b t la => some (.fR 14 d a b (7#4 ++ t.bits) la)
  | .atomFmax d a b t la => some (.fR 14 d a b (8#4 ++ t.bits) la)
  | .atomRsv d a t la => some (.fR 14 d a 0 (9#4 ++ t.bits) la)
  | .atomRel d a b t la => some (.fR 14 d a b (10#4 ++ t.bits) la)
  | .atomDrop => some (.fR 14 0 0 0 (11#4 ++ 0#3) 0)
  | .syncFenceCore => some (.fR 15 0 0 0 (1#4 ++ 0#3) 0)
  | .syncFenceTile => some (.fR 15 0 0 0 (2#4 ++ 0#3) 0)
  | .syncFencePart b tp => some (.fR 15 0 0 b (3#4 ++ tp) 0)
  | .syncWatch a => some (.fR 15 0 a 0 (4#4 ++ 0#3) 0)
  | .syncUnwatch => some (.fR 15 0 0 0 (5#4 ++ 0#3) 0)
  | .syncWaitw b tp la => some (.fR 15 0 0 b (6#4 ++ tp) la)
  | .syncLdf d a b tp la => some (.fR 15 d a b (7#4 ++ tp) la)
  | .syncLdfe d a b tp la => some (.fR 15 d a b (8#4 ++ tp) la)
  | .syncStf d a => some (.fR 15 d a 0 (9#4 ++ 0#3) 0)
  | .syncStef d a b tp la => some (.fR 15 d a b (10#4 ++ tp) la)
  | .syncClre a => some (.fR 15 0 a 0 (11#4 ++ 0#3) 0)
  | .syncRo => some (.fR 15 0 0 0 (12#4 ++ 0#3) 0)
  | .syncRec => some (.fR 15 0 0 0 (13#4 ++ 0#3) 0)
  | .syncLwb a => some (.fR 15 0 a 0 (14#4 ++ 0#3) 0)
  | .syncLinv a => some (.fR 15 0 a 0 (15#4 ++ 0#3) 0)
  | .msgSend d a b tp la => some (.fR 16 (0#2 ++ d) a b (1#4 ++ tp) la)
  | .msgRecv d a b tp la => some (.fR 16 d (0#2 ++ a) b (2#4 ++ tp) la)
  | .msgRecvs d a b tp la => some (.fR 16 d (0#2 ++ a) b (3#4 ++ tp) la)
  | .msgRecvr d a b tp la => some (.fR 16 d (0#2 ++ a) b (4#4 ++ tp) la)
  | .msgPeek d a => some (.fR 16 d (0#2 ++ a) 0 (5#4 ++ 0#3) 0)
  | .smpPost d a => some (.fR 17 (0#1 ++ d) a 0 (1#4 ++ 0#3) 0)
  | .smpSample d a b tp la => some (.fR 17 (0#1 ++ d) a b (2#4 ++ tp) la)
  | .smpCount d a la => some (.fR 17 d a 0 (3#4 ++ 0#3) la)
  | .smpWait d a b tp la => some (.fR 17 d a b (4#4 ++ tp) la)
  | .smpBar d b tp la => some (.fR 17 d 0 b (5#4 ++ tp) la)
  | .taskSpawn d a b la => some (.fR 18 d a b 1 la)
  | .taskYield => some (.fR 18 0 0 0 2 0)
  | .taskPark a => some (.fR 18 0 a 0 3 0)
  | .taskJoin a => some (.fR 18 0 a 0 4 0)
  | .taskRetire a => some (.fR 18 0 a 0 5 0)
  | .taskCancel d a b la => some (.fR 18 d a b 6 la)
  | .engPush d a b tp => some (.fR 19 d (0#1 ++ a) b (1#4 ++ tp) 0)
  | .engXidwait d a b tp la => some (.fR 19 d a b (2#4 ++ tp) la)
  | .engJidwait d a b tp la => some (.fR 19 d a b (3#4 ++ tp) la)
  | .engJidrd d a => some (.fR 19 d a 0 (4#4 ++ 0#3) 0)
  | .strmBind d a => some (.fR 20 (0#1 ++ d) a 0 1 0)
  | .strmUnbind d => some (.fR 20 (0#1 ++ d) 0 0 2 0)
  | .strmXid d b => some (.fR 20 d 0 (0#1 ++ b) 3 0)
  | .kregRd d imm => some (.fI 21 d 0 0 imm.sel)
  | .kregWr a imm => some (.fI 21 0 a 1 imm.sel)
  | .kregSet a imm => some (.fI 21 0 a 2 imm.sel)
  | .kregClr a imm => some (.fI 21 0 a 3 imm.sel)
  | .vmemLdV d a off la => some (.fM 22 (0#1 ++ d) a 0 off la)
  | .vmemLdSw d a off la => some (.fM 22 (0#1 ++ d) a 1 off la)
  | .vmemLdSd d a off la => some (.fM 22 (0#1 ++ d) a 2 off la)
  | .vmemLdRo d a off la => some (.fM 22 (0#1 ++ d) a 3 off la)
  | .vmemStV d a off => some (.fM 23 (0#1 ++ d) a 0 off 0)
  | .vmemStW d a off => some (.fM 23 (0#1 ++ d) a 1 off 0)
  | .vmemStD d a off => some (.fM 23 (0#1 ++ d) a 2 off 0)
  | .valuAdd d a b sg lw => some (.fR 24 (0#1 ++ d) (0#1 ++ a) (0#1 ++ b) (1#4 ++ (sg.bits ++ lw.bits)) 0)
  | .valuSub d a b sg lw => some (.fR 24 (0#1 ++ d) (0#1 ++ a) (0#1 ++ b) (2#4 ++ (sg.bits ++ lw.bits)) 0)
  | .valuAdds d a b sg lw => some (.fR 24 (0#1 ++ d) (0#1 ++ a) (0#1 ++ b) (3#4 ++ (sg.bits ++ lw.bits)) 0)
  | .valuSubs d a b sg lw => some (.fR 24 (0#1 ++ d) (0#1 ++ a) (0#1 ++ b) (4#4 ++ (sg.bits ++ lw.bits)) 0)
  | .valuMul d a b sg lw => some (.fR 24 (0#1 ++ d) (0#1 ++ a) (0#1 ++ b) (5#4 ++ (sg.bits ++ lw.bits)) 0)
  | .valuMulh d a b sg lw => some (.fR 24 (0#1 ++ d) (0#1 ++ a) (0#1 ++ b) (6#4 ++ (sg.bits ++ lw.bits)) 0)
  | .valuMin d a b sg lw => some (.fR 24 (0#1 ++ d) (0#1 ++ a) (0#1 ++ b) (7#4 ++ (sg.bits ++ lw.bits)) 0)
  | .valuMax d a b sg lw => some (.fR 24 (0#1 ++ d) (0#1 ++ a) (0#1 ++ b) (8#4 ++ (sg.bits ++ lw.bits)) 0)
  | .valuAnd d a b sg lw => some (.fR 24 (0#1 ++ d) (0#1 ++ a) (0#1 ++ b) (9#4 ++ (sg.bits ++ lw.bits)) 0)
  | .valuOr d a b sg lw => some (.fR 24 (0#1 ++ d) (0#1 ++ a) (0#1 ++ b) (10#4 ++ (sg.bits ++ lw.bits)) 0)
  | .valuXor d a b sg lw => some (.fR 24 (0#1 ++ d) (0#1 ++ a) (0#1 ++ b) (11#4 ++ (sg.bits ++ lw.bits)) 0)
  | .valuShl d a b sg lw => some (.fR 24 (0#1 ++ d) (0#1 ++ a) (0#1 ++ b) (12#4 ++ (sg.bits ++ lw.bits)) 0)
  | .valuShr d a b sg lw => some (.fR 24 (0#1 ++ d) (0#1 ++ a) (0#1 ++ b) (13#4 ++ (sg.bits ++ lw.bits)) 0)
  | .valuCeq d a b sg lw => some (.fR 24 (0#1 ++ d) (0#1 ++ a) (0#1 ++ b) (14#4 ++ (sg.bits ++ lw.bits)) 0)
  | .valuClt d a b sg lw => some (.fR 24 (0#1 ++ d) (0#1 ++ a) (0#1 ++ b) (15#4 ++ (sg.bits ++ lw.bits)) 0)
  | .vfltAdd d a b rm => some (.fR 25 (0#1 ++ d) (0#1 ++ a) (0#1 ++ b) (1#4 ++ rm.bits) 0)
  | .vfltSub d a b rm => some (.fR 25 (0#1 ++ d) (0#1 ++ a) (0#1 ++ b) (2#4 ++ rm.bits) 0)
  | .vfltMul d a b rm => some (.fR 25 (0#1 ++ d) (0#1 ++ a) (0#1 ++ b) (3#4 ++ rm.bits) 0)
  | .vfltFma d a b rm => some (.fR 25 (0#1 ++ d) (0#1 ++ a) (0#1 ++ b) (4#4 ++ rm.bits) 0)
  | .vfltFnma d a b rm => some (.fR 25 (0#1 ++ d) (0#1 ++ a) (0#1 ++ b) (5#4 ++ rm.bits) 0)
  | .vfltDiv d a b rm la => some (.fR 25 (0#1 ++ d) (0#1 ++ a) (0#1 ++ b) (6#4 ++ rm.bits) la)
  | .vfltSqrt d a rm la => some (.fR 25 (0#1 ++ d) (0#1 ++ a) 0 (7#4 ++ rm.bits) la)
  | .vfltMin d a b => some (.fR 25 (0#1 ++ d) (0#1 ++ a) (0#1 ++ b) (8#4 ++ 0#3) 0)
  | .vfltMax d a b => some (.fR 25 (0#1 ++ d) (0#1 ++ a) (0#1 ++ b) (9#4 ++ 0#3) 0)
  | .vfltAbs d a => some (.fR 25 (0#1 ++ d) (0#1 ++ a) 0 (10#4 ++ 0#3) 0)
  | .vfltNeg d a => some (.fR 25 (0#1 ++ d) (0#1 ++ a) 0 (11#4 ++ 0#3) 0)
  | .vfltCeq d a b => some (.fR 25 (0#1 ++ d) (0#1 ++ a) (0#1 ++ b) (12#4 ++ 0#3) 0)
  | .vfltClt d a b => some (.fR 25 (0#1 ++ d) (0#1 ++ a) (0#1 ++ b) (13#4 ++ 0#3) 0)
  | .vfltCle d a b => some (.fR 25 (0#1 ++ d) (0#1 ++ a) (0#1 ++ b) (14#4 ++ 0#3) 0)
  | .vcvtToi d a rm => some (.fR 26 (0#1 ++ d) (0#1 ++ a) 0 (1#4 ++ rm.bits) 0)
  | .vcvtTon d a rm => some (.fR 26 (0#1 ++ d) (0#1 ++ a) 0 (2#4 ++ rm.bits) 0)
  | .vcvtFri d a rm => some (.fR 26 (0#1 ++ d) (0#1 ++ a) 0 (3#4 ++ rm.bits) 0)
  | .vcvtFrn d a rm => some (.fR 26 (0#1 ++ d) (0#1 ++ a) 0 (4#4 ++ rm.bits) 0)
  | .vcvtTox d a rm => some (.fR 26 (0#1 ++ d) (0#1 ++ a) 0 (5#4 ++ rm.bits) 0)
  | .vcvtPkh d a b rm => some (.fR 26 (0#1 ++ d) (0#1 ++ a) (0#1 ++ b) (6#4 ++ rm.bits) 0)
  | .vcvtPkb d a b rm => some (.fR 26 (0#1 ++ d) (0#1 ++ a) (0#1 ++ b) (7#4 ++ rm.bits) 0)
  | .vcvtUplh d a => some (.fR 26 (0#1 ++ d) (0#1 ++ a) 0 (8#4 ++ 0#3) 0)
  | .vcvtUphh d a => some (.fR 26 (0#1 ++ d) (0#1 ++ a) 0 (9#4 ++ 0#3) 0)
  | .vcvtUplb d a => some (.fR 26 (0#1 ++ d) (0#1 ++ a) 0 (10#4 ++ 0#3) 0)
  | .vcvtUphb d a => some (.fR 26 (0#1 ++ d) (0#1 ++ a) 0 (11#4 ++ 0#3) 0)
  | .vcvtEnc8 d a rm => some (.fR 26 (0#1 ++ d) (0#1 ++ a) 0 (12#4 ++ rm.bits) 0)
  | .vcvtEnc4 d a rm => some (.fR 26 (0#1 ++ d) (0#1 ++ a) 0 (13#4 ++ rm.bits) 0)
  | .vcvtDec d a t => some (.fR 26 (0#1 ++ d) (0#1 ++ a) 0 (14#4 ++ t.bits) 0)
  | .vcvtTload a t la => some (.fR 26 0 a 0 (15#4 ++ t.bits) la)
  | .vredFadd d a rm => some (.fR 27 d (0#1 ++ a) 0 (1#4 ++ rm.bits) 0)
  | .vredFmax d a => some (.fR 27 d (0#1 ++ a) 0 (2#4 ++ 0#3) 0)
  | .vredFmin d a => some (.fR 27 d (0#1 ++ a) 0 (3#4 ++ 0#3) 0)
  | .vredAdd d a sg lw => some (.fR 27 d (0#1 ++ a) 0 (4#4 ++ (sg.bits ++ lw.bits)) 0)
  | .vredMax d a sg lw => some (.fR 27 d (0#1 ++ a) 0 (5#4 ++ (sg.bits ++ lw.bits)) 0)
  | .vredMin d a sg lw => some (.fR 27 d (0#1 ++ a) 0 (6#4 ++ (sg.bits ++ lw.bits)) 0)
  | .vredAnd d a => some (.fR 27 d (0#1 ++ a) 0 (7#4 ++ 0#3) 0)
  | .vredOr d a => some (.fR 27 d (0#1 ++ a) 0 (8#4 ++ 0#3) 0)
  | .vredXor d a => some (.fR 27 d (0#1 ++ a) 0 (9#4 ++ 0#3) 0)
  | .vmovMov d a => some (.fR 28 (0#1 ++ d) (0#1 ++ a) 0 (1#5 ++ 0#2) 0)
  | .vmovSplat d a lw => some (.fR 28 (0#1 ++ d) a 0 (2#5 ++ lw.bits) 0)
  | .vmovIns d a b lw => some (.fR 28 (0#1 ++ d) a b (3#5 ++ lw.bits) 0)
  | .vmovExt d a b lw => some (.fR 28 d (0#1 ++ a) b (4#5 ++ lw.bits) 0)
  | .vmovExtu d a b lw => some (.fR 28 d (0#1 ++ a) b (5#5 ++ lw.bits) 0)
  | .vmovPerm d a b lw => some (.fR 28 (0#1 ++ d) (0#1 ++ a) (0#1 ++ b) (6#5 ++ lw.bits) 0)
  | .vmovSlup d a b lw => some (.fR 28 (0#1 ++ d) (0#1 ++ a) b (7#5 ++ lw.bits) 0)
  | .vmovSldn d a b lw => some (.fR 28 (0#1 ++ d) (0#1 ++ a) b (8#5 ++ lw.bits) 0)
  | .vmovSel d a b => some (.fR 28 (0#1 ++ d) (0#1 ++ a) (0#1 ++ b) (9#5 ++ 0#2) 0)
  | .vmovAny d a => some (.fR 28 (0#2 ++ d) (0#1 ++ a) 0 (10#5 ++ 0#2) 0)
  | .vmovAll d a lw => some (.fR 28 (0#2 ++ d) (0#1 ++ a) 0 (11#5 ++ lw.bits) 0)
  | _ => none

/-- The S-word of an instruction. -/
def encodeWord (i : Instr) : Option (BitVec 32) := i.raw.map Raw.pack

/-- The eight words of a T-word, the lowest first (R4). -/
def splitT (w : BitVec 256) : List (BitVec 32) := (List.range 8).map fun k => w.extractLsb' (32 * k) 32
def joinT (ws : List (BitVec 32)) : BitVec 256 :=
  ws.foldr (fun x acc => (acc <<< 32) ||| x.setWidth 256) 0

/-- The words of an instruction: one S-word, the eight words of a T-word, none for a step of the module. -/
def encode (i : Instr) : List (BitVec 32) :=
  match encodeWord i with
  | some w => [w]
  | none => ((encodeTWord i).map splitT).getD []

/-- Decoding, total on any words: one word is an S-word, eight words are a T-word. -/
def decode (ws : List (BitVec 32)) : Except Illegal Instr :=
  match ws with
  | [w] => decodeWord w
  | [a, b, c, d, e, f, g, h] => decodeTWord (joinT [a, b, c, d, e, f, g, h])
  | _ => .error .length

/-- The instruction the decoder reads from a table word: 32 bits are an S-word, 256 a T-word; no other row has bits. -/
def decodeTableWord (nbits w : Nat) : Option Instr :=
  if nbits = 32 then (decodeWord (BitVec.ofNat 32 w)).toOption
  else if nbits = 256 then (decodeTWord (BitVec.ofNat 256 w)).toOption
  else none

end Sys2Proof
end

