-- ==== Sys2Proof/Machine/State.lean ====
section
/-!
DEFINITION. The state of the BA8 as plain data: threads, cores, tiles, the fabric, partitions and the module. Each
field's docstring names the rule of spec/ that gives it; its default is its reset value (log 4 for those the spec
does not state).
-/
namespace Sys2Proof.Machine

/-! ## Threads (spec/01, spec/04, spec/06) -/

/-- The trap causes of R18. -/
inductive Cause where
  | illegal
  | priv
  | align
  | page
  | prot
  | xscope
  | atype
  | resv
  | ue
  | brk
  | syscall
  | engfault
  | cancel
  | loop
  | stream
  deriving DecidableEq, Repr, Inhabited

/-- The thread states of R12. -/
inductive ThreadState where
  | empty
  | running
  | waiting
  | trapEntry
  | suspending
  | stopped
  deriving DecidableEq, Repr, Inhabited

/-- A register that an instruction names (R15, R16). -/
inductive RegRef where
  | s (r : SReg)
  | v (r : VReg)
  | p (r : PReg)
  deriving DecidableEq, Repr, Inhabited

/-- What a long-latency instruction writes when its result arrives (R15). -/
structure Writes where
  s : List (SReg × Word) := []
  v : List (VReg × V256) := []
  p : List (PReg × Bool) := []
  /-- Floating-point flags to OR into k.fflags with the result (R147). -/
  flags : BitVec 5 := 0
  deriving DecidableEq, Repr, Inhabited

/-- A memory access of a load: address, bytes, and how the data become register values (R138, R160). -/
inductive LoadForm where
  /-- Zero-extended scalar of n bytes. -/
  | zx (d : SReg) (n : Nat)
  /-- Sign-extended scalar of n bytes. -/
  | sx (d : SReg) (n : Nat)
  /-- A whole vector register. -/
  | vec (d : VReg)
  /-- A word or doubleword copied into every lane. -/
  | splat (d : VReg) (n : Nat)
  deriving DecidableEq, Repr, Inhabited

/-- The full/empty forms that wait at a word's port (R172). -/
inductive FeForm where
  | ldf
  | ldfe
  | stef
  deriving DecidableEq, Repr, Inhabited

/-- The receive forms of msg (R186). -/
inductive RecvForm where
  | any
  | named (thr : Nat) (seq : Nat)
  | ret (rseq : Nat)
  deriving DecidableEq, Repr, Inhabited

/-- The atom operations of R177 that act on a word. -/
inductive AtomOp where
  | faa
  | swap
  | cas
  | fand
  | for
  | fxor
  | fmin
  | fmax
  | rsv
  | rel
  deriving DecidableEq, Repr, Inhabited

/-- A datum that an instruction took from an input stream: the register, the value and the flags of its conversion (R157, R222). -/
structure Datum where
  r : VReg
  x : V256
  flags : BitVec 5
  deriving DecidableEq, Repr, Inhabited

/-- Where an access goes. -/
inductive Place where
  /-- Bytes of a core's local memory. -/
  | lm (core : Fin 8) (off : Nat)
  /-- Elements of an alias window: core, kind, first element (R59). -/
  | view (core : Fin 8) (kind elem : Nat)
  /-- A state window (R161). -/
  | port (core : Fin 8) (kind off : Nat)
  /-- Global memory, through the line cache of the line's home core (R270). -/
  | glob
  deriving DecidableEq, Repr, Inhabited

/-- What an access does at its port. -/
inductive Act where
  /-- The bytes are read for the registers of an instruction; through an alias window with the table of its core as it stood at
  issue (R46, R58). -/
  | load (form : LoadForm)
  | view (form : LoadForm) (tab : KMap (BitVec 19))
  /-- The bits of a mask are replaced (R58, R162). -/
  | store (v mask : Nat)
  /-- The word is written and set full, or set empty (R172). -/
  | stf (v : W32)
  | clre
  /-- A waiting full/empty form (R172, R173). -/
  | fe (form : FeForm) (d : SReg) (data : W32) (tp : PReg)
  /-- An atom (R177 to R181): its operands and rounding mode as they stood at issue, and whether its thread held a
  reservation then. -/
  | atom (op : AtomOp) (t : AtomTy) (x old : Word) (d : SReg) (frm : BitVec 2) (held : Bool)
  /-- Maintenance of a line; `drop`: it is invalidated (R176). -/
  | line (drop : Bool)
  /-- The counter's part of a task.spawn (R126): the register of its result, the record, its key and whether an entry of the
  deque is kept for it; the tile cycle before which the result does not arrive. -/
  | spawn (d : SReg) (w : Vector W32 16) (key : Option (Nat × Nat)) (kept : Bool) (due : Nat)
  /-- The counter's part of a task.cancel at level 0 (R134): the register of its result, the cycle before which it does not
  arrive. -/
  | mark (d : SReg) (due : Nat)
  /-- The end of a unit subtracts 1 from its parent counter (R130, R133). -/
  | dec
  deriving DecidableEq, Repr, Inhabited

/-- An access of a thread from its issue until it has performed. -/
structure Access where
  /-- The slot that issued it, its unit's number, its number in the thread and the address of its instruction. -/
  r : ThreadRef
  owner : Nat
  op : Nat
  addr : Word
  /-- The address it names, its place and its bytes. -/
  va : Word
  place : Place
  n : Nat
  act : Act
  /-- The banks of k.tbm at which the thread's accesses keep their order (R164). -/
  banks : List Nat
  /-- The tile cycle in which it reaches its port, and the cycles from performing to the result (R162, R179, R436). -/
  at_ : Nat
  lag : Nat
  /-- The cycle in which it entered its port's side buffer, if it waits there (R294). -/
  since : Option Nat := none
  /-- Stream data its instruction consumed (R157). -/
  consumed : List Datum := []
  deriving DecidableEq, Repr, Inhabited

/-- What an outstanding instruction waits for. -/
inductive Cond where
  /-- The result is known and arrives at a scheduled time. -/
  | ready (w : Writes)
  /-- A fault is known and is raised as a deferred trap (R18, R19). -/
  | faulted (c : Cause) (v : Word)
  /-- The thread's ready bit (R169). -/
  | watch (tp : PReg)
  /-- An access on its way to its memory port or waiting there (R164, R173, R180); the predicate of its timeout, if it has
  one. -/
  | port (tp : Option PReg)
  /-- A free entry of a send queue (R185). -/
  | send (dst : Fin 8) (payload : Word) (tp : PReg)
  /-- A message (R186). -/
  | recv (form : RecvForm) (src : Fin 8) (d : SReg) (tp : PReg)
  /-- A post on an own-tile cell (R191). -/
  | cell (cell : Fin 256) (old : W32) (d : SReg) (tp : PReg)
  /-- The snapshot and the count of an own-tile cell, taken at the cell array (R191). -/
  | snap (cell : Fin 256) (d : VReg) (tp : PReg)
  | count (cell : Fin 256) (d : SReg)
  /-- A sample reply from another tile, and the cell that was asked for (R191). -/
  | sample (tag dst cell : Nat) (d : VReg) (tp : PReg)
  /-- The launch barrier (R192). -/
  | bar (d : SReg) (tp : PReg)
  /-- A transfer identifier of a channel (R203). -/
  | xid (chan : Fin 64) (x : W32) (d : SReg) (tp : PReg)
  /-- A job identifier of an engine (R204). -/
  | jid (eng : Nat) (j : BitVec 16) (d : SReg) (tp : PReg)
  /-- A fence of sync.ro (`recs` false) or sync.rec whose echoes have come: what it empties goes when it completes (R174, R175). -/
  | clears (recs : Bool)
  /-- A fence: banks whose echo is awaited, whether acknowledgements are awaited too, and the timeout's predicate (R165). -/
  | fence (banks : List Nat) (acks : Bool) (tp : PReg) (after : Nat)
  /-- An entry in an engine queue, after the fence of R202. -/
  | push (banks : List Nat) (word : V256) (d : SReg) (tp : PReg)
  /-- A line that a load through the read-only path needs (R174); virtual address. -/
  | ro (va : Word) (form : LoadForm)
  /-- A table load in the core's tload queue (R152). -/
  | tload
  /-- The fence and reads of strm.bind (R194). -/
  | bind (banks : List Nat) (d : VReg) (record : Word)
  /-- Room in the post path (R190). -/
  | post (value : V256) (cell : Word)
  /-- A host memory read (R270): the address that the load named, and where it lies. -/
  | host (va : Word) (pa : Nat) (form : LoadForm)
  deriving DecidableEq, Repr, Inhabited

/-- An issued instruction that has not completed (R15, R19). -/
structure Outst where
  /-- Its number in the thread. -/
  id : Nat
  /-- The address of the instruction. -/
  addr : Word
  /-- The registers it will write. -/
  dests : List RegRef
  cond : Cond
  /-- Waiting forms hold the thread until they complete (R159). -/
  hold : Bool := false
  /-- The tile cycle from which its condition is tested, and the cycles from then to the write (R436). -/
  start : Nat := 0
  lag : Nat := 0
  /-- Of a wait: the cycles from its issue to that first test, and its timeout (R158). -/
  reach : Nat := 0
  limit : Option Nat := none
  /-- Stream data it consumed, which a deferred trap returns (R157). -/
  consumed : List Datum := []
  deriving DecidableEq, Repr, Inhabited

/-- A trap whose entry waits for the outstanding instructions (R19). -/
structure PendTrap where
  cause : Cause
  val : Word
  /-- The instruction charged with the trap. -/
  first : Word
  tpc : Word
  deferred : Bool := false
  deriving DecidableEq, Repr, Inhabited

/-- A suspension, or another end of a unit's run, that waits for the pending set (R117, R127 to R130, R133, R339, R340). -/
inductive Suspend where
  | yield
  | park (word : Nat)
  /-- `at_`: the tile cycle in which the test reaches the counter's port, once it has been sent (R129). -/
  | join (counter : Nat) (at_ : Option Nat)
  | retire (value : Word)
  /-- sys.tret (R117). -/
  | tret
  /-- Cancellation end (R133). -/
  | cancelEnd
  | displace
  /-- A sync.waitw that parks (R340). -/
  | waitPark
  deriving DecidableEq, Repr, Inhabited

/-- A bank reservation as its thread holds it (R180 to R183). -/
structure Resv where
  /-- The address of the reserved word (s[a] of the rsv). -/
  va : Word
  size : Nat
  /-- The bank, or none while the rsv still waits. -/
  bank : Nat
  granted : Bool := false
  broken : Bool := false
  /-- A drop issued while the rsv still waited: the bank is released when it is granted. -/
  dropped : Bool := false
  /-- Instructions left in the window, from 64. -/
  window : Nat := 64
  /-- The address of the rsv. -/
  addr : Word
  deriving DecidableEq, Repr, Inhabited

/-- A stream bound to one of v8 to v15 (R194, R222). -/
structure StrmBind where
  chan : Fin 64
  out : Bool
  xid : W32
  /-- The shape record and the binding record as read at the bind. -/
  shape : BitVec 512
  record : V256 := 0
  starve : PReg
  limit : Nat
  /-- Data buffered (at most 4): of an input with the flags of their conversion, of an output as the bytes to store. -/
  buf : List (V256 × BitVec 5) := []
  /-- An input datum whose elements have been read and not yet arrived (R275). -/
  coming : Option (V256 × BitVec 5) := none
  /-- Index of the next element to fill or drain. -/
  next : Nat := 0
  /-- Elements that the shape holds. -/
  total : Nat
  /-- The binding thread's k.frm at the bind. -/
  frm : BitVec 2
  /-- The binding core, whose tables encode and decode, and its T8 and T4 tables as they stood at the first fetch of a fill (R46). -/
  core : Fin 8 := 0
  tabs : Option (KMap (BitVec 19) × KMap (BitVec 19)) := none
  /-- The status with which its fills ended early (R51, R207); 0: none. -/
  status : Byte := 0
  deriving DecidableEq, Repr, Inhabited

/-- A hardware thread (R12, R15, R21, R24). -/
structure Thread where
  /-- Thread state (R12). -/
  st : ThreadState := .empty
  /-- The byte offset of the next instruction in the launch's code segment (R120). -/
  pc : Word := 0
  /-- s0 to s31 (R21); entry 0 is never read. -/
  s : Vector Word 32 := Vector.replicate 32 0
  /-- v0 to v15 (R21). -/
  v : Vector V256 16 := Vector.replicate 16 0
  /-- p0 to p7 (R21); entry 0 is never read. -/
  p : Vector Bool 8 := Vector.replicate 8 false
  /-- The lookahead count L (R15). -/
  look : Nat := 0
  /-- Outstanding instructions in program order; their destinations are the pending set (R15). -/
  outst : List Outst := []
  /-- Number of the next outstanding instruction. -/
  nextOp : Nat := 0
  /-- The target of a taken transfer is held while the pending set is not empty (R17). -/
  held : Bool := false
  /-- A trap entry in progress (R19). -/
  trap : Option PendTrap := none
  /-- A suspension in progress (R12). -/
  susp : Option Suspend := none
  /-- k.tbm (R163). -/
  tbm : Word := 0
  /-- k.fflags, NV DZ OF UF NX in bits 4 to 0 (R28). -/
  fflags : BitVec 5 := 0
  /-- k.frm (R29). -/
  frm : BitVec 2 := 0
  /-- k.tpc (R24). -/
  tpc : Word := 0
  /-- k.tinst (R24). -/
  tinst : Word := 0
  /-- k.tcause: abnd, def and cause; the reserved bits read 0 (R26). -/
  tcause : Word := 0
  /-- k.tval (R24). -/
  tval : Word := 0
  /-- k.tstat.IH (R27). -/
  ih : Bool := false
  /-- k.tstat.cxh (R27). -/
  cxh : Bool := false
  /-- A CANCEL is held (R20): k.tstat.hcx. -/
  hcx : Bool := false
  /-- The running handler was entered for ENGFAULT (R242). -/
  engf : Bool := false
  /-- Instructions left in the clean-up budget of CANCEL (R119). -/
  budget : Nat := 0
  /-- A CANCEL held until the reservation ends (R119). -/
  cxWait : Bool := false
  /-- Asynchronous traps other than CANCEL held until the handler returns (R20). -/
  heldAsync : List PendTrap := []
  /-- k.loopcnt, k.loopstart and k.loopend (R24, R108 to R112). -/
  loopcnt : Word := 0
  loopstart : Word := 0
  loopend : Word := 0
  /-- The watched word of the own core's local memory, as a word index (R169). -/
  watch : Option Nat := none
  /-- The ready bit (R169). -/
  ready : Bool := false
  /-- The last message sequence per destination core (R185). -/
  mseq : Vector (BitVec 16) 8 := Vector.replicate 8 0
  /-- The last call-at sequence (R131). -/
  cseq : BitVec 16 := 0
  /-- The reservation (R180 to R183). -/
  resv : Option Resv := none
  /-- The unit's state words w1, w2 and w3 (R121 to R123). -/
  w1 : W32 := 0
  w2 : W32 := 0
  w3 : W32 := 0
  /-- The run number of the unit and its spawn count, in determinate launches (R343). -/
  run : Nat := 0
  spawns : Nat := 0
  /-- Migration predictor: core and count; the next access does not migrate, since its home core had no Empty slot (R273). -/
  mig : Fin 8 × Nat := (0, 0)
  noMig : Bool := false
  /-- A msg form has issued since pick-up (R273). -/
  msgUsed : Bool := false
  /-- When the slot last picked up, as a count of pick-ups of the core (R339). -/
  picked : Nat := 0
  /-- First tile cycle in which the slot may issue after a pick-up (R337). -/
  notBefore : Nat := 0
  /-- The first slot in which a stream instruction would have issued, and the registers not ready when its wait limit passed (R155). -/
  strmWait : Option Nat := none
  starved : List VReg := []
  /-- Waiting instructions that a displacement or a save has abandoned, to be issued again, each with its access (R339, R394). -/
  laidOff : List (Outst × Option Access) := []
  /-- Bindings of v8 to v15 (R194). -/
  binds : KMap StrmBind := []
  /-- The number by which what the unit has left under way, its accesses, posts and writebacks, is known (R165). -/
  owner : Nat := 0
  deriving DecidableEq, Repr, Inhabited

/-! ## Cores (spec/01, spec/02, spec/06, spec/07, spec/16) -/

/-- A message of the crossbar (spec/01, R132). -/
structure Msg where
  payload : Word
  core : Fin 8
  thr : Fin 16
  seq : BitVec 16
  /-- A return message of a call-at unit, and the thread it is addressed to. -/
  ret : Option (Fin 16) := none
  /-- The tile cycle from which the message is readable, or may cross. -/
  at_ : Nat
  deriving DecidableEq, Repr, Inhabited

/-- An entry of a deque or park table: a continuation record with its tag (R336). -/
structure Entry where
  /-- The sixteen words of the record (R120). -/
  w : Vector W32 16
  /-- Tag D: the displaced frame that holds the thread's state (R336). -/
  frame : Option Nat := none
  /-- The key of a determinate launch; none for call-at records (R343). -/
  key : Option (Nat × Nat) := none
  /-- Order of arrival in the core's deque (R343). -/
  stamp : Nat := 0
  /-- Outcome of a wait-parked sync.waitw to complete at pick-up (R340): timed out. -/
  waitOut : Option Bool := none
  /-- The place of its record in the spill region, if it does not lie on chip (R336). -/
  spill : Option Nat := none
  deriving DecidableEq, Repr, Inhabited

/-- What a park-table entry waits for (R128, R129, R340). -/
inductive ParkKey where
  | word (word : Nat)
  | counter (counter : Nat)
  | waitw (word : Nat) (expiry : Nat)
  deriving DecidableEq, Repr, Inhabited

/-- A queued table load (R152). -/
structure TLoad where
  thr : Fin 16
  op : Nat
  t4 : Bool
  /-- The image entries, once its last byte has arrived. -/
  image : List (BitVec 19)
  /-- Cycle of the last image byte. -/
  arrives : Nat
  deriving DecidableEq, Repr, Inhabited

/-- A line of a line cache (R270). -/
structure Line where
  /-- Line index L = A[55:6] (R269). -/
  tag : Nat
  data : BitVec 512
  dirty : Bool := false
  /-- The words that stores have written since the line was clean (R286, R314, log 25). -/
  words : BitVec 16 := 0
  /-- The permission it was filled with: read and write allowed (R270). -/
  rd : Bool := true
  wr : Bool
  /-- Physical line number, for its writeback. -/
  pl : Nat
  deriving DecidableEq, Repr, Inhabited

/-- A T-word in an engine queue (R198, R202, R226). -/
structure QCmd where
  word : V256
  core : Fin 8
  /-- Transfer or job identifier. -/
  id : Nat
  /-- The eng.push that queued it (R18 ENGFAULT). -/
  thr : Fin 16
  addr : Word
  /-- The pick-up of the unit that pushed it (R241). -/
  run : Nat := 0
  deriving DecidableEq, Repr, Inhabited

/-- A failure record of a channel or an engine (R206, R228). -/
structure FailRec where
  valid : Bool := false
  status : Byte := 0
  id : Nat := 0
  more : Nat := 0
  deriving DecidableEq, Repr, Inhabited

/-- A core (spec/01, spec/02, spec/04, spec/06, spec/16). -/
structure Core where
  threads : Vector Thread 16 := Vector.replicate 16 {}
  /-- Local memory, 256 KiB (R267). -/
  lm : Memory := []
  /-- Words whose full/empty bit is full (R171). -/
  full : KSet := []
  /-- Words that hold an uncorrectable error (R267). -/
  lmUE : KSet := []
  /-- Send queues, by destination core (R32). -/
  sendq : Vector (List Msg) 8 := Vector.replicate 8 []
  /-- Receive queues, by source core (R32). -/
  recvq : Vector (List Msg) 8 := Vector.replicate 8 []
  /-- The T8 and T4 tables, entries in X19 that are not +0 (R46). -/
  t8 : KMap (BitVec 19) := []
  t4 : KMap (BitVec 19) := []
  /-- The tload queue (R152) and the completing cycle of the last tload. -/
  tloads : List TLoad := []
  tlast : Nat := 0
  /-- Where the core's system area begins in its local memory (R336). -/
  area : Nat := 0x3_4000
  /-- The deque: entries of the four levels, the bottom first (R336). -/
  deque : Vector (List Entry) 4 := Vector.replicate 4 []
  /-- Entries of the deque that spawns under way keep (R126). -/
  kept : Nat := 0
  /-- The park table, 64 entries (R128). -/
  park : List (ParkKey × Entry) := []
  /-- Displaced frames in use, 16, with what their 1,024 bytes of local memory do not hold (R336, R396). -/
  frames : KMap Thread := []
  /-- A displacement in progress (R339): victim. -/
  displacing : Option (Fin 16) := none
  /-- Pick-ups so far (R339). -/
  picks : Nat := 0
  /-- Entries that have arrived in the deque (R343). -/
  arrivals : Nat := 0
  /-- Next run number, and the runs that have not ended (R343). -/
  nextRun : Nat := 1
  openRuns : List Nat := []
  /-- A steal request outstanding, and the cycle of the last request (R338). -/
  stealing : Option Entry := none
  stealBusy : Bool := false
  stealNext : Nat := 1
  stealLast : Nat := 0
  /-- The line cache: 64 sets of up to 8 lines, the most recently used first (R270). -/
  lines : KMap (List Line) := []
  /-- The read-only cache, 64 lines (R174). -/
  rolines : List Line := []
  /-- The core's copy queue (16) and matrix queue (8) (R198, R226). -/
  copyq : List QCmd := []
  mxq : List QCmd := []
  /-- Job identifiers issued and completed: matrix and event engines (R202, R204). -/
  mxIssued : BitVec 16 := 0
  mxDone : BitVec 16 := 0
  evIssued : BitVec 16 := 0
  evDone : BitVec 16 := 0
  /-- Jobs completed out of order (R204). -/
  mxLate : List Nat := []
  /-- Failure records of the matrix and event jobs (R228). -/
  mxFail : FailRec := {}
  evFail : FailRec := {}
  /-- The matrix flag word (R230). -/
  mxflags : BitVec 5 := 0
  /-- Own-tile posts in the core's post path (R190): the cycle in which they may enter the cell array, owner, cell,
  value, activation. -/
  posts : List (Nat × Nat × Nat × V256 × BitVec 16) := []
  deriving DecidableEq, Repr, Inhabited

/-! ## Tiles (spec/01, spec/06, spec/07, spec/09, spec/16) -/

/-- The launch a tile belongs to, as its launch record gives it (R328, R334). -/
structure Launch where
  /-- Address of the launch record. -/
  recAddr : Nat := 0
  part : Nat := 0
  ctx : Nat := 0
  det : Bool := false
  prio : Nat := 0
  gx0 : Nat := 0
  gy0 : Nat := 0
  w : Nat := 1
  h : Nat := 1
  /-- The nominal period P and the drift bound in ppm (R258). -/
  period : Nat := 0
  drift : Nat := 0
  limit : Nat := 1
  seed : Word := 0
  rootCore : Fin 8 := 0
  rootThr : Fin 16 := 0
  ntask : Nat := 0
  task : Nat := 0
  code : Word := 0
  csize : Nat := 0
  entry : W32 := 0
  tvec : Word := 0
  fbytes : Nat := 0
  expo : BitVec 16 := 0
  /-- A management program: its threads are management threads (R24, R115, R431). -/
  mgmt : Bool := false
  /-- The launch was cancelled on this tile (R134): no activation starts. -/
  cancelled : Bool := false
  /-- The tile has retired from the launch; its commands still run (R260). -/
  retired : Bool := false
  deriving DecidableEq, Repr, Inhabited

/-- A sample cell (R188). -/
structure Cell where
  value : V256 := 0
  count : W32 := 0
  writer : BitVec 16 := 0
  act : BitVec 16 := 0
  deriving DecidableEq, Repr, Inhabited

/-- A line of an LLC slice (R274, R398). An uncorrectable error in one is the step CONTEXT_FENCE (R418, R419). -/
structure SLine where
  /-- Physical line number PA[51:6]. -/
  pl : Nat
  way : Nat
  /-- Slot of the context that filled it (R398). -/
  ctx : Nat
  data : BitVec 512
  dirty : Bool := false
  /-- System software or the sequencer wrote to it since it was last clean: a fence of the context does not lose that (R391, R419). -/
  sys : Bool := false
  deriving DecidableEq, Repr, Inhabited

/-- An entry of a translation buffer (R389, R391). -/
structure TLBEnt where
  asid : Nat
  /-- Level of the leaf: 2, 3 or 4. -/
  lvl : Nat
  /-- The virtual page number at that level. -/
  vpn : Nat
  pa : Nat
  h : Bool
  r : Bool
  w : Bool
  deriving DecidableEq, Repr, Inhabited

/-- Who waits for a line or a reply of the fabric. -/
inductive MissFor where
  /-- A line of a core's line cache, virtual line index and home core (R270). -/
  | line (l : Nat) (core : Fin 8) (ro : Bool)
  /-- A source line of a channel's command (R200, R213). -/
  | chan (c n : Nat)
  deriving DecidableEq, Repr, Inhabited

/-- What a fill of a line follows from its beginning on: the way mask and the key of its context (R399, R402). -/
structure FillRule where
  mask : BitVec 16 := 0xFFFF
  key : BitVec 512 := 0
  deriving DecidableEq, Repr, Inhabited

/-- A miss of a tile that is being served (R270, R391). -/
structure Miss where
  tag : Nat
  what : MissFor
  va : Word
  /-- Its page is being walked (R391). -/
  walking : Bool := false
  /-- The physical line, once translated, and its permissions. -/
  pl : Nat := 0
  rd : Bool := true
  wr : Bool := false
  /-- The home slice is the tile's own: the line is taken from it when the reply comes (R272), under what its fill follows. -/
  own : Bool := false
  rule : FillRule := {}
  deriving DecidableEq, Repr, Inhabited

/-- A read that a slice answers when the line is there (R274). -/
structure SReq where
  pl : Nat
  tile : Nat
  tag : Nat
  part : Nat
  ctx : Nat
  /-- What its fill follows (R399, R402). -/
  rule : FillRule := {}
  deriving DecidableEq, Repr, Inhabited

/-! ## The copy unit (spec/07, spec/17) -/

/-- What a transfer of the pull protocol carries (R359). -/
inductive XferKind where
  | pull
  | aff
  /-- Contributions to a W128 region: the addend type and the first accumulator (R214). -/
  | red (ty : Nat) (first : Nat)
  /-- Events, and the number of the first of them (R219). -/
  | ev (num : W32)
  deriving DecidableEq, Repr, Inhabited

/-- The payload of a REQ (R359). -/
structure Req where
  src : Nat
  chan : Nat
  xid : W32
  dest : Word
  len : Nat
  /-- Prefix length in flits, and the prefix tag. -/
  pfx : Nat
  tag : Nat
  cls : Nat
  gcell : Nat
  kind : XferKind
  deriving DecidableEq, Repr, Inhabited

/-- The source of a store: a thread, or a command (R293), which its channel or engine and its identifier tell from the other
commands of its tile. -/
structure StoreSrc where
  tile : Nat
  eng : Bool
  core : Fin 8 := 0
  thr : Fin 16 := 0
  cmd : Nat := 0
  deriving DecidableEq, Repr, Inhabited

/-- What a flit carries (R349, R368, R372); the header fields stand in `Flit`. -/
inductive FlitMsg where
  /-- A post on a cell (R190), the unit's own posts included; `own` marks those, which no export refuses. -/
  | post (cell : Nat) (value : V256) (act : BitVec 16) (own : Bool)
  /-- A pull token to a channel register (R359). -/
  | chanReg (chan : Nat) (value : V256)
  /-- A sample request and its reply (R191, R254). -/
  | sampleReq (cell : Nat) (own : Bool)
  | sampleRep (snap : Option (BitVec 512))
  /-- A read request: a remote source line (R213) or a line of a slice (R270). -/
  | readReq (addr : Word) (n : Nat)
  | lineReq (pl : Nat)
  | rdata (status : Byte) (data : BitVec 512)
  /-- A fan-out event and its number (R219). -/
  | fanout (word : Word) (num : W32)
  | req (r : Req)
  | pfx (tag idx : Nat) (data : BitVec 512)
  | data (entry gseq idx : Nat) (data : BitVec 512)
  | ack (status : Byte)
  /-- The head and a line of a multicast for a member's window, from a gateway to the tile that writes them (R371, R372; log 103): the
  gateway's number of the write, from 32 on for a global window; how many lines come to the tile, the window, where line 0 is
  written, and the command; or the line's place and data. -/
  | mcastDest (num lines win : Nat) (dest : Word) (by_ : StoreSrc)
  | mcastData (num ix : Nat) (data : BitVec 512)
  /-- The head and a line of a copy.mcast on their way to its gateway: channel; transfer, group, offset, lines, or the line's
  place and data (R372). -/
  | mcastHead (chan xid group offset lines : Nat)
  | mcastLine (chan ix : Nat) (data : BitVec 512)
  /-- A tile's answer to a gateway: the write's number there and the reason of a member's failure, 0 for success (R373). -/
  | gateAck (num reason : Nat)
  /-- The acknowledgement record of a copy.mcast on its way to the source, without its reserved bytes (R218, R373): channel,
  transfer, record. -/
  | mcastDone (chan xid : Nat) (record : BitVec 320)
  /-- A reserved kind (R349). -/
  | reserved
  deriving DecidableEq, Repr, Inhabited

/-- A flit (R348). -/
structure Flit where
  age : Nat
  cls : Nat
  dst : Nat
  /-- ctag: the context slot and its epoch (R348), with the partition whose routers carry it. -/
  part : Nat
  slot : Nat
  epoch : Nat
  src : Nat
  /-- What a reply or acknowledgement is matched by: the number of what awaits it until the flit is injected, then the reference of
  9 bits that stands for it (R349; log 17). -/
  ref : Nat
  msg : FlitMsg
  /-- The link whose ingress buffer it holds until it enters the fabric (R367). -/
  via : Option Nat := none
  deriving DecidableEq, Repr, Inhabited

/-- A flit on its way to a router (R347): the router, the input port (0 N, 1 E, 2 S, 3 W, 4 V) and the reference tick in which
it arrives there. -/
structure Hop where
  tile : Nat
  /-- The plane: the cache plane, else the compute plane. -/
  cache : Bool
  port : Nat
  at_ : Nat
  flit : Flit
  deriving DecidableEq, Repr, Inhabited

/-- What a router has used in this fabric cycle: output ports, its ejection, its injection (R351, R352). -/
structure RouterUse where
  out : List Nat := []
  ejected : Bool := false
  injected : Bool := false
  /-- The gateway port has put a flit in, and taken one (R367). -/
  gateIn : Bool := false
  gateOut : Bool := false
  deriving DecidableEq, Repr, Inhabited

/-! ## The gateways (R367 to R373) -/

/-- What a flit on a scale-up link carries (R372, R373). A copy is told from others by `ref`, 64 times its source tile plus its number
at the module that sent it, of 6 bits (log 102). -/
inductive GwMsg where
  /-- The head of a multicast copy: group, offset, lines, source module. -/
  | head (group offset lines src ref : Nat)
  /-- A line of a copy: its place and data. -/
  | line (ix : Nat) (data : BitVec 512) (ref : Nat)
  /-- The acknowledgement of a copy, in two flits (log 102): its result, laid out as R218 lays out a record, and the members that it
  counts, a bit for each module. -/
  | ack (ref : Nat) (record : BitVec 512)
  | who (ref : Nat) (members : BitVec 512)
  /-- Anything else: its header and payload. -/
  | other (hd : Word) (w : BitVec 512)
  deriving DecidableEq, Repr, Inhabited

/-- A flit with its link framing (R368). -/
structure GwFlit where
  /-- The partition it is charged to; 64: transit (R367). -/
  part : Nat
  lane : Nat
  slot : Nat
  epoch : Nat
  smod : Nat
  dmod : Nat
  cls : Nat
  age : Nat
  msg : GwMsg
  lseq : Nat := 0
  /-- It has been sent and awaits its acknowledgement (R367). -/
  sent : Bool := false
  deriving DecidableEq, Repr, Inhabited

/-- What a link puts on its wire (R368, R369). -/
inductive Wire where
  | flit (f : GwFlit)
  | empty (lseq : Nat)
  | ack (lseq : Nat)
  | replay (lseq : Nat)
  deriving DecidableEq, Repr, Inhabited

/-- A scale-up link (R367, R369). -/
structure Link where
  /-- Egress buffers in use, in order of entry. -/
  egress : List GwFlit := []
  /-- Next link sequence number, and the partition served last. -/
  next : Nat := 0
  last : Nat := 0
  /-- Sequence numbers that a replay still has to send, and those of purged flits not yet acknowledged (R375). -/
  again : List Nat := []
  purged : List Nat := []
  deriving DecidableEq, Repr, Inhabited

/-- A multicast copy at a module, as its flits arrive (R372). -/
structure McCopy where
  part : Nat
  slot : Nat
  epoch : Nat
  cls : Nat
  /-- The age of its head (R350). -/
  age : Nat := 0
  src : Nat := 0
  group : Nat := 0
  offset : Nat := 0
  /-- The number of its lines, once its head has come, and the lines that have come, with their places and ages. -/
  count : Option Nat := none
  lines : List (Nat × BitVec 512 × Nat) := []
  /-- The link it comes by, whose ingress buffers it takes (R367), and its direction (0 +X, 1 -X, 2 +Y, 3 -Y, 4 +Z, 5 -Z); none
  at the source. -/
  link : Option Nat := none
  /-- The module that sent it and its reference there; the source tile; at the source the channel and the transfer. -/
  smod : Nat := 0
  ref : Nat := 0
  tile : Nat := 0
  chan : Nat := 0
  xid : Nat := 0
  /-- It failed the check of R368. -/
  stale : Bool := false
  deriving DecidableEq, Repr, Inhabited

/-- A module's wait for the acknowledgements of the copies it sent and of its own member's write (R373). -/
structure McNode where
  id : Nat
  copy : McCopy
  /-- Copies awaited: number and members. -/
  kids : List (Nat × List Nat) := []
  /-- Answers that the own member's write still needs, and the reason of its failure (R372). -/
  owed : Nat := 0
  why : Nat := 0
  succ : Nat := 0
  fail : Nat := 0
  pairs : List (Nat × Nat) := []
  /-- The members counted. -/
  who : List Nat := []
  deriving DecidableEq, Repr, Inhabited

/-- The module's gateways (R367). -/
structure Gateway where
  links : KMap Link := []
  /-- Copies whose flits have arrived, whole or in part. -/
  arrived : List McCopy := []
  nodes : List McNode := []
  nextRef : Nat := 0
  /-- The references in use of copies sent, and from 2^20 on the numbers of writes of the own member, with the waits that they stand
  for (R349, R373; log 102). -/
  nums : KMap Nat := []
  /-- Acknowledgements of which one flit has come: the result or the members counted. -/
  half : KMap (Option (BitVec 512) × Option (BitVec 512)) := []
  /-- Flits that wait for an egress buffer, with their direction and the link whose ingress buffer they take. -/
  wait : List (Nat × Option Nat × GwFlit) := []
  /-- What the links have put on their wires, by link, in order. -/
  wire : List (Nat × Wire) := []
  /-- Flits on their way into the fabric, by the strip port of their source tile (R367). -/
  out : List Flit := []
  /-- Flits dropped because their lane maps to no partition (R368). -/
  ctagdrop : Nat := 0
  /-- This module's number in the pod, set by system software. -/
  me : Nat := 0
  deriving DecidableEq, Repr, Inhabited

/-- A multicast on its way into a tile, or the slice at it: the port it comes from and its number there, its context, its head once that
has come (lines, window, where line 0 is written, the command), the lines that came before their head, and how many are written
(R372; log 103). -/
structure McIn where
  port : Nat
  num : Nat
  part : Nat
  slot : Nat
  epoch : Nat
  head : Option (Nat × Nat × Word × StoreSrc) := none
  early : List (Nat × BitVec 512) := []
  done : Nat := 0
  deriving DecidableEq, Repr, Inhabited

/-- What an acknowledgement that a tile awaits belongs to (R165, R200, R219, R362). -/
inductive AckFor where
  | post (owner : Nat)
  /-- A token or DONE of a request-table entry, with the entry's stamp. -/
  | grant (entry stamp : Nat)
  /-- A fan-out event of the run in progress. -/
  | fan
  | none
  deriving DecidableEq, Repr, Inhabited

/-- A sample that awaits its reply (R191, R254). -/
inductive SampFor where
  | thread (core : Fin 8) (thr : Fin 16) (op : Nat)
  /-- A source of ev.run, and the tile cycle of the request; once it is not waited for any more its reply is discarded. -/
  | source (ix at_ : Nat)
  | gone
  deriving DecidableEq, Repr, Inhabited

/-- Bytes of a transfer that its sender is reading and sending, a prefix or those of a token (R215, R359). -/
structure Send where
  /-- The next byte, within the transfer, where the bytes end, and the index of the next flit. -/
  next : Nat
  stop : Nat
  ix : Nat := 0
  /-- The token's request-table entry and grant number; none: the prefix. -/
  tok : Option (Nat × Nat) := none
  deriving DecidableEq, Repr, Inhabited

/-- The sender's side of a transfer in progress (R215, R359). -/
structure Pull where
  req : Req
  /-- The destination tile, and the byte of the command at which the transfer begins. -/
  dst : Nat
  base : Nat := 0
  /-- The request has still to be sent; the bytes being sent. -/
  ask : Bool := true
  send : Option Send := none
  /-- Count of the grant cell, or of the channel register, when last looked at (R215, R364). -/
  seen : W32
  /-- The tile cycle of the last change, for R364. -/
  changed : Nat
  deriving DecidableEq, Repr, Inhabited

/-- The command that a channel runs (R197, R225). -/
structure ChanRun where
  q : QCmd
  /-- Bytes moved before a fault or a wait (R225). -/
  off : Nat := 0
  /-- Records read at the start: source and destination (R175, R212). -/
  srec : Option (BitVec 512) := none
  drec : Option (BitVec 512) := none
  /-- Bytes gathered for the next flit of a transfer, or the addends of a copy.red (R214, R374). -/
  acc : List Byte := []
  /-- Source bytes read and not yet used, of the own tile or brought by a remote read (R213), and the command's byte at which
  they begin. -/
  got : List Byte := []
  gotAt : Nat := 0
  /-- A reply is outstanding; the channel waits for a flit buffer (R199). -/
  wait : Bool := false
  stalled : Bool := false
  pull : Option Pull := none
  /-- Numbers its events were given, once they have been (R219). -/
  num : Option W32 := none
  /-- A request to the host that awaits its completion: its number, the host address, the operand and the comparand as they
  were sent (R223). -/
  host : Option (Nat × Nat × Nat × Nat) := none
  deriving DecidableEq, Repr, Inhabited

/-- A translation fault that a command or an engine holds (R225, R241, R392). -/
structure FPend where
  seq : BitVec 56
  addr : Word
  /-- How a settle received while the context is SAVED has marked it: ABORT or RESUME (R392). -/
  mark : Option Bool := none
  deriving DecidableEq, Repr, Inhabited

/-- A channel (R196, R205). -/
structure Chan where
  last : W32 := 0
  ct : W32 := 0
  fail : FailRec := {}
  run : Option ChanRun := none
  fpend : Option FPend := none
  /-- The register of R359: value and count of changes. -/
  reg : V256 := 0
  regCount : W32 := 0
  /-- The stream binding that holds the channel, if any (R222). -/
  bound : Bool := false
  deriving DecidableEq, Repr, Inhabited

/-- An entry of the request table (R360, R361). -/
structure ReqEnt where
  req : Req
  next : Nat := 0
  exp : Nat := 0
  /-- Grants issued, 16 bits (R360), and whether the live token is the prefix, token 0 (R361). -/
  gseq : Nat := 0
  pre : Bool := false
  /-- Sectors of the live token accepted, and its flits: 0 when none. -/
  tmap : BitVec 8 := 0
  tlen : Nat := 0
  miss : Nat := 0
  /-- A post of the entry awaits its acknowledgement (R362), and whether it is the DONE (R363). -/
  posted : Bool := false
  done : Bool := false
  /-- Order of arrival. -/
  stamp : Nat := 0
  /-- Bytes accepted, for the kinds that take them in order (R219). -/
  buf : Memory := []
  /-- The reference tick of its request, from which its prefix tag may be in use for 2^15 ticks (R359). -/
  came : Nat := 0
  deriving DecidableEq, Repr, Inhabited

/-- The barrier in progress in a tile (R192, R221). -/
structure Barrier where
  epoch : W32
  round : Nat
  /-- copy.bar commands that joined. -/
  chans : List Nat := []
  deriving DecidableEq, Repr, Inhabited

/-- A flit that waits for injection, with the core whose post it is and the channel whose buffer it takes (R190, R199). -/
structure Inject where
  flit : Flit
  chan : Option Nat := none
  /-- It takes its channel's reserved buffer, not a shared one (R199). -/
  res : Bool := false
  prio : Nat := 0
  core : Option (Fin 8) := none
  fan : Bool := false
  deriving DecidableEq, Repr, Inhabited

/-- A post in a cell array's intake (R263). -/
structure IntakePost where
  /-- The cycle in which it reached the array. -/
  at_ : Nat
  cell : Nat
  value : V256
  writer : BitVec 16
  act : BitVec 16
  /-- The cycle in which it could first have reached the array: 4 cycles after its issue (R190). -/
  born : Nat := 0
  /-- Who is told when it has performed: the reference of the writer's acknowledgement, or the own-tile unit. -/
  ref : Nat := 0
  owner : Option Nat := none
  deriving DecidableEq, Repr, Inhabited

/-- The words of an accepted flit that perform later than the others, for the writes of a command are unordered (R289, R295): the
request-table entry, the tile cycle, address, bytes, and the command. -/
structure LateWrite where
  entry : Nat
  at_ : Nat
  addr : Word
  bytes : List Byte
  by_ : StoreSrc
  deriving DecidableEq, Repr, Inhabited

/-- The copy unit (spec/07). -/
structure CopyUnit where
  chans : KMap Chan := []
  /-- The cores served last in starting and in injecting (R198). -/
  rot : Fin 8 := 7
  irot : Fin 8 := 7
  rpost : Word := 0
  rsmp : Word := 0
  bepoch : W32 := 0
  bar : Option Barrier := none
  orphan : W32 := 0
  pfxdrop : W32 := 0
  /-- The tensor-shape-record cache, 16 entries, the most recently used first: context, address, record (R212). -/
  recs : List (Nat × Word × BitVec 512) := []
  /-- Send counters by tile position (R220). -/
  sent : KMap W32 := []
  /-- The tile's work bit (R221). -/
  work : Bool := false
  /-- The unit's own posts to cells of its tile, on their way to the intake (R190, R263). -/
  posts : List IntakePost := []
  /-- copy.probe commands in progress: channel and round. -/
  probes : List (Nat × W32) := []
  /-- The request table (R360), and G (R362). -/
  reqs : KMap ReqEnt := []
  late : List LateWrite := []
  g : Nat := 0
  arrived : Nat := 0
  /-- The prefix pool: source, tag, index, data, the flit's number in order of arrival (R361). -/
  pool : List (Nat × Nat × Nat × BitVec 512 × Nat) := []
  /-- Prefixes of requests that got no entry, which are discarded: source, tag, reference tick (R364, R437). -/
  refused : List (Nat × Nat × Nat) := []
  /-- Prefix tags and when a PFX was last injected with each (R359). -/
  tags : KMap Nat := []
  /-- Flits ready for injection and flits ejected, in order. -/
  inj : List Inject := []
  ingress : List Flit := []
  /-- Flits accepted whose step comes next, in order. -/
  accepted : List Flit := []
  /-- The tile cycle in which a command was last started (R198), one more than it. -/
  started : Nat := 0
  /-- Replies and acknowledgements awaited, by their numbers, and the next number. -/
  acks : KMap AckFor := []
  samples : KMap SampFor := []
  nextRef : Nat := 0
  /-- The references of 9 bits in use, with the numbers they stand for, and where the next is looked for (R349; log 17). -/
  refs : KMap Nat := []
  refAt : Nat := 0
  /-- Multicasts on their way in (R372). -/
  mcin : List McIn := []
  deriving DecidableEq, Repr, Inhabited

/-! ## The matrix engine (R226 to R241) -/

/-- A row in flight (R231, R232). -/
structure MxRow where
  due : Nat
  core : Fin 8
  job : Nat
  /-- Destination row or quad. -/
  dst : Nat
  wm : Bool
  ex : Int
  plane : Bool
  a : List (BitVec 19)
  deriving DecidableEq, Repr, Inhabited

/-- A weight load in progress, one that a translation fault holds included (R232, R241). -/
structure MxLoad where
  core : Fin 8
  job : Nat
  plane : Bool
  deriving DecidableEq, Repr, Inhabited

/-- The matrix engine (R230). -/
structure Matrix where
  /-- Weights that are not +0, entry 32·k + j of each plane. -/
  plane0 : KMap (BitVec 19) := []
  plane1 : KMap (BitVec 19) := []
  /-- Whether a plane was loaded from a 4-bit format (R231). -/
  t4p0 : Bool := false
  t4p1 : Bool := false
  active : Bool := false
  /-- The accumulator file and the quad flag bytes, as bytes of window kind 11 below 0x8040. -/
  acc : Memory := []
  load : Option MxLoad := none
  rows : List MxRow := []
  /-- The rows written in the cycle `justAt`, which hold back what waits for them until the next one (R232). -/
  just : List MxRow := []
  justAt : Nat := 0
  /-- Arbitration: the core being served and the services it has had in this round (R31, R231). -/
  turn : Fin 8 := 0
  used : Nat := 0
  /-- The engine is busy with a service until this cycle. -/
  busy : Nat := 0
  /-- Rows of each core's head command already served, its record, and its pending fault. -/
  done : Vector Nat 8 := Vector.replicate 8 0
  recs : Vector (Option (BitVec 512)) 8 := Vector.replicate 8 none
  /-- The pushing core's tables at the first operand fetch of its head command (R46). -/
  tabs : Vector (Option (KMap (BitVec 19) × KMap (BitVec 19))) 8 := Vector.replicate 8 none
  fpend : Vector (Option FPend) 8 := Vector.replicate 8 none
  /-- Jobs whose rows or completion are still outstanding, with the status they will end with. -/
  open_ : List (Fin 8 × Nat × Byte) := []
  deriving DecidableEq, Repr, Inhabited

/-! ## The event engine (R243 to R257) -/

/-- A bank's configuration (R245). -/
structure EvBank where
  fbase : W32 := 0
  wbase : W32 := 0
  wcount : Nat := 0
  theta : W32 := 0x7FFF_FFFF
  refr : Byte := 0
  k : Nat := 0
  wshift : Nat := 0
  reset : Bool := false
  deriving DecidableEq, Repr, Inhabited

/-- A queued event with its stamps (R250). -/
structure EvEnt where
  word : Word
  src : Nat
  seq : Nat
  deriving DecidableEq, Repr, Inhabited

/-- The declaration of ev.horizon (R252): sources with their time cells, the loss cells and the minimum delay. -/
structure EvDecl where
  srcs : List (Nat × Nat) := []
  lossbase : Nat := 0
  dmin : Nat := 1
  deriving DecidableEq, Repr, Inhabited

/-- Where the run at the head of the event queue stands (R254). -/
inductive EvRunSt where
  /-- Samples of time cells still awaited, by source index, and the greatest timestamp queued at the start. -/
  | sampling (left : List Nat) (top : Option Nat)
  /-- Delivering events below the bound. -/
  | running (bound : Nat)
  /-- Waiting for the answers to its remote events. -/
  | draining
  deriving DecidableEq, Repr, Inhabited

/-- The event engine (R247 to R256). -/
structure EvEngine where
  /-- Neuron states that are not 0, entry 8192·b + n (R244). -/
  neurons : KMap Word := []
  banks : Vector EvBank 4 := Vector.replicate 4 {}
  /-- Queued events in delivery order (R250). -/
  queue : List EvEnt := []
  decl : Option EvDecl := none
  /-- The largest τ sampled of each source tile (R252). -/
  tau : KMap Nat := []
  t : Nat := 0
  /-- Last horizon computed; none: unbounded (R256). -/
  h : Option Nat := none
  seq : W32 := 0
  late : Word := 0
  undecl : Word := 0
  badkind : Word := 0
  badidx : Word := 0
  badfan : Word := 0
  overflow : Word := 0
  fanref : Word := 0
  ldrop : Word := 0
  /-- The command queue, 16 entries (R226), and the run of its head. -/
  cmds : List QCmd := []
  /-- The head command has started. -/
  active : Bool := false
  run : Option EvRunSt := none
  /-- Drops counted per source tile, the own tile's local drops under 65,536 (R253, log 20). -/
  drops : KMap Nat := []
  /-- Remote events handed to the copy unit whose answers are outstanding (R254). -/
  remote : Nat := 0
  /-- Fan-out events of the current firing that wait for room in the fan-out buffer (R219). -/
  pendingFan : List (Nat × Word) := []
  fpend : Option FPend := none
  /-- The states that the head command's ev.read has written (R241, R255). -/
  wrote : Nat := 0
  deriving DecidableEq, Repr, Inhabited

/-! ## The trace rings (R293, R294) -/

/-- An entry of a trace ring (R293). -/
structure TraceEnt where
  cycle : Nat
  src : StoreSrc
  word : Nat
  deriving DecidableEq, Repr, Inhabited

/-- A memory port's ring and what it keeps beside it (R293, R294). -/
structure TracePort where
  /-- At most 256 entries, the oldest first. -/
  ring : List TraceEnt := []
  /-- The last write of each word: source and cycle. -/
  last : KMap (StoreSrc × Nat) := []
  /-- The recorded order that replay still has to follow, and the divergence count. -/
  order : List TraceEnt := []
  diverge : W32 := 0
  deriving DecidableEq, Repr, Inhabited

/-- A tile: eight cores, the copy unit, the engines, the cell array, the LLC slice (R1). -/
structure Tile where
  cores : Vector Core 8 := Vector.replicate 8 {}
  /-- The launch on the tile, if any (R334). -/
  launch : Option Launch := none
  /-- k.period, k.act, k.overrun (R24, R258, R259). -/
  kperiod : W32 := 0
  kact : Word := 0
  koverrun : W32 := 0
  /-- k.driftalarm: count and alarm (R30). -/
  alarmCount : BitVec 16 := 0
  alarm : Bool := false
  /-- k.mxw (R31). -/
  kmxw : W32 := 0
  /-- Sample cells that differ from zero (R188). -/
  cells : KMap Cell := []
  /-- An activation runs, and the roots of it that have not ended (R259, R260). -/
  actRuns : Bool := false
  rootsLeft : Nat := 0
  /-- Bindings that have ended and whose transfer has not completed (R194, R195). -/
  drains : List StrmBind := []
  /-- The LLC slice: 384 sets of up to 16 lines, the most recently used first (R274). -/
  slice : KMap (List SLine) := []
  /-- Reads that wait for a fill of the slice (R274). -/
  sreqs : List SReq := []
  /-- The translation buffer, 64 sets of 8 entries, the most recently used first (R391). -/
  tlb : List TLBEnt := []
  /-- Misses of the tile that are being served. -/
  misses : List Miss := []
  /-- The copy unit (spec/07). -/
  copy : CopyUnit := {}
  /-- The matrix engine (R230). -/
  mx : Matrix := {}
  /-- The event engine (R247). -/
  ev : EvEngine := {}
  /-- Posts in the cell array's intake, 8 (R263). -/
  intake : List IntakePost := []
  /-- The last cycle in which a post performed on a cell (R263). -/
  cellLast : KMap Nat := []
  /-- The group watchdog's count (R242). -/
  watchdog : Nat := 0
  /-- Accesses on their way to the memory ports and waiting there, in order of arrival (R162, R164, R173, R180), and the number
  of the next unit. -/
  accs : List Access := []
  owners : Nat := 1
  /-- The period timer: the tile cycle of the next tick, whether it has ticked, the reference tick of the last one (R259,
  R261). -/
  tickDue : Nat := 0
  ticked : Bool := false
  lastTick : Nat := 0
  /-- Activations do not start: the context is being stopped (R344). -/
  stopping : Bool := false
  /-- The tile issues nothing: its save has begun (R394). -/
  frozen : Bool := false
  /-- Health checks that did not pass (R430). -/
  missed : Nat := 0
  /-- Where a unit of the tile last met an uncorrectable error (R418, R420). -/
  ueAt : Word := 0
  /-- Memory ports by the k.tbm bit of their bank (R163, R293). -/
  ports : KMap TracePort := []
  deriving DecidableEq, Repr, Inhabited

/-- A walk of a page for the copy units of a deck (R391): the tile that asked for it first, the partition and context whose
tables it reads, and an address of the page. -/
structure Walk where
  tile : Nat
  part : Nat
  ctx : Nat
  va : Word
  deriving DecidableEq, Repr, Inhabited

/-- A non-leaf table entry that the walkers of a deck keep (R391): its partition and ASID, its level, the address bits that index it, and
the table it names. -/
structure NonLeaf where
  part : Nat
  asid : Nat
  lvl : Nat
  vpn : Nat
  next : Nat
  deriving DecidableEq, Repr, Inhabited

/-- One deck: its tile clock (R7, R10, R435). -/
structure Deck where
  /-- The tile cycle number n that the tiles of the deck count (R10, log 8). -/
  tcyc : Nat := 0
  /-- Throttle step: the tile clock runs at (16 - thr)/16 of its rate (R435), and the accumulator of sixteenths. -/
  thr : Nat := 0
  acc : Nat := 0
  /-- Walks in order of arrival: the deck's 64 walkers serve the first 64, the others queue (R391). -/
  walks : List Walk := []
  /-- The walkers' cache of non-leaf entries (R391; log 33). -/
  nonleaf : List NonLeaf := []
  deriving DecidableEq, Repr, Inhabited

/-- Which clock a timed event follows: the tile clock of a deck, or the reference clock (R7). -/
inductive Clk where
  | deck (d : Fin 8)
  | ref
  deriving DecidableEq, Repr, Inhabited

/-- The operands of a step of the module, beside the tile, core and thread it concerns (log 1): numbers (an instruction, a
channel, a partition, a context), an address or value, and data. -/
structure Args where
  n : Nat := 0
  m : Nat := 0
  w : Word := 0
  d : BitVec 512 := 0
  e : BitVec 512 := 0
  /-- A list of numbers, where a step has one. -/
  l : List Nat := []
  ok : Bool := true
  deriving DecidableEq, Repr, Inhabited

/-- A timed event of the machine (log 1). -/
structure Agenda where
  clk : Clk
  due : Nat
  /-- Served after the conditions of the cycle have been tested: a timeout loses to its condition (R158). -/
  late : Bool := false
  cur : ThreadRef := default
  arg : Args := {}
  i : Instr
  deriving DecidableEq, Repr, Inhabited

/-! ## Partitions and contexts (spec/16, spec/19) -/

/-- Something that enters a partition's log or is reported to its sequencer (R19, R242, R261, R421). -/
structure Report where
  tile : Nat
  /-- The record type of R422. -/
  kind : Nat
  info : Word
  act : Word := 0
  /-- The partition and the context, where they are not those of the tile's launch. -/
  part : Option (Nat × Nat) := none
  deriving DecidableEq, Repr, Inhabited

/-- A pending translation fault of a context (R392). -/
structure PFault where
  seq : Nat
  va : Word
  tile : Nat
  /-- [7:6] 0 copy, 1 matrix, 2 event; [5:0] channel or core. -/
  who : Nat
  acc : Nat
  cause : Nat
  lvl : Nat
  id : Nat
  roff : Nat
  deriving DecidableEq, Repr, Inhabited

/-- A context descriptor with its control page (R387, R388). -/
structure Ctx where
  /-- root: [51:16] root table, [0] valid (R387). -/
  root : Word := 0
  asid : Nat := 0
  wmask : BitVec 16 := 0xFFFF
  /-- The mask before the last write of it, and one more than the reference tick of that write (R399). -/
  wmaskWas : BitVec 16 := 0xFFFF
  wmaskAt : Nat := 0
  keySlot : Nat := 0
  kv : Bool := false
  state : Byte := 0
  vf : Nat := 0
  epoch : W32 := 0
  save : Nat := 0
  fq : Nat := 0
  fqn : Nat := 0
  quantum : Nat := 0
  fqprod : Word := 0
  fqcons : Word := 0
  tbdone : Word := 0
  /-- Pending faults, in order of their numbers, the last number given, and the records that wait to be written (R392). -/
  faults : List PFault := []
  lastFault : Nat := 0
  records : List PFault := []
  /-- Settles received while SAVED: fault number and whether ABORT (R392, R395). -/
  settles : List (Nat × Bool) := []
  /-- The job cell and the echo cell of the context's sequencer page (R331, R332, R386). -/
  jobCell : Cell := {}
  echo : Cell := {}
  /-- Tiles of the context as they were saved, with the tile cycles left to their next tick (R394), and whether the save
  area is complete (R395, R419). -/
  saved : List (Nat × Tile × Nat) := []
  complete : Bool := true
  /-- Launches cancelled while SAVED (R134). -/
  cuts : List Nat := []
  /-- A pre-emption is in progress (R344), and its place in the order of READY work (R334, R345). -/
  stopping : Bool := false
  since : Nat := 0
  /-- The number of quanta begun, so that an expiry of an earlier one is ignored (R344). -/
  quanta : Nat := 0
  /-- A bump that waits (R357), and how many are due. -/
  bumps : Nat := 0
  /-- One more than the reference tick of the last fence, so that a second error of that tick makes no second one (R434). -/
  fencedAt : Nat := 0
  deriving DecidableEq, Repr, Inhabited

/-- A job that the sequencer holds (R333): its record, and whether it has started. -/
structure Job where
  record : Nat
  ctx : Nat
  started : Bool := false
  deriving DecidableEq, Repr, Inhabited

/-- A READY launch: its record, context, priority, and when it became READY (R334). -/
structure Ready where
  record : Nat
  ctx : Nat
  prio : Nat
  order : Nat
  deriving DecidableEq, Repr, Inhabited

/-- A partition (R384 to R387, R401). -/
structure Part where
  sc0 : Nat
  sr0 : Nat
  sc1 : Nat
  sr1 : Nat
  /-- Bytes of its physical space as they were before encryption (log 6). -/
  hbm : Memory := []
  /-- The key pair each line was written back under, the data key below the tweak key (R401, log 6); a line never written back has
  none. -/
  lineKey : KMap (BitVec 512) := []
  /-- The partition's own key pair (R401). -/
  ownKey : BitVec 512 := 0
  /-- The migration threshold, 0 to 15, set by system software (R273). -/
  migThr : Nat := 0
  /-- Physical base of the group table (R370), and the window table (R371). -/
  groupBase : Nat := 0
  windows : KMap (BitVec 128) := []
  ctxs : KMap Ctx := []
  /-- The pod lane, and the minimum shares of each link (R367, R368). -/
  lane : Option Nat := none
  shares : KMap Nat := []
  /-- The counters of R358 and R421. -/
  ctagdrop : Nat := 0
  stale : Nat := 0
  badkind : Nat := 0
  gwpurge : Nat := 0
  fabue : Nat := 0
  ce : Nat := 0
  /-- The log ring's control block (R421). -/
  lbase : Word := 0
  lsize : Nat := 0
  lprod : Word := 0
  lcons : Word := 0
  lost : Word := 0
  recd : Bool := false
  replay : Bool := false
  /-- Divergences, for the DIVERGE entries of R422. -/
  diverged : Nat := 0
  /-- The sequencer: jobs in acceptance order, READY launches, and the next place in the order (R333, R334). -/
  jobs : List Job := []
  ready : List Ready := []
  nextOrder : Nat := 0
  /-- Contexts that have had their quantum in this round (R345). -/
  served : List Nat := []
  /-- The limit of the group watchdogs and the grace of a pre-emption, set by system software (R242, R344). -/
  hangLimit : Nat := 0
  grace : Nat := 0
  /-- When a context last carried a tag: entry 16·slot + epoch[3:0] (R357). -/
  ctags : KMap Nat := []
  /-- Ranges of physical lines whose contents a fence left undefined: first line, lines, the fence's number, free value; and
  the number of fences a line's last writeback followed (R419, log 3). -/
  fog : List (Nat × Nat × Nat × Nat) := []
  fences : Nat := 0
  lineGen : KMap Nat := []
  deriving DecidableEq, Repr, Inhabited

/-- A key slot (R400). -/
structure KeySlot where
  /-- FREE 0, LOADED 1, ZEROING 2. -/
  st : Nat := 0
  dkey : BitVec 256 := 0
  tkey : BitVec 256 := 0
  part : Nat := 0
  ctx : Nat := 0
  kid : W32 := 0
  /-- The key that the last KEY_PUT replaced for its context, and one more than the reference tick of that KEY_PUT: fills of that tick
  come first (R402). -/
  was : BitVec 512 := 0
  putAt : Nat := 0
  deriving DecidableEq, Repr, Inhabited

/-! ## The module (spec/21) -/

/-- The configuration image in flash (R428). -/
structure Image where
  /-- The SKU data: clocks in [31:0], power limits in [47:32], the number of enabled decks in [51:48] (the layout is the model's, log 7). -/
  sku : Word := 0
  /-- Recorded bad columns by row 20·d + y: bytes of the repair map with [7] set. -/
  repair : KMap Nat := []
  /-- The identity seed, and the PUF key under which it is sealed and the binding tag is made (log 7). -/
  seed : BitVec 256 := 0
  key : BitVec 256 := 0
  /-- Its SHA-384, which stage 2 measures. -/
  digest : BitVec 384 := 0
  deriving DecidableEq, Repr, Inhabited

/-- The module: starts, flash, health, power (R424 to R435). -/
structure Module where
  /-- STARTING 1, READY 2, COCOON 3, SHUTDOWN 4 (R427). -/
  state : Nat := 1
  stage : Nat := 1
  /-- Numbers the starts, so that a limit of an earlier start is ignored. -/
  starts : Nat := 0
  /-- Flash: failure count, the reason codes oldest first, the image, and a start that lost power (R425, R428). -/
  fails : Nat := 0
  reasons : List Nat := [0, 0, 0]
  image : Image := {}
  interrupted : Bool := false
  /-- Flash: the SHA-384 of the Lamay firmware (R424, R427). The module itself: the key that its decks' PUF derives (R428). -/
  firmware : BitVec 384 := 0
  puf : BitVec 256 := 0
  /-- The unsealed identity seed, from which the SPDM key pair is derived (R428). -/
  identity : Option (BitVec 256) := none
  /-- One measurement per stage, and the runtime measurement (R424, R432). -/
  meas : KMap (BitVec 384) := []
  repl : Bool := false
  rowx : Bool := false
  hbmdeg : Bool := false
  unavail : BitVec 64 := 0
  ce : Nat := 0
  /-- What the BIST of stage 4 found: 64·row + physical column of bad tiles (R424, R429). -/
  found : List Nat := []
  /-- The physical bad column in force by row 20·d + y (R429). -/
  rows : KMap Nat := []
  chfail : BitVec 256 := 0
  /-- Command registers: res, cseq and whether a command runs (R427). -/
  res : Nat := 0
  cseq : Nat := 0
  busy : Bool := false
  /-- The buffer at 0x2000 of the management window (R423). -/
  buffer : Memory := []
  cap : Nat := 2800
  temps : Vector Nat 8 := Vector.replicate 8 0
  power : Nat := 0
  /-- Health checks made, their number at the last sample, and the tiles that do not answer: the count at their last sample
  and the samples since it advanced (R430, R431). -/
  checks : Nat := 0
  sampled : Nat := 0
  silent : KMap (Nat × Nat) := []
  /-- Tiles whose logic has reported an uncorrectable error since the last health check (R430). -/
  erred : List Nat := []
  /-- Rows whose spare is being tested: failed tile (R431). -/
  shifts : List Nat := []
  /-- Functions with a secured session bound to them (R402), and responses given, by function. -/
  sessions : KSet := []
  responses : List (Nat × List Byte) := []
  deriving DecidableEq, Repr, Inhabited

/-- The whole machine. -/
structure State where
  /-- k.clock, in reference ticks (R7). -/
  clock : Nat := 0
  decks : Vector Deck 8 := Vector.replicate 8 {}
  /-- Tiles by identifier in the layout of R25. -/
  tiles : KMap Tile := []
  /-- The thread whose instruction is executed, or the tile, core and thread that a step concerns (log 1). -/
  cur : ThreadRef := default
  /-- The other operands of the step that is executed (log 1). -/
  arg : Args := {}
  /-- What the outside world does next, in order: steps with their operands (log 1). -/
  inputs : List (Instr × ThreadRef × Args) := []
  /-- Timed events of the machine (log 1). -/
  agenda : List Agenda := []
  /-- Barrel slots of this tick still to serve (R11, log 1). -/
  slots : List ThreadRef := []
  /-- Free values used so far (log 3). -/
  fresh : Nat := 0
  /-- Partitions by number (R384). -/
  parts : KMap Part := []
  /-- The 64 key slots (R400); one not listed is FREE. -/
  keys : KMap KeySlot := []
  /-- Reports on their way to the partition logs (R19, R422). -/
  reports : List Report := []
  /-- Host memory (R270, R389). -/
  host : Memory := []
  /-- Ranges of host memory whose contents a fence left undefined and nothing has written since: first address, end, the
  fence's free value (R419, log 3). -/
  hostFog : List (Nat × Nat × Nat) := []
  /-- Lines of host memory whose next read by a command or an engine comes back poisoned (R418, log 11). -/
  hostBad : KSet := []
  /-- The PCIe completion timeout that system software programs, in reference ticks (R223). -/
  hostTimeout : Nat := 0
  /-- Interrupts signalled to the host: function and vector, in order (R392). -/
  irqs : List (Nat × Nat) := []
  /-- Flits between routers (R347), and what the routers have used in this fabric cycle: entry 2·tile + plane. -/
  hops : List Hop := []
  routers : KMap RouterUse := []
  gw : Gateway := {}
  md : Module := {}
  deriving DecidableEq, Repr, Inhabited

/-- Why a step stops. No step of this machine does: whatever the spec lets go wrong is a trap, a status, an event or a
failure that it describes (R201, R409), and the machine goes on. -/
inductive Fault where
  /-- A step acts on a unit the module does not have. Raised by nothing: a command that names such a unit is answered
  as the spec says (R437). Safe: it would stop the machine. -/
  | noSuchUnit
  deriving DecidableEq, Repr, Inhabited

/-- Why an instruction has no meaning. -/
inductive Refusal where
  /-- An instruction without a meaning yet, raised by Dispatch. Safe: the machine stops. -/
  | notModelled (mnemonic : String)
  deriving DecidableEq, Repr, Inhabited

/-- The machine right after reset: a start begins (R424). -/
def State.reset : State := { agenda := [⟨.ref, 0, false, default, {}, .moduleStart⟩] }

end Sys2Proof.Machine
end

