-- ==== Sys2Proof/Machine/Operands.lean ====
section
/-!
DEFINITION. Operand forms: the registers an instruction reads and writes, widths and sign extensions, lane views,
immediates and targets (spec/00 R8, spec/01 R21, spec/03 R70 to R73).
-/
namespace Sys2Proof.Machine

/-- The registers that an instruction reads and writes. -/
structure RegUse where
  reads : List RegRef
  writes : List RegRef
  deriving DecidableEq, Repr, Inhabited

/-- The registers an instruction's fields name as sources and as destinations (R15, R16, R23). -/
def regUse : Instr → RegUse
  | .sysJr a => ⟨[.s a], []⟩
  | .sysCallr a => ⟨[.s a], [.s 31]⟩
  | .aluAdd d a b _ => ⟨[.s a, .s b], [.s d]⟩
  | .aluSub d a b _ => ⟨[.s a, .s b], [.s d]⟩
  | .aluAnd d a b _ => ⟨[.s a, .s b], [.s d]⟩
  | .aluOr d a b _ => ⟨[.s a, .s b], [.s d]⟩
  | .aluXor d a b _ => ⟨[.s a, .s b], [.s d]⟩
  | .aluAndn d a b _ => ⟨[.s a, .s b], [.s d]⟩
  | .aluShl d a b _ => ⟨[.s a, .s b], [.s d]⟩
  | .aluShr d a b _ => ⟨[.s a, .s b], [.s d]⟩
  | .aluSar d a b _ => ⟨[.s a, .s b], [.s d]⟩
  | .aluMul d a b _ => ⟨[.s a, .s b], [.s d]⟩
  | .aluMin d a b _ => ⟨[.s a, .s b], [.s d]⟩
  | .aluMax d a b _ => ⟨[.s a, .s b], [.s d]⟩
  | .aluMinu d a b _ => ⟨[.s a, .s b], [.s d]⟩
  | .aluMaxu d a b _ => ⟨[.s a, .s b], [.s d]⟩
  | .aluClz d a _ => ⟨[.s a], [.s d]⟩
  | .aluPopc d a _ => ⟨[.s a], [.s d]⟩
  | .aluAdds d a b _ => ⟨[.s a, .s b], [.s d]⟩
  | .aluSubs d a b _ => ⟨[.s a, .s b], [.s d]⟩
  | .aluiAdd d a _ => ⟨[.s a], [.s d]⟩
  | .aluiAnd d a _ => ⟨[.s a], [.s d]⟩
  | .aluiOr d a _ => ⟨[.s a], [.s d]⟩
  | .aluiXor d a _ => ⟨[.s a], [.s d]⟩
  | .aluiShl d a _ => ⟨[.s a], [.s d]⟩
  | .aluiShr d a _ => ⟨[.s a], [.s d]⟩
  | .aluiSar d a _ => ⟨[.s a], [.s d]⟩
  | .lui d _ => ⟨[], [.s d]⟩
  | .mdvMulh d a b _ _ => ⟨[.s a, .s b], [.s d]⟩
  | .mdvMulhu d a b _ _ => ⟨[.s a, .s b], [.s d]⟩
  | .mdvDiv d a b _ _ => ⟨[.s a, .s b], [.s d]⟩
  | .mdvDivu d a b _ _ => ⟨[.s a, .s b], [.s d]⟩
  | .mdvRem d a b _ _ => ⟨[.s a, .s b], [.s d]⟩
  | .mdvRemu d a b _ _ => ⟨[.s a, .s b], [.s d]⟩
  | .cmpEq d a b _ => ⟨[.s a, .s b], [.p d]⟩
  | .cmpNe d a b _ => ⟨[.s a, .s b], [.p d]⟩
  | .cmpLt d a b _ => ⟨[.s a, .s b], [.p d]⟩
  | .cmpGe d a b _ => ⟨[.s a, .s b], [.p d]⟩
  | .cmpLtu d a b _ => ⟨[.s a, .s b], [.p d]⟩
  | .cmpGeu d a b _ => ⟨[.s a, .s b], [.p d]⟩
  | .cmpPand d a b => ⟨[.p a, .p b], [.p d]⟩
  | .cmpPor d a b => ⟨[.p a, .p b], [.p d]⟩
  | .cmpPxor d a b => ⟨[.p a, .p b], [.p d]⟩
  | .cmpPandn d a b => ⟨[.p a, .p b], [.p d]⟩
  | .cmpiEq d a _ => ⟨[.s a], [.p d]⟩
  | .cmpiNe d a _ => ⟨[.s a], [.p d]⟩
  | .cmpiLt d a _ => ⟨[.s a], [.p d]⟩
  | .cmpiGe d a _ => ⟨[.s a], [.p d]⟩
  | .cmpiLtu d a _ => ⟨[.s a], [.p d]⟩
  | .cmpiGeu d a _ => ⟨[.s a], [.p d]⟩
  | .brT p _ => ⟨[.p p], []⟩
  | .brF p _ => ⟨[.p p], []⟩
  | .brNz a _ => ⟨[.s a], []⟩
  | .brZ a _ => ⟨[.s a], []⟩
  | .call _ => ⟨[], [.s 31]⟩
  | .loopIn a _ => ⟨[.s a], []⟩
  | .loopOut a _ => ⟨[.s a], []⟩
  | .callatSend d a b _ => ⟨[.s a, .s b, .s 1, .s 2, .s 3, .s 4], [.s d]⟩
  | .memLdB d a _ _ => ⟨[.s a], [.s d]⟩
  | .memLdH d a _ _ => ⟨[.s a], [.s d]⟩
  | .memLdW d a _ _ => ⟨[.s a], [.s d]⟩
  | .memLdD d a _ _ => ⟨[.s a], [.s d]⟩
  | .memLdI8 d a _ _ => ⟨[.s a], [.s d]⟩
  | .memLdI16 d a _ _ => ⟨[.s a], [.s d]⟩
  | .memLdI32 d a _ _ => ⟨[.s a], [.s d]⟩
  | .memLdRo d a _ _ => ⟨[.s a], [.s d]⟩
  | .memStB d a _ => ⟨[.s d, .s a], []⟩
  | .memStH d a _ => ⟨[.s d, .s a], []⟩
  | .memStW d a _ => ⟨[.s d, .s a], []⟩
  | .memStD d a _ => ⟨[.s d, .s a], []⟩
  | .atomFaa d a b _ _ => ⟨[.s a, .s b], [.s d]⟩
  | .atomSwap d a b _ _ => ⟨[.s a, .s b], [.s d]⟩
  | .atomCas d a b _ _ => ⟨[.s d, .s a, .s b], [.s d]⟩
  | .atomFand d a b _ _ => ⟨[.s a, .s b], [.s d]⟩
  | .atomFor d a b _ _ => ⟨[.s a, .s b], [.s d]⟩
  | .atomFxor d a b _ _ => ⟨[.s a, .s b], [.s d]⟩
  | .atomFmin d a b _ _ => ⟨[.s a, .s b], [.s d]⟩
  | .atomFmax d a b _ _ => ⟨[.s a, .s b], [.s d]⟩
  | .atomRsv d a _ _ => ⟨[.s a], [.s d]⟩
  | .atomRel d a b _ _ => ⟨[.s a, .s b], [.s d]⟩
  | .syncFencePart b tp => ⟨[.s b], [.p tp]⟩
  | .syncWatch a => ⟨[.s a], []⟩
  | .syncWaitw b tp _ => ⟨[.s b], [.p tp]⟩
  | .syncLdf d a b tp _ => ⟨[.s a, .s b], [.s d, .p tp]⟩
  | .syncLdfe d a b tp _ => ⟨[.s a, .s b], [.s d, .p tp]⟩
  | .syncStf d a => ⟨[.s d, .s a], []⟩
  | .syncStef d a b tp _ => ⟨[.s d, .s a, .s b], [.p tp]⟩
  | .syncClre a => ⟨[.s a], []⟩
  | .syncLwb a => ⟨[.s a], []⟩
  | .syncLinv a => ⟨[.s a], []⟩
  | .msgSend _ a b tp _ => ⟨[.s a, .s b], [.p tp]⟩
  | .msgRecv d _ b tp _ => ⟨[.s b], [.s d, .p tp]⟩
  | .msgRecvs d _ b tp _ => ⟨[.s d, .s b], [.s d, .p tp]⟩
  | .msgRecvr d _ b tp _ => ⟨[.s d, .s b], [.s d, .p tp]⟩
  | .msgPeek d _ => ⟨[], [.s d]⟩
  | .smpPost d a => ⟨[.v d, .s a], []⟩
  | .smpSample d a b tp _ => ⟨[.s a, .s b], [.v d, .p tp, .v (d + 1)]⟩
  | .smpCount d a _ => ⟨[.s a], [.s d]⟩
  | .smpWait d a b tp _ => ⟨[.s d, .s a, .s b], [.s d, .p tp]⟩
  | .smpBar d b tp _ => ⟨[.s b], [.s d, .p tp]⟩
  | .taskSpawn d a b _ => ⟨[.s a, .s b], [.s d]⟩
  | .taskPark a => ⟨[.s a], []⟩
  | .taskJoin a => ⟨[.s a], []⟩
  | .taskRetire a => ⟨[.s a], []⟩
  | .taskCancel d a b _ => ⟨[.s a, .s b], [.s d]⟩
  | .engPush d a b tp => ⟨[.v a, .s b], [.s d, .p tp]⟩
  | .engXidwait d a b tp _ => ⟨[.s a, .s b], [.s d, .p tp]⟩
  | .engJidwait d a b tp _ => ⟨[.s a, .s b], [.s d, .p tp]⟩
  | .engJidrd d a => ⟨[.s a], [.s d]⟩
  | .strmBind _ a => ⟨[.s a], []⟩
  | .strmXid d _ => ⟨[], [.s d]⟩
  | .kregRd d _ => ⟨[], [.s d]⟩
  | .kregWr a _ => ⟨[.s a], []⟩
  | .kregSet a _ => ⟨[.s a], []⟩
  | .kregClr a _ => ⟨[.s a], []⟩
  | .vmemLdV d a _ _ => ⟨[.s a], [.v d]⟩
  | .vmemLdSw d a _ _ => ⟨[.s a], [.v d]⟩
  | .vmemLdSd d a _ _ => ⟨[.s a], [.v d]⟩
  | .vmemLdRo d a _ _ => ⟨[.s a], [.v d]⟩
  | .vmemStV d a _ => ⟨[.v d, .s a], []⟩
  | .vmemStW d a _ => ⟨[.v d, .s a], []⟩
  | .vmemStD d a _ => ⟨[.v d, .s a], []⟩
  | .valuAdd d a b _ _ => ⟨[.v a, .v b], [.v d]⟩
  | .valuSub d a b _ _ => ⟨[.v a, .v b], [.v d]⟩
  | .valuAdds d a b _ _ => ⟨[.v a, .v b], [.v d]⟩
  | .valuSubs d a b _ _ => ⟨[.v a, .v b], [.v d]⟩
  | .valuMul d a b _ _ => ⟨[.v a, .v b], [.v d]⟩
  | .valuMulh d a b _ _ => ⟨[.v a, .v b], [.v d]⟩
  | .valuMin d a b _ _ => ⟨[.v a, .v b], [.v d]⟩
  | .valuMax d a b _ _ => ⟨[.v a, .v b], [.v d]⟩
  | .valuAnd d a b _ _ => ⟨[.v a, .v b], [.v d]⟩
  | .valuOr d a b _ _ => ⟨[.v a, .v b], [.v d]⟩
  | .valuXor d a b _ _ => ⟨[.v a, .v b], [.v d]⟩
  | .valuShl d a b _ _ => ⟨[.v a, .v b], [.v d]⟩
  | .valuShr d a b _ _ => ⟨[.v a, .v b], [.v d]⟩
  | .valuCeq d a b _ _ => ⟨[.v a, .v b], [.v d]⟩
  | .valuClt d a b _ _ => ⟨[.v a, .v b], [.v d]⟩
  | .vfltAdd d a b _ => ⟨[.v a, .v b], [.v d]⟩
  | .vfltSub d a b _ => ⟨[.v a, .v b], [.v d]⟩
  | .vfltMul d a b _ => ⟨[.v a, .v b], [.v d]⟩
  | .vfltFma d a b _ => ⟨[.v d, .v a, .v b], [.v d]⟩
  | .vfltFnma d a b _ => ⟨[.v d, .v a, .v b], [.v d]⟩
  | .vfltDiv d a b _ _ => ⟨[.v a, .v b], [.v d]⟩
  | .vfltSqrt d a _ _ => ⟨[.v a], [.v d]⟩
  | .vfltMin d a b => ⟨[.v a, .v b], [.v d]⟩
  | .vfltMax d a b => ⟨[.v a, .v b], [.v d]⟩
  | .vfltAbs d a => ⟨[.v a], [.v d]⟩
  | .vfltNeg d a => ⟨[.v a], [.v d]⟩
  | .vfltCeq d a b => ⟨[.v a, .v b], [.v d]⟩
  | .vfltClt d a b => ⟨[.v a, .v b], [.v d]⟩
  | .vfltCle d a b => ⟨[.v a, .v b], [.v d]⟩
  | .vcvtToi d a _ => ⟨[.v a], [.v d]⟩
  | .vcvtTon d a _ => ⟨[.v a], [.v d]⟩
  | .vcvtFri d a _ => ⟨[.v a], [.v d]⟩
  | .vcvtFrn d a _ => ⟨[.v a], [.v d]⟩
  | .vcvtTox d a _ => ⟨[.v a], [.v d]⟩
  | .vcvtPkh d a b _ => ⟨[.v a, .v b], [.v d]⟩
  | .vcvtPkb d a b _ => ⟨[.v a, .v b], [.v d]⟩
  | .vcvtUplh d a => ⟨[.v a], [.v d]⟩
  | .vcvtUphh d a => ⟨[.v a], [.v d]⟩
  | .vcvtUplb d a => ⟨[.v a], [.v d]⟩
  | .vcvtUphb d a => ⟨[.v a], [.v d]⟩
  | .vcvtEnc8 d a _ => ⟨[.v a], [.v d]⟩
  | .vcvtEnc4 d a _ => ⟨[.v a], [.v d]⟩
  | .vcvtDec d a _ => ⟨[.v a], [.v d]⟩
  | .vcvtTload a _ _ => ⟨[.s a], []⟩
  | .vredFadd d a _ => ⟨[.v a], [.s d]⟩
  | .vredFmax d a => ⟨[.v a], [.s d]⟩
  | .vredFmin d a => ⟨[.v a], [.s d]⟩
  | .vredAdd d a _ _ => ⟨[.v a], [.s d]⟩
  | .vredMax d a _ _ => ⟨[.v a], [.s d]⟩
  | .vredMin d a _ _ => ⟨[.v a], [.s d]⟩
  | .vredAnd d a => ⟨[.v a], [.s d]⟩
  | .vredOr d a => ⟨[.v a], [.s d]⟩
  | .vredXor d a => ⟨[.v a], [.s d]⟩
  | .vmovMov d a => ⟨[.v a], [.v d]⟩
  | .vmovSplat d a _ => ⟨[.s a], [.v d]⟩
  | .vmovIns d a b _ => ⟨[.v d, .s a, .s b], [.v d]⟩
  | .vmovExt d a b _ => ⟨[.v a, .s b], [.s d]⟩
  | .vmovExtu d a b _ => ⟨[.v a, .s b], [.s d]⟩
  | .vmovPerm d a b _ => ⟨[.v a, .v b], [.v d]⟩
  | .vmovSlup d a b _ => ⟨[.v a, .s b], [.v d]⟩
  | .vmovSldn d a b _ => ⟨[.v a, .s b], [.v d]⟩
  | .vmovSel d a b => ⟨[.v d, .v a, .v b], [.v d]⟩
  | .vmovAny d a => ⟨[.v a], [.p d]⟩
  | .vmovAll d a _ => ⟨[.v a], [.p d]⟩
  | _ => ⟨[], []⟩

/-- ZX(x, 64) (R8). -/
def zx {n : Nat} (x : BitVec n) : Word := x.setWidth 64
/-- SX(x, 64) (R8). -/
def sx {n : Nat} (x : BitVec n) : Word := x.signExtend 64

/-- The operand width of alu, mdv and cmp (R97). -/
def wdSize : Wd → Nat
  | .d => 64
  | .w => 32

/-- Sat(v, lo, hi) to the signed range of w bits (R8, R36). -/
def satS (w : Nat) (v : Int) : BitVec w :=
  let hi : Int := 2 ^ (w - 1) - 1
  let lo : Int := -(2 ^ (w - 1))
  BitVec.ofInt w (if v < lo then lo else if hi < v then hi else v)
/-- Sat to the unsigned range of w bits. -/
def satU (w : Nat) (v : Int) : BitVec w :=
  let hi : Int := 2 ^ w - 1
  BitVec.ofInt w (if v < 0 then 0 else if hi < v then hi else v)

/-- Lane width in bits (R142, R153). -/
def laneSize : LaneW → Nat
  | .b => 8
  | .h => 16
  | .w => 32
  | .d => 64

/-- Lane i of width w (R21). -/
def lane (w : Nat) (v : V256) (i : Nat) : BitVec w := v.extractLsb' (w * i) w

/-- The vector whose lane i of width w is `f i`, from a list of lanes, lane 0 first. -/
def ofLanes (w : Nat) (ls : List (BitVec w)) : V256 :=
  ls.foldr (fun x acc => (acc <<< w) ||| x.setWidth 256) 0

/-- Applies a function to every lane index of width w (R137). -/
def mapLanes (w : Nat) (f : Nat → BitVec w) : V256 := ofLanes w ((List.range (256 / w)).map f)

/-- The target of a B-format or J-format transfer at code offset `pc` (R72). -/
def relTarget {n : Nat} (pc : Word) (off : BitVec n) : Word := pc + 4 + (sx off <<< 2)

/-- A memory operand: s[a] + SX(off9, 64) × size (R71). -/
def effAddr (base : Word) (off : BitVec 9) (size : Nat) : Word := base + sx off * BitVec.ofNat 64 size

/-! ## Tile-map addresses (R57) -/

/-- The top byte: 0xF0 a tile-map address, 0x00 global memory. -/
def topByte (a : Word) : BitVec 8 := a.extractLsb' 56 8
def isGlobal (a : Word) : Bool := topByte a == 0
def isTileMap (a : Word) : Bool := topByte a == 0xF0
/-- Bits [46:34]: the tile identifier of R25. -/
def amTile (a : Word) : Nat := (a.extractLsb' 34 13).toNat
def amCore (a : Word) : Fin 8 := (a.extractLsb' 31 3).toFin
def amKind (a : Word) : Nat := (a.extractLsb' 27 4).toNat
def amOff (a : Word) : Nat := (a.extractLsb' 0 27).toNat
/-- Reserved bits [55:47] are 0 and y is at most 19 (R57). -/
def amFormOk (a : Word) : Bool := a.extractLsb' 47 9 == 0 && (a.extractLsb' 39 5).toNat < 20
/-- The tile-map address of byte o of kind k of core c of a tile (R57). -/
def amAddr (tile : Nat) (c : Fin 8) (k o : Nat) : Word :=
  0xF000_0000_0000_0000 + BitVec.ofNat 64 (tile % 0x2000) <<< 34 + BitVec.ofNat 64 c.val <<< 31
    + BitVec.ofNat 64 k <<< 27 + BitVec.ofNat 64 o

/-- Bit index of `y` (k mod 2^n) of a word as a truth value. -/
def bitOf (x : Word) (k : Nat) : Bool := x.getLsbD k

end Sys2Proof.Machine
end

