-- ==== Sys2Proof/Machine/Flags.lean ====
section
/-!
DEFINITION. Number formats and every flag computation (spec/02 R36 to R56, spec/05 R144 to R151): floating-point values
as exact numbers, one rounding for every format, conversions, decode tables and W128 accumulators.
-/
namespace Sys2Proof.Machine

/-! ## Flags (R28, R42): NV, DZ, OF, UF, NX in bits 4 to 0 -/

def flagNV : BitVec 5 := 16
def flagDZ : BitVec 5 := 8
def flagOF : BitVec 5 := 4
def flagUF : BitVec 5 := 2
def flagNX : BitVec 5 := 1

/-- The rounding modes of R40. -/
inductive RM where
  | rne
  | rtz
  | rdn
  | rup
  deriving DecidableEq, Repr, Inhabited

/-- The mode of k.frm (R29). -/
def RM.ofBits (x : BitVec 2) : RM :=
  if x = 0 then .rne else if x = 1 then .rtz else if x = 2 then .rdn else .rup

/-- RM(f) (R8): the instruction's mode, or k.frm when f selects the dynamic mode. -/
def rmOf (r : RoundSel) (frm : BitVec 2) : RM :=
  match r with
  | .rne => .rne
  | .rtz => .rtz
  | .rdn => .rdn
  | .rup => .rup
  | .dyn => RM.ofBits frm

/-! ## Formats (R37, R38) -/

/-- A floating-point format: exponent bits and fraction bits; the bias is 2^(eb - 1) - 1. -/
structure FFmt where
  eb : Nat
  fb : Nat
  deriving DecidableEq, Repr, Inhabited

def f32F : FFmt := ⟨8, 23⟩
def f16F : FFmt := ⟨5, 10⟩
def b16F : FFmt := ⟨8, 7⟩
def x19F : FFmt := ⟨8, 10⟩

def FFmt.bias (f : FFmt) : Int := 2 ^ (f.eb - 1) - 1
/-- Precision p = fraction bits + 1. -/
def FFmt.prec (f : FFmt) : Nat := f.fb + 1
def FFmt.emin (f : FFmt) : Int := 1 - f.bias
def FFmt.emax (f : FFmt) : Int := f.bias
def FFmt.expMax (f : FFmt) : Nat := 2 ^ f.eb - 1
/-- The canonical NaN of a format (R39): positive, quiet, fraction otherwise 0. -/
def FFmt.nan (f : FFmt) : Nat := f.expMax * 2 ^ f.fb + 2 ^ (f.fb - 1)

/-- The exact value of a pattern: (-1)^neg × m × 2^e, an infinity or a NaN (R37, R38). -/
inductive FVal where
  | nan (sig : Bool)
  | inf (neg : Bool)
  | fin (neg : Bool) (m : Nat) (e : Int)
  deriving DecidableEq, Repr, Inhabited

/-- The value of a pattern (R37, R38). -/
def unpackF (f : FFmt) (x : Nat) : FVal :=
  let frac := x % 2 ^ f.fb
  let ex := x / 2 ^ f.fb % 2 ^ f.eb
  let neg := x / 2 ^ (f.fb + f.eb) % 2 == 1
  if ex = f.expMax then
    if frac = 0 then .inf neg else .nan (frac / 2 ^ (f.fb - 1) == 0)
  else if ex = 0 then .fin neg frac (f.emin - f.fb)
  else .fin neg (2 ^ f.fb + frac) ((ex : Int) - f.bias - f.fb)

def signBit (f : FFmt) (neg : Bool) : Nat := if neg then 2 ^ (f.fb + f.eb) else 0
def infBits (f : FFmt) (neg : Bool) : Nat := signBit f neg + f.expMax * 2 ^ f.fb
def zeroBits (f : FFmt) (neg : Bool) : Nat := signBit f neg

/-- Chooses between the neighbours of a magnitude hi + rem/2^k (R40 step 2); `sticky` adds less than one unit of rem. -/
def roundsUp (rm : RM) (neg : Bool) (hi rem half : Nat) (sticky : Bool) : Bool :=
  match rm with
  | .rne => half < rem || (rem == half && (sticky || hi % 2 == 1))
  | .rtz => false
  | .rdn => neg && (rem != 0 || sticky)
  | .rup => !neg && (rem != 0 || sticky)

/-- m × 2^e (plus a sticky part) rounded to a multiple of 2^q: multiple and inexactness. -/
def roundAt (rm : RM) (neg : Bool) (m : Nat) (e q : Int) (sticky : Bool) : Nat × Bool :=
  if q ≤ e then (m * 2 ^ (e - q).toNat, sticky)
  else
    let k := (q - e).toNat
    let hi := m / 2 ^ k
    let rem := m % 2 ^ k
    let up := roundsUp rm neg hi rem (2 ^ (k - 1)) sticky
    (if up then hi + 1 else hi, rem != 0 || sticky)

/-- Round(v, fmt, rm) of R40 and R41 for v = (-1)^neg × (m + sticky) × 2^e, m ≠ 0 unless v = 0; the flags of R42. -/
def roundF (f : FFmt) (rm : RM) (neg : Bool) (m : Nat) (e : Int) (sticky : Bool := false) : Nat × BitVec 5 :=
  if m = 0 then (zeroBits f neg, 0)
  else
    let top := e + m.log2 + 1
    let qn := top - f.prec
    let q := max qn (f.emin - f.fb)
    let (r, inexact) := roundAt rm neg m e q sticky
    -- tiny: rounded with the exponent range unbounded, the magnitude is below 2^emin (R42 UF)
    let rn := (roundAt rm neg m e qn sticky).1
    let tiny := decide ((if rn = 2 ^ f.prec then qn + f.prec + 1 else qn + f.prec) ≤ f.emin)
    let (r, q) := if r = 2 ^ f.prec then (2 ^ f.fb, q + 1) else (r, q)
    if f.emax < q + f.fb ∧ 2 ^ f.fb ≤ r then
      let toInf := match rm with
        | .rne => true
        | .rtz => false
        | .rdn => neg
        | .rup => !neg
      (if toInf then infBits f neg else infBits f neg - 1, flagOF ||| flagNX)
    else
      let bits := if r < 2 ^ f.fb then r else (q + f.fb + f.bias).toNat * 2 ^ f.fb + (r - 2 ^ f.fb)
      (signBit f neg + bits, if inexact then (if tiny then flagUF ||| flagNX else flagNX) else 0)

/-- A finite exact value as a multiple of 2^e. -/
def finInt (neg : Bool) (m : Nat) (e e0 : Int) : Int :=
  let v : Int := m * 2 ^ (e - e0).toNat
  if neg then -v else v

/-- Rounds an exact integer multiple of 2^e; a zero takes the given sign. -/
def roundInt (f : FFmt) (rm : RM) (v : Int) (e : Int) (zneg : Bool) : Nat × BitVec 5 :=
  if v = 0 then (zeroBits f zneg, 0) else roundF f rm (v < 0) v.natAbs e

def FVal.isNan : FVal → Bool
  | .nan _ => true
  | _ => false
def FVal.isSig : FVal → Bool
  | .nan sg => sg
  | _ => false
def FVal.neg : FVal → FVal
  | .nan sg => .nan sg
  | .inf n => .inf !n
  | .fin n m e => .fin (!n) m e

/-- NV when an operand is a signalling NaN (R42). -/
def sigFlag (vs : List FVal) : BitVec 5 := if vs.any FVal.isSig then flagNV else 0

/-- The canonical NaN with the invalid flag. -/
def invalidF (f : FFmt) : Nat × BitVec 5 := (f.nan, flagNV)

/-! ## FP32 lane operations (R145 to R147) -/

/-- The exact sum of two values, rounded once. -/
def addV (f : FFmt) (rm : RM) (x y : FVal) : Nat × BitVec 5 :=
  match x, y with
  | .nan _, _ => (f.nan, sigFlag [x, y])
  | _, .nan _ => (f.nan, sigFlag [x, y])
  | .inf a, .inf b => if a = b then (infBits f a, 0) else invalidF f
  | .inf a, .fin _ _ _ => (infBits f a, 0)
  | .fin _ _ _, .inf b => (infBits f b, 0)
  | .fin na ma ea, .fin nb mb eb =>
    let e0 := min ea eb
    let zneg := if na = nb then na else rm = .rdn
    roundInt f rm (finInt na ma ea e0 + finInt nb mb eb e0) e0 zneg

/-- The exact product: a value (never a NaN here unless 0 × ∞, answered by none). -/
def mulV : FVal → FVal → Option FVal
  | .nan _, _ => none
  | _, .nan _ => none
  | .inf a, .inf b => some (.inf (a != b))
  | .inf a, .fin b m _ => if m = 0 then none else some (.inf (a != b))
  | .fin a m _, .inf b => if m = 0 then none else some (.inf (a != b))
  | .fin a m e, .fin b m' e' => some (.fin (a != b) (m * m') (e + e'))

def fadd (rm : RM) (x y : Nat) : Nat × BitVec 5 := addV f32F rm (unpackF f32F x) (unpackF f32F y)
def fsub (rm : RM) (x y : Nat) : Nat × BitVec 5 := addV f32F rm (unpackF f32F x) (unpackF f32F y).neg

def fmul (rm : RM) (x y : Nat) : Nat × BitVec 5 :=
  let a := unpackF f32F x
  let b := unpackF f32F y
  if a.isNan || b.isNan then (f32F.nan, sigFlag [a, b])
  else match mulV a b with
    | none => invalidF f32F
    | some (.fin n m e) => roundF f32F rm n m e
    | some (.inf n) => (infBits f32F n, 0)
    | some (.nan _) => invalidF f32F

/-- Round(z + x × y), rounded once; `sub` gives Round(z - x × y) (R145). -/
def ffma (sub : Bool) (rm : RM) (x y z : Nat) : Nat × BitVec 5 :=
  let a := unpackF f32F x
  let b := unpackF f32F y
  let c := unpackF f32F z
  let sg := sigFlag [a, b, c]
  match a.isNan || b.isNan, mulV a b with
  | false, none => (f32F.nan, flagNV ||| sg)
  | true, _ => (f32F.nan, sg)
  | false, some p =>
    if c.isNan then (f32F.nan, sg)
    else addV f32F rm (if sub then p.neg else p) c

def fdiv (rm : RM) (x y : Nat) : Nat × BitVec 5 :=
  let a := unpackF f32F x
  let b := unpackF f32F y
  match a, b with
  | .nan _, _ => (f32F.nan, sigFlag [a, b])
  | _, .nan _ => (f32F.nan, sigFlag [a, b])
  | .inf _, .inf _ => invalidF f32F
  | .inf na, .fin nb _ _ => (infBits f32F (na != nb), 0)
  | .fin na _ _, .inf nb => (zeroBits f32F (na != nb), 0)
  | .fin na ma ea, .fin nb mb eb =>
    if mb = 0 then (if ma = 0 then invalidF f32F else (infBits f32F (na != nb), flagDZ))
    else if ma = 0 then (zeroBits f32F (na != nb), 0)
    else
      let n := ma * 2 ^ 64
      roundF f32F rm (na != nb) (n / mb) (ea - eb - 64) (n % mb != 0)

/-- The integer square root by bits, from bit k down. -/
def isqrt (n : Nat) : Nat → Nat → Nat
  | 0, r => r
  | k + 1, r => if (r + 2 ^ k) * (r + 2 ^ k) ≤ n then isqrt n k (r + 2 ^ k) else isqrt n k r

def fsqrt (rm : RM) (x : Nat) : Nat × BitVec 5 :=
  let a := unpackF f32F x
  match a with
  | .nan _ => (f32F.nan, sigFlag [a])
  | .inf true => invalidF f32F
  | .inf false => (infBits f32F false, 0)
  | .fin n m e =>
    if m = 0 then (zeroBits f32F n, 0)
    else if n then invalidF f32F
    else
      let (m1, e1) := if e % 2 = 0 then (m, e) else (2 * m, e - 1)
      let big := m1 * 2 ^ 64
      let r := isqrt big 48 0
      roundF f32F rm false r (e1 / 2 - 32) (r * r != big)

/-- A finite or infinite value in units of 2^-149, the infinities beyond every finite value (exact comparison). -/
def FVal.scaled : FVal → Int
  | .nan _ => 0
  | .inf n => if n then -(2 ^ 400) else 2 ^ 400
  | .fin n m e => finInt n m e (-149)

/-- The order that min and max use: as the values, with -0 below +0 (R146). -/
def orderKey (x : Nat) : Int := if x / 2 ^ 31 % 2 = 1 then -((x % 2 ^ 31 : Nat) : Int) - 1 else ((x % 2 ^ 31 : Nat) : Int)

/-- min and max of R146. -/
def fminmax (isMax : Bool) (x y : Nat) : Nat × BitVec 5 :=
  let a := unpackF f32F x
  let b := unpackF f32F y
  if a.isSig || b.isSig then (f32F.nan, flagNV)
  else if a.isNan && b.isNan then (f32F.nan, 0)
  else if a.isNan then (y, 0)
  else if b.isNan then (x, 0)
  else if decide (orderKey x ≤ orderKey y) == isMax then (y, 0) else (x, 0)

/-- The comparisons of R146. -/
inductive FCmp where
  | ceq
  | clt
  | cle
  deriving DecidableEq, Repr, Inhabited

def fcmp (c : FCmp) (x y : Nat) : Bool × BitVec 5 :=
  let a := unpackF f32F x
  let b := unpackF f32F y
  if a.isNan || b.isNan then
    (false, if c = .ceq then sigFlag [a, b] else flagNV)
  else match c with
    | .ceq => (a.scaled == b.scaled, 0)
    | .clt => (decide (a.scaled < b.scaled), 0)
    | .cle => (decide (a.scaled ≤ b.scaled), 0)

/-! ## Conversions (R43 to R45, R151) -/

/-- Round of a value to another format; a NaN gives the canonical NaN (R39, R44). -/
def convF (f : FFmt) (rm : RM) (v : FVal) : Nat × BitVec 5 :=
  match v with
  | .nan sg => (f.nan, if sg then flagNV else 0)
  | .inf n => (infBits f n, 0)
  | .fin n m e => roundF f rm n m e

/-- FP32 to a format. -/
def fromF32 (f : FFmt) (rm : RM) (x : Nat) : Nat × BitVec 5 := convF f rm (unpackF f32F x)
/-- A format to FP32, exact but for NaN (R44, R151). -/
def toF32 (f : FFmt) (x : Nat) : Nat × BitVec 5 := convF f32F .rne (unpackF f x)
/-- The FP32 container of an X19 pattern (R43). -/
def container (x : BitVec 19) : W32 := x ++ 0#13
/-- An X19 pattern read from its container (R43). -/
def ofContainer (x : W32) : BitVec 19 := x.extractLsb' 13 19

/-- Conversion to an integer type with bounds lo and hi (R45). -/
def toIntF (rm : RM) (lo hi : Int) (x : Nat) : Int × BitVec 5 :=
  match unpackF f32F x with
  | .nan _ => (0, flagNV)
  | .inf n => (if n then lo else hi, flagNV)
  | .fin n m e =>
    let (r, inexact) := if e < 0 then roundAt rm n m e 0 false else (m * 2 ^ e.toNat, false)
    let v : Int := if n then -(r : Int) else r
    if v < lo then (lo, flagNV) else if hi < v then (hi, flagNV) else (v, if inexact then flagNX else 0)

/-! ## Decode tables (R46 to R48) -/

/-- Entry of a table; an entry not listed is +0 (R46). -/
def tabEntry (t : KMap (BitVec 19)) (c : Nat) : BitVec 19 := t.getD c 0
def entryVal (x : BitVec 19) : FVal := unpackF x19F x.toNat
/-- Position of an entry in the value order: by value, -0 before +0 (R47). -/
def entryKey (x : BitVec 19) : Int :=
  let mag : Int := (x.toNat % 2 ^ 18 : Nat)
  if x.getLsbD 18 then -mag - 1 else mag

/-- The better of two codes under a strict preference on keys; the lower code stays on equal patterns (R47). -/
def pickCode (t : KMap (BitVec 19)) (better : Int → Int → Bool) (best : Option Nat) (c : Nat) : Option Nat :=
  match best with
  | none => some c
  | some b => if better (entryKey (tabEntry t c)) (entryKey (tabEntry t b)) then some c else some b

/-- The first or last code of the value order that meets a condition on its entry. -/
def orderPick (t : KMap (BitVec 19)) (n : Nat) (last : Bool) (ok : BitVec 19 → Bool) : Option Nat :=
  (List.range n).foldl (fun best c =>
    let x := tabEntry t c
    if !(entryVal x).isNan && ok x then
      pickCode t (fun a b => if last then decide (b < a) else decide (a < b)) best c
    else best) none

/-- The table's NaN code: the lowest code whose entry is a NaN, else 0x80 or 0x8 (R47). -/
def nanCode (t : KMap (BitVec 19)) (n : Nat) : Nat :=
  (((List.range n).find? fun c => (entryVal (tabEntry t c)).isNan)).getD (n / 2)

/-- A value in units of 2^u; an infinity counts as 2^1000 of them, beyond every finite value (DESIGN CHOICE: R48 gives no distance to
an infinity, by which the nearer neighbour could be told; log 92). -/
def FVal.inUnits (u : Int) : FVal → Int
  | .nan _ => 0
  | .inf n => if n then -(2 ^ 1000) else 2 ^ 1000
  | .fin n m e => finInt n m e u

def FVal.isNeg : FVal → Bool
  | .nan _ => false
  | .inf n => n
  | .fin n _ _ => n

/-- Encode(x, rm) of R48 for a table of n entries; x and the entries are multiples of 2^u. Of two neighbours of one magnitude, under
RTZ and on a tie of RNE with equal bits 0, lo is taken (DESIGN CHOICE: R48 says only the smaller one; log 92). -/
def encodeVal (t : KMap (BitVec 19)) (n : Nat) (rm : RM) (xv : FVal) (u : Int) : Nat × BitVec 5 :=
  let xneg := xv.isNeg
  let sv := xv.inUnits u
  let val (c : Nat) : Int := (entryVal (tabEntry t c)).inUnits u
  if xv.isNan then (nanCode t n, flagNV)
  else match orderPick t n false (fun _ => true), orderPick t n true (fun _ => true) with
  | some first, some lastC =>
    let isZ (neg : Bool) (e : BitVec 19) : Bool := e.toNat % 2 ^ 18 == 0 && e.getLsbD 18 == neg
    let zero := if sv = 0 then
        (orderPick t n false (isZ xneg)).orElse fun _ => orderPick t n false (isZ !xneg)
      else none
    match zero with
    | some c => (c, 0)
    | none =>
      match orderPick t n true (fun e => decide ((entryVal e).inUnits u ≤ sv)),
            orderPick t n false (fun e => decide (sv ≤ (entryVal e).inUnits u)) with
      | some lo, some hi =>
        if val lo = sv then (lo, 0)
        else
          let dl := sv - val lo
          let dh := val hi - sv
          let smaller := if (val lo).natAbs ≤ (val hi).natAbs then lo else hi
          let c := match rm with
            | .rne => if dl < dh then lo else if dh < dl then hi
                else if lo % 2 = hi % 2 then smaller else if lo % 2 = 0 then lo else hi
            | .rtz => smaller
            | .rdn => lo
            | .rup => hi
          (c, if val c = 0 then flagUF ||| flagNX else flagNX)
      | lo, _ =>
        let c := (orderPick t n (!xneg) (fun e => e.getLsbD 18 == xneg)).getD (if lo.isNone then first else lastC)
        (c, if val c = sv then flagOF else flagOF ||| flagNX)
  | _, _ => (nanCode t n, flagNV ||| flagNX)

/-- Encode of an FP32 pattern (R48). -/
def encodeTab (t : KMap (BitVec 19)) (n : Nat) (rm : RM) (x : Nat) : Nat × BitVec 5 :=
  encodeVal t n rm (unpackF f32F x) (-149)

/-! ## W128 accumulators (R52 to R56) -/

/-- The sticky flags of a W128 region or quad: OV, NV, NX in bits 0, 1, 2 (R52). -/
structure WFlags where
  ov : Bool := false
  nv : Bool := false
  nx : Bool := false
  deriving DecidableEq, Repr, Inhabited

def WFlags.or (a b : WFlags) : WFlags := ⟨a.ov || b.ov, a.nv || b.nv, a.nx || b.nx⟩

/-- Sat to the range of a 128-bit two's-complement integer. -/
def sat128 (v : Int) : Int := if v < -(2 ^ 127) then -(2 ^ 127) else if 2 ^ 127 - 1 < v then 2 ^ 127 - 1 else v

/-- W128Add(I, x, E) (R53): the new accumulator and the sticky flags it sets. -/
def w128Add (i : Int) (x : FVal) (ex : Int) : Int × WFlags :=
  match x with
  | .nan _ => (i, ⟨false, true, false⟩)
  | .inf n =>
    (sat128 (i + (if n then -(2 ^ 127) else 2 ^ 127 - 1)), ⟨true, false, false⟩)
  | .fin n m e =>
    let k := e - ex
    let mag : Nat := if 0 ≤ k then m * 2 ^ k.toNat else m / 2 ^ (-k).toNat
    let lost := if 0 ≤ k then false else m % 2 ^ (-k).toNat != 0
    let q0 : Int := if n then -(mag : Int) else mag
    let q := sat128 q0
    let s := i + q
    (sat128 s, ⟨q != q0 || sat128 s != s, false, lost⟩)

/-- An integer addend as an exact value (R53). -/
def intVal (v : Int) : FVal := .fin (v < 0) v.natAbs 0

/-- Reading an accumulator back in a format: Round(I × 2^E) (R56). -/
def w128Read (f : FFmt) (rm : RM) (i ex : Int) : Nat × BitVec 5 := roundInt f rm i ex false

end Sys2Proof.Machine
end

