-- ==== Sys2Proof/Machine/Ops.lean ====
section
/-!
DEFINITION. The named operations over the state that every meaning uses: reaching tiles, cores and threads, reading and
writing registers, the agenda, taking an exception and returning from one (R19, R117), advancing past an instruction
with the hardware loops (R107 to R112), and issuing an instruction (R15 to R17, R23, R155, R183).
-/
namespace Sys2Proof.Machine

/-- The outcome of a step of this machine. -/
abbrev Out := Host.Outcome State Fault Refusal

/-! ## Reaching the parts of the machine -/

def State.tile (s : State) (t : Nat) : Tile := s.tiles.getD t {}
def State.modTile (s : State) (t : Nat) (f : Tile → Tile) : State :=
  { s with tiles := s.tiles.set t (f (s.tile t)) }
def State.core (s : State) (t : Nat) (c : Fin 8) : Core := (s.tile t).cores[c]
def Tile.modCore (x : Tile) (c : Fin 8) (f : Core → Core) : Tile := { x with cores := x.cores.set c (f x.cores[c]) }
def State.modCore (s : State) (t : Nat) (c : Fin 8) (f : Core → Core) : State := s.modTile t fun x => x.modCore c f
def Core.modThread (x : Core) (h : Fin 16) (f : Thread → Thread) : Core :=
  { x with threads := x.threads.set h (f x.threads[h]) }
def State.thread (s : State) (r : ThreadRef) : Thread := (s.core r.tile r.core).threads[r.thr]
def State.modThread (s : State) (r : ThreadRef) (f : Thread → Thread) : State :=
  s.modCore r.tile r.core fun c => c.modThread r.thr f
/-- The thread whose instruction is executed. -/
def State.th (s : State) : Thread := s.thread s.cur
def State.modTh (s : State) (f : Thread → Thread) : State := s.modThread s.cur f

/-- The deck of a tile identifier (R25). -/
def deckOf (tile : Nat) : Fin 8 := ⟨tile / 1024 % 8, Nat.mod_lt _ (by decide)⟩
/-- The tile cycle number n of a tile (R10). -/
def State.now (s : State) (tile : Nat) : Nat := s.decks[deckOf tile].tcyc

/-- The launch of a tile; the default where none runs. -/
def State.launch (s : State) (tile : Nat) : Launch := (s.tile tile).launch.getD {}

/-- Takes the next free value number (log 3). -/
def State.takeFresh (s : State) : Nat × State := (s.fresh, { s with fresh := s.fresh + 1 })

/-! ## The agenda (log 1) -/

/-- Schedules a step of a tile's clock `d` cycles from now. -/
def State.atTile (s : State) (tile d : Nat) (i : Instr) (cur : ThreadRef := ⟨tile, 0, 0⟩) (arg : Args := {})
    (late : Bool := false) : State :=
  { s with agenda := s.agenda ++ [⟨.deck (deckOf tile), s.now tile + d, late, cur, arg, i⟩] }

/-- Schedules a step of the reference clock `d` ticks from now. -/
def State.atRef (s : State) (d : Nat) (i : Instr) (cur : ThreadRef := default) (arg : Args := {}) : State :=
  { s with agenda := s.agenda ++ [⟨.ref, s.clock + d, false, cur, arg, i⟩] }

/-! ## Registers (R21) -/

/-- s[r]; s0 reads zero. -/
def Thread.getS (t : Thread) (r : SReg) : Word := if r = 0 then 0 else t.s[r.toFin]
/-- s[r] ← x; a write of s0 is ignored. -/
def Thread.setS (t : Thread) (r : SReg) (x : Word) : Thread :=
  if r = 0 then t else { t with s := t.s.set r.toFin x }
def Thread.getV (t : Thread) (r : VReg) : V256 := t.v[r.toFin]
def Thread.setV (t : Thread) (r : VReg) (x : V256) : Thread := { t with v := t.v.set r.toFin x }
/-- p[r]; p0 reads 1. -/
def Thread.getP (t : Thread) (r : PReg) : Bool := if r = 0 then true else t.p[r.toFin]
/-- SetPred (R8): p0 ignores writes. -/
def Thread.setP (t : Thread) (r : PReg) (b : Bool) : Thread :=
  if r = 0 then t else { t with p := t.p.set r.toFin b }
/-- ORs flags into k.fflags (R28). -/
def Thread.addFlags (t : Thread) (f : BitVec 5) : Thread := { t with fflags := t.fflags ||| f }

/-- The format code of a tensor shape record (R209). -/
def shapeFmt (x : BitVec 512) : Nat := (x.extractLsb' 64 8).toNat

/-- One FP32 word converted for storage in a format of R211 (R48, R58, R222): the stored code and its flags. -/
def storeElem (t8 t4 : KMap (BitVec 19)) (fmt : Nat) (rm : RM) (x : Nat) : Nat × BitVec 5 :=
  match fmt with
  | 1 => encodeTab t8 256 rm x
  | 2 => encodeTab t4 16 rm x
  | 3 => fromF32 f16F rm x
  | 4 => fromF32 b16F rm x
  | _ => (x, 0)

/-- Bits that an element of a format takes (R211). -/
def fmtBits (fmt : Nat) : Nat :=
  match fmt with
  | 2 | 6 => 4
  | 3 | 4 => 16
  | 7 => 32
  | 8 => 128
  | _ => 8

/-- A datum of an output stream as the elements to store, packed from the low bits on, with their flags (R222). -/
def strmEncode (t8 t4 : KMap (BitVec 19)) (fmt : Nat) (rm : RM) (x : V256) : V256 × BitVec 5 :=
  if fmt = 0 ∨ fmt = 7 ∨ fmt = 8 then (x, 0)
  else
    let es := (List.range 8).map fun i => storeElem t8 t4 fmt rm (x.toNat / 2 ^ (32 * i) % 2 ^ 32)
    (BitVec.ofNat 256 (es.foldr (fun e acc => e.1 + 2 ^ fmtBits fmt * acc) 0), es.foldl (fun f e => f ||| e.2) 0)

/-- Appends a value to an output stream: converted under the mode of the bind, its flags set now (R156, R222), with the table that the
core holds when the writing instruction completes (DESIGN CHOICE: no rule says which; log 99). -/
def Thread.push (t : Thread) (c : Core) (r : VReg) (x : V256) : Thread :=
  match t.binds.get? r.toNat with
  | some b =>
    if b.out then
      let (y, fl) := strmEncode c.t8 c.t4 (shapeFmt b.shape) (RM.ofBits b.frm) x
      ({ t with binds := t.binds.set r.toNat { b with buf := b.buf ++ [(y, 0)] } } : Thread).addFlags fl
    else t
  | none => t

/-- Delivers a long-latency result (R15); a write of an output stream is appended to it (R23, R156). `c` gives the core's
tables. -/
def Thread.deliver (t : Thread) (c : Core) (w : Writes) : Thread :=
  let t := w.s.foldl (fun t (r, x) => t.setS r x) t
  let t := w.v.foldl (fun t (r, x) => t.setV r x) t
  let t := w.p.foldl (fun t (r, b) => t.setP r b) t
  let t := w.v.foldl (fun (t : Thread) (r, x) => t.push c r x) t
  t.addFlags w.flags

/-- The pending set, without s0 and p0 (R15). -/
def Thread.pending (t : Thread) : List RegRef :=
  (t.outst.flatMap (·.dests)).filter fun r => r != .s 0 && r != .p 0

/-- An outstanding instruction that the lookahead count covers until it completes, its destination s0 or p0 as may be; a tload,
which writes no register, has s0 for its destination (R15, R152). The fault of a store has none. -/
def Outst.counts (o : Outst) : Bool := !o.dests.isEmpty

/-- Some outstanding instruction is covered by the lookahead count (R15). -/
def Thread.busy (t : Thread) : Bool := t.outst.any Outst.counts

/-! ## Traps (R18, R19) -/

/-- The codes of R18. -/
def Cause.code : Cause → BitVec 8
  | .illegal => 0x01
  | .priv => 0x02
  | .align => 0x03
  | .page => 0x04
  | .prot => 0x05
  | .xscope => 0x06
  | .atype => 0x07
  | .resv => 0x08
  | .ue => 0x09
  | .brk => 0x0A
  | .syscall => 0x0B
  | .engfault => 0x0C
  | .cancel => 0x0D
  | .loop => 0x0E
  | .stream => 0x0F

def Outst.isFault (o : Outst) : Bool :=
  match o.cond with
  | .faulted _ _ => true
  | _ => false

/-- Faulted outstanding instructions, in program order; those that a CANCEL abandoned are among them (R19). -/
def Thread.faulted (t : Thread) : List Outst := t.outst.filter Outst.isFault

/-- A deferred fault, not an abandoned wait. -/
def Outst.isReal (o : Outst) : Bool :=
  match o.cond with
  | .faulted c _ => c != .cancel
  | _ => false

/-- The abnd bits of R19: bit i for a faulted instruction at first + 4·i. -/
def abndBits (first : Word) (fs : List Outst) : BitVec 16 :=
  fs.foldl (fun acc o =>
    let i := (o.addr - first).toNat / 4
    if i < 16 then acc ||| ((1 : BitVec 16) <<< i) else acc) 0

/-- Whether a trap entry can be made: every outstanding instruction has completed or faulted (R19). -/
def Thread.settled (t : Thread) : Bool := t.outst.all Outst.isFault && t.laidOff.isEmpty

/-- Ends a thread's reservation without a write (R181, R183). -/
def Thread.dropResv (t : Thread) : Thread := { t with resv := none }

/-- The cause, value and first of a trap entry: those of the oldest fault, with k.tpc at a later precise trap; a wait that a
CANCEL abandoned is first of that CANCEL when it is the oldest (R18, R19). -/
def Thread.entryOf (t : Thread) (p : PendTrap) : PendTrap :=
  match t.faulted with
  | o :: _ =>
    match o.cond with
    | .faulted .cancel _ => { p with first := o.addr }
    | .faulted c v =>
      { cause := c, val := v, first := o.addr, deferred := true,
        tpc := if p.cause = .brk ∨ p.cause = .syscall then p.first else p.tpc }
    | _ => p
  | [] => p

/-- An asynchronous trap that a deferred fault displaced from its entry is held until the handler returns (R20). -/
def Thread.keepAsync (t : Thread) (p : PendTrap) : Thread :=
  if !(t.faulted.head?.any Outst.isReal) then t
  else if p.cause = .cancel then { t with hcx := true }
  else if p.cause = .resv ∨ p.cause = .engfault then { t with heldAsync := p :: t.heldAsync }
  else t

/-- A trap entry finds no handler to enter: the thread is in one, or k.tvec is 0 (R19). -/
def Thread.stops (t : Thread) (tvec : Word) : Bool := t.ih || tvec &&& ~~~3 == 0

/-- TrapEntry of R19, when nothing is outstanding any more; `tvec` is k.tvec. A thread without a handler, or already
in one, stops, or meets its cancellation end when it is being cancelled (R119). Entry for CANCEL starts the clean-up
budget. The reservation is revoked (R183). -/
def Thread.enterTrap (t : Thread) (p : PendTrap) (tvec : Word) : Thread :=
  let fs := t.faulted
  let t := t.keepAsync p
  let p := t.entryOf p
  let t := { t with
    outst := [], look := 0, held := false, trap := none, resv := none, strmWait := none, starved := [],
    tinst := p.first, tpc := p.tpc, tval := p.val,
    tcause := (0 : BitVec 32) ++ abndBits p.first fs ++ (0 : BitVec 7) ++ BitVec.ofBool p.deferred ++ p.cause.code }
  if t.stops tvec then
    if t.cxh || t.hcx || p.cause == .cancel then { t with st := .suspending, susp := some .cancelEnd }
    else { t with st := .stopped }
  else
    { t with st := .running, ih := true, pc := tvec &&& ~~~3, engf := p.cause == .engfault,
             cxh := t.cxh || p.cause == .cancel, budget := if p.cause = .cancel then 256 else t.budget }

/-- Returns consumed data to the head of their streams. -/
def Thread.giveBack (t : Thread) (c : List Datum) : Thread :=
  c.reverse.foldl (fun t d =>
    { t with binds := match t.binds.get? d.r.toNat with
        | some b => t.binds.set d.r.toNat { b with buf := (d.x, d.flags) :: b.buf }
        | none => t.binds }) t

/-- Returns data that faulted instructions consumed (R157). -/
def Thread.returnData (t : Thread) : Thread := t.faulted.reverse.foldl (fun t o => t.giveBack o.consumed) t

/-- Makes a trap entry; one that finds no handler to enter is reported as a DOUBLE-TRAP, whether the thread stops (R19) or meets its
cancellation end (R119). -/
def State.enterNow (s : State) (r : ThreadRef) (p : PendTrap) : State :=
  let tvec := (s.launch r.tile).tvec
  let stops := (s.thread r).stops tvec
  let s := s.modThread r fun t => t.returnData.enterTrap p tvec
  if stops then
    { s with reports := s.reports ++ [⟨r.tile, 2, BitVec.ofNat 64 (16 * r.core.val + r.thr.val), 0, none⟩] }
  else s

/-- A trap of the current thread: entry at once when everything outstanding has settled, else when it has (TRAP_ENTRY). -/
def State.raise (s : State) (r : ThreadRef) (p : PendTrap) : State :=
  let t := s.thread r
  if t.settled then s.enterNow r p
  else s.modThread r fun t => { t with st := .trapEntry, trap := some p }

/-- A precise trap of the instruction at the pc (R18): k.tpc is that instruction, or the next for BREAK and SYSCALL. -/
def State.trap (s : State) (c : Cause) (v : Word) : State :=
  let t := s.th
  let tpc := if c = .brk ∨ c = .syscall then t.pc + 4 else t.pc
  s.raise s.cur ⟨c, v, t.pc, if t.faulted.isEmpty then tpc else t.pc, false⟩

/-! ## Control transfers and hardware loops (R104 to R112) -/

/-- One level of the hardware loops. -/
structure LoopLvl where
  cnt : Nat
  start : Nat
  last : Nat
  active : Bool
  deriving DecidableEq, Repr

/-- The fields of a loop level: inner in the low halves, outer in the high halves (R24). -/
def Thread.loopLvl (t : Thread) (outer : Bool) : LoopLvl :=
  let sh := if outer then 32 else 0
  ⟨(t.loopcnt >>> sh).toNat % 2 ^ 32, (t.loopstart >>> sh).toNat % 2 ^ 32,
    (t.loopend >>> sh).toNat % 2 ^ 32 / 4 * 4, t.loopend.getLsbD sh⟩

/-- Replaces one half of a 64-bit register. -/
def setHalf (x : Word) (hi : Bool) (v : Nat) : Word :=
  let v := BitVec.ofNat 32 v
  if hi then v ++ x.extractLsb' 0 32 else x.extractLsb' 32 32 ++ v

def Thread.setLoop (t : Thread) (outer : Bool) (l : LoopLvl) : Thread :=
  { t with loopcnt := setHalf t.loopcnt outer l.cnt, loopstart := setHalf t.loopstart outer l.start,
           loopend := setHalf t.loopend outer (l.last + if l.active then 1 else 0) }

/-- End-of-body handling of one level (R110): some transfer to the start, or none when the loop ends. -/
def Thread.loopEnd (t : Thread) (outer : Bool) : Thread × Option Word :=
  let l := t.loopLvl outer
  if 1 < l.cnt then (t.setLoop outer { l with cnt := l.cnt - 1 }, some (BitVec.ofNat 64 l.start))
  else (t.setLoop outer { l with cnt := 0, active := false }, none)

/-- A taken transfer's target is issued when the pending set is empty (R17). -/
def Thread.goto (t : Thread) (tgt : Word) : Thread := { t with pc := tgt, held := t.busy }

/-- The instruction at `a` has completed without a taken transfer (R110, R112). -/
def Thread.advanceFrom (t : Thread) (a : Word) : Thread :=
  let next := { t with pc := a + 4 }
  if t.ih then next
  else
    let inn := t.loopLvl false
    let out := t.loopLvl true
    let outerEnd (t : Thread) : Thread :=
      if out.active && out.last == a.toNat then
        match t.loopEnd true with
        | (t, some tgt) => t.goto tgt
        | (t, none) => { t with pc := a + 4 }
      else { t with pc := a + 4 }
    if inn.active && inn.last == a.toNat then
      match t.loopEnd false with
      | (t, some tgt) => t.goto tgt
      | (t, none) => outerEnd t
    else outerEnd t

/-- A taken transfer from the current instruction leaves the loops it jumps out of (R111), except in a handler. -/
def Thread.leaveLoops (t : Thread) (tgt : Word) : Thread :=
  if t.ih then t
  else
    let out (l : LoopLvl) : Bool := tgt.toNat < l.start || l.last < tgt.toNat
    let inn := t.loopLvl false
    let outer := t.loopLvl true
    let t := if inn.active && out inn then t.setLoop false { inn with active := false } else t
    if outer.active && out outer then t.setLoop true { outer with active := false } else t

/-- The check of R107 on a target: the trap it raises, if any. -/
def targetFault (csize : Nat) (tgt : Word) : Option Cause :=
  if tgt &&& 3 != 0 then some .align else if csize ≤ tgt.toNat then some .prot else none

/-! ## What an instruction does (R15, R107) -/

/-- The effect of an instruction that has issued. -/
inductive Eff where
  /-- Done; sequential execution goes on. -/
  | next (s : State)
  /-- A taken transfer to a target, checked under R107. -/
  | jump (s : State) (tgt : Word)
  /-- A taken transfer that no loop rule applies to (R109, count 0). -/
  | jumpRaw (s : State) (tgt : Word)
  /-- The instruction has set the pc and the thread's state itself. -/
  | stay (s : State)
  /-- A precise trap: the instruction has no effect (R9). -/
  | trap (c : Cause) (v : Word)

/-- A long-latency or waiting instruction becomes outstanding (R15, R159): the cycle from which its condition is tested
and the lag from there to the write (R436); of a wait, the cycles from its issue to the first test and its timeout (R158). -/
def Thread.addOutst (t : Thread) (dests : List RegRef) (la : Option (BitVec 4)) (cond : Cond)
    (start : Nat := 0) (lag : Nat := 0) (reach : Nat := 0) (limit : Option Nat := none) : Thread :=
  { t with
    look := match la with
      | some l => if t.busy then min (t.look - 1) l.toNat else l.toNat
      | none => t.look
    outst := t.outst ++ [{ id := t.nextOp, addr := t.pc, dests := dests, cond := cond, hold := la.isNone, start := start
                           lag := lag, reach := reach, limit := limit }]
    nextOp := t.nextOp + 1
    st := if la.isNone then .waiting else t.st }

/-- A result that is known now and arrives `lat` tile cycles after issue (R15). -/
def State.deferRes (s : State) (la : BitVec 4) (dests : List RegRef) (lat : Nat) (w : Writes) : State :=
  (s.modTh fun t => t.addOutst dests (some la) (.ready w)).atTile s.cur.tile lat
    .resultArrival s.cur { n := s.th.nextOp }

/-- A form that acts on the thread's registers alone, in one slot. -/
def onRegs (f : Thread → Thread) (s : State) : Eff := .next (s.modTh f)

/-- The word of the instruction, as k.tval takes it (R76). -/
def wordOf (i : Instr) : Word := zx ((encodeWord i).getD 0)

/-- A register the instruction names is in the pending set (R16). -/
def Thread.conflict (t : Thread) (u : RegUse) : Bool :=
  let pend := t.pending
  !pend.isEmpty && (u.reads ++ u.writes).any fun r => pend.contains r

/-! ## Streams (R23, R155 to R157) -/

/-- The bound vector registers among those an instruction names. -/
def Thread.bound (t : Thread) (rs : List RegRef) : List (VReg × StrmBind) :=
  (rs.filterMap fun r => match r with
    | .v x => (t.binds.get? x.toNat).map fun b => (x, b)
    | _ => none).foldr (fun p acc => if acc.any (·.1 == p.1) then acc else p :: acc) []

/-- How the stream operands of an instruction stand. -/
inductive StrmGate where
  /-- Every stream operand is ready. -/
  | ready
  /-- An input is written or an output is read: STREAM (R23). -/
  | misuse
  /-- Some input lacks a datum or some output lacks room: the smallest wait limit, the bindings not ready. -/
  | wait (limit : Nat) (who : List (VReg × StrmBind))
  /-- An input has delivered its last element: skipped at once (R156). -/
  | exhausted (who : List (VReg × StrmBind))
  deriving DecidableEq, Repr

/-- A binding that an instruction cannot use now (R155). -/
def StrmBind.unready (b : StrmBind) : Bool := if b.out then 4 ≤ b.buf.length else b.buf.isEmpty
/-- An input stream that has delivered its last element (R156). -/
def StrmBind.exhausted (b : StrmBind) : Bool := !b.out && b.buf.isEmpty && b.total ≤ b.next

/-- The stream check of an instruction before it issues. -/
def Thread.strmGate (t : Thread) (u : RegUse) : StrmGate :=
  let rd := t.bound u.reads
  let wr := t.bound u.writes
  let all := rd ++ wr
  if rd.any (·.2.out) || wr.any (fun p => !p.2.out) then .misuse
  else
    let bad := all.filter (·.2.unready)
    if bad.isEmpty then .ready
    else if bad.any (·.2.exhausted) then .exhausted bad
    else .wait (all.foldl (fun m p => min m p.2.limit) 65535) bad

/-- Takes the next datum of every input stream an instruction reads, into the register (R23). -/
def Thread.consume (t : Thread) (u : RegUse) : Thread × List Datum :=
  (t.bound u.reads).foldl (fun (t, c) (r, b) =>
    match b.buf with
    | [] => (t, c)
    | (x, f) :: rest =>
      ((({ t with binds := t.binds.set r.toNat { b with buf := rest } } : Thread).addFlags f).setV r x, c ++ [⟨r, x, f⟩]))
    (t, [])

/-- Appends the value just written to each output stream the instruction wrote (R23, R156). -/
def Thread.append (t : Thread) (c : Core) (u : RegUse) : Thread :=
  (t.bound u.writes).foldl (fun t (r, _) => t.push c r (t.getV r)) t

/-- A skipped stream instruction: nothing happens but the starved predicates and the advance (R155, R156). It takes a place of the
lookahead count, and none of the reservation window or of the CANCEL budget (DESIGN CHOICE: R155 says nothing of them; log 96). -/
def State.skipStream (s : State) (who : List (VReg × StrmBind)) : State :=
  s.modTh fun t =>
    let t := who.foldl (fun (t : Thread) p => t.setP p.2.starve true) t
    { t with strmWait := none, starved := [], look := if t.busy then t.look - 1 else t.look, held := false }.advanceFrom t.pc

/-! ## Reservations (R183) -/

/-- The forms that a thread may not issue while it holds a reservation (R183). -/
def forbiddenInWindow : Instr → Bool
  | .atomFaa _ _ _ _ _ => true
  | .atomSwap _ _ _ _ _ => true
  | .atomCas _ _ _ _ _ => true
  | .atomFand _ _ _ _ _ => true
  | .atomFor _ _ _ _ _ => true
  | .atomFxor _ _ _ _ _ => true
  | .atomFmin _ _ _ _ _ => true
  | .atomFmax _ _ _ _ _ => true
  | .atomRsv _ _ _ _ => true
  | .taskSpawn _ _ _ _ => true
  | .taskYield => true
  | .taskPark _ => true
  | .taskJoin _ => true
  | .taskRetire _ => true
  | .taskCancel _ _ _ _ => true
  | .callatSend _ _ _ _ => true
  | .msgSend _ _ _ _ _ => true
  | .msgRecv _ _ _ _ _ => true
  | .msgRecvs _ _ _ _ _ => true
  | .msgRecvr _ _ _ _ _ => true
  | .msgPeek _ _ => true
  | .smpPost _ _ => true
  | .smpSample _ _ _ _ _ => true
  | .smpCount _ _ _ => true
  | .smpWait _ _ _ _ _ => true
  | .smpBar _ _ _ _ => true
  | .syncFencePart _ _ => true
  | .syncWaitw _ _ _ => true
  | .syncLdf _ _ _ _ _ => true
  | .syncLdfe _ _ _ _ _ => true
  | .syncStef _ _ _ _ _ => true
  | .syncRo => true
  | .syncRec => true
  | .engPush _ _ _ _ => true
  | .strmBind _ _ => true
  | .strmUnbind _ => true
  | _ => false

/-- The 65th instruction of a reservation window: the reservation is revoked and RESV raised (R183). -/
def State.windowExceeded (s : State) (r : ThreadRef) : State :=
  let t := s.thread r
  match t.resv with
  | none => s
  | some v =>
    (s.modThread r Thread.dropResv).raise r ⟨.resv, v.va, v.addr, t.pc, false⟩

/-! ## Issue (R15 to R17, R77, R119) -/

/-- What the issue of an instruction counts in its thread: L while the pending set is not empty (R15), the reservation window
(R183), the clean-up budget of CANCEL (R119). -/
def Thread.counted (t : Thread) (long : Bool) : Thread :=
  { t with
    look := if long || !t.busy then t.look else t.look - 1
    held := false
    strmWait := none
    starved := []
    resv := t.resv.map fun v => { v with window := v.window - 1 }
    budget := t.budget - 1 }

/-- Counts an issued instruction; the end of the clean-up budget is the step CANCEL_BUDGET_END (R119). -/
def State.countIssue (s : State) (long : Bool) : State :=
  let s' := s.modTh fun t => t.counted long
  if s.th.cxh && s.th.budget == 1 then s'.atTile s'.cur.tile 0 .cancelBudgetEnd s'.cur else s'

/-- Runs the effect of an instruction and what follows it: a trap without effect, the advance, the transfer. A
long-latency write of an output stream is appended when its result arrives (R156). -/
def State.finish (s : State) (u : RegUse) (long : Bool) : Eff → State
  | .trap c v => s.trap c v
  | .stay s' => s'
  | .next s' => s'.modTh fun t => (if long then t else t.append (s.core s.cur.tile s.cur.core) u).advanceFrom s.th.pc
  | .jumpRaw s' tgt =>
    match targetFault (s.launch s.cur.tile).csize tgt with
    | some c => s.trap c tgt
    | none => s'.modTh fun t => t.goto tgt
  | .jump s' tgt =>
    match targetFault (s.launch s.cur.tile).csize tgt with
    | some c => s.trap c tgt
    | none => s'.modTh fun t => (t.leaveLoops tgt).goto tgt

/-- Records the stream data an instruction consumed with what it left under way, its outstanding form or its access: they are
returned if it faults there (R157). `op` is its number in the thread. -/
def Eff.withConsumed (e : Eff) (op : Nat) (c : List Datum) : Eff :=
  if c.isEmpty then e else
  let put (s : State) : State :=
    (s.modTh fun t => { t with outst := t.outst.map fun o => if o.id = op then { o with consumed := c } else o }).modTile
      s.cur.tile fun x =>
        { x with accs := x.accs.map fun a => if a.r = s.cur ∧ a.op = op then { a with consumed := c } else a }
  match e with
  | .next s => .next (put s)
  | .stay s => .stay (put s)
  | e => e

/-- Issues an instruction of the current thread: the checks of R77 steps 6 and 7 that are common to all, then its own
effect. `long` says that the instruction is long-latency. -/
def State.issue (s : State) (i : Instr) (long : Bool) (eff : State → Eff) : State :=
  let u := regUse i
  let t := s.th
  if t.conflict u then s.trap .illegal (wordOf i)
  else if t.resv.isSome && forbiddenInWindow i then s.trap .illegal (wordOf i)
  else match t.strmGate u with
  | .misuse => s.trap .stream (wordOf i)
  | .exhausted who => s.skipStream who
  | .wait limit who =>
    let first := t.strmWait.getD (s.now s.cur.tile)
    if limit ≤ s.now s.cur.tile - first then s.skipStream who else s.modTh fun t => { t with strmWait := some first }
  | .ready =>
    let (_, c) := t.consume u
    let s1 := (s.countIssue long).modTh fun t => (t.consume u).1
    s.finish u long (eff s1 |>.withConsumed t.nextOp c)

end Sys2Proof.Machine
end

