-- ==== Sys2Proof/Machine/Access.lean ====
section
/-!
DEFINITION. Memory access: homing (R269), translation (R389, R390), encrypted HBM and LLC slices (R274, R398 to R401), line
caches (R270, R271), local memory with its watch, full/empty and reservation effects (R162, R169, R171, R182).
-/
namespace Sys2Proof.Machine

/-! ## Homing (R269, R384) -/

def State.part (s : State) (p : Nat) : Part := s.parts.getD p { sc0 := 0, sr0 := 0, sc1 := 0, sr1 := 0 }
def State.modPart (s : State) (p : Nat) (f : Part → Part) : State := { s with parts := s.parts.set p (f (s.part p)) }
def Part.ctx (p : Part) (c : Nat) : Ctx := p.ctxs.getD c {}
def State.ctx (s : State) (p c : Nat) : Ctx := (s.part p).ctx c
def State.modCtx (s : State) (p c : Nat) (f : Ctx → Ctx) : State :=
  s.modPart p fun x => { x with ctxs := x.ctxs.set c (f (x.ctx c)) }

def Part.strips (p : Part) : Nat := (p.sc1 - p.sc0 + 1) * (p.sr1 - p.sr0 + 1)
/-- Width of a partition in tile columns. -/
def Part.width (p : Part) : Nat := 4 * (p.sc1 - p.sc0 + 1)
def Part.height (p : Part) : Nat := 20 * (p.sr1 - p.sr0 + 1)
/-- Bytes of a partition's physical space (R385). -/
def Part.physSize (p : Part) : Nat := 8 * 2 ^ 30 * p.strips

/-- The tile identifier at global coordinates gx, gy (R1, R25). -/
def tileAt (gx gy : Nat) : Nat := (4 * (gy / 20) + gx / 32) * 1024 + gy % 20 * 32 + gx % 32
def gxOf (tile : Nat) : Nat := 32 * (tile / 1024 % 4) + tile % 32
def gyOf (tile : Nat) : Nat := 20 * (tile / 4096) + tile / 32 % 32
/-- The tile at a position of the partition's order (R269). -/
def Part.tileAtPos (p : Part) (i : Nat) : Nat := tileAt (4 * p.sc0 + i % p.width) (20 * p.sr0 + i / p.width)
/-- Position of a tile in the partition's order (R269). -/
def Part.posOf (p : Part) (tile : Nat) : Nat := (gyOf tile - 20 * p.sr0) * p.width + (gxOf tile - 4 * p.sc0)
def Part.hasTile (p : Part) (tile : Nat) : Bool :=
  tileIdOk tile && 4 * p.sc0 ≤ gxOf tile && gxOf tile < 4 * p.sc0 + p.width &&
    20 * p.sr0 ≤ gyOf tile && gyOf tile < 20 * p.sr0 + p.height

/-- The homing hash H of a line index (R269). -/
def homeHash (l : Nat) : Nat := (l % 65536) ^^^ (l / 65536 % 65536) ^^^ (l / 2 ^ 32 % 65536) ^^^ (l / 2 ^ 48 % 4)
def Part.homeTile (p : Part) (l : Nat) : Nat := p.tileAtPos (homeHash l * (80 * p.strips) / 65536)
/-- The home core of a line index (R269). -/
def homeCore (l : Nat) : Fin 8 := ⟨((l % 8) ^^^ (l / 64 % 8) ^^^ (l / 4096 % 8)) % 8, Nat.mod_lt _ (by decide)⟩
/-- Line index L = A[55:6] (R269). -/
def lineIx (va : Word) : Nat := va.toNat % 2 ^ 56 / 64

/-! ## Lines as bits -/

def lineOfBytes (bs : List Byte) : BitVec 512 := BitVec.ofNat 512 (bytesToNat bs)
def lineBytes (x : BitVec 512) : List Byte := natToBytes 64 x.toNat
/-- n bytes from byte offset o of a line, as a number. -/
def lineGet (x : BitVec 512) (o n : Nat) : Nat := x.toNat / 2 ^ (8 * o) % 2 ^ (8 * n)
/-- Replaces n bytes at byte offset o of a line. -/
def linePut (x : BitVec 512) (o n v : Nat) : BitVec 512 :=
  let m : BitVec 512 := BitVec.ofNat 512 (2 ^ (8 * n) - 1) <<< (8 * o)
  (x &&& ~~~m) ||| (BitVec.ofNat 512 (v % 2 ^ (8 * n)) <<< (8 * o))

/-! ## HBM behind inline encryption (R401, log 6) -/

/-- The key of a context: its slot's when kv = 1, else the partition's own (R401). -/
def State.keyOf (s : State) (p c : Nat) : BitVec 512 :=
  let x := s.ctx p c
  let k := s.keys.getD x.keySlot {}
  if x.kv then k.tkey ++ k.dkey else (s.part p).ownKey

/-- The key that a fill of a context decrypts with: a KEY_PUT of the tick in which it begins comes after it (R402). -/
def State.fillKey (s : State) (p c : Nat) : BitVec 512 :=
  let x := s.ctx p c
  let k := s.keys.getD x.keySlot {}
  if x.kv && k.putAt == s.clock + 1 then k.was else s.keyOf p c

/-- The latest fence that left a line undefined, if it has not been written back since (R419). -/
def Part.fogged (x : Part) (pl : Nat) : Option Nat :=
  (x.fog.reverse.find? fun f => f.1 ≤ pl && pl < f.1 + f.2.1 && x.lineGen.getD pl 0 < f.2.2.1).map (·.2.2.2)

/-- A line of HBM as a slice decrypts it with a key (R401). -/
def State.hbmReadBy (s : State) (p : Nat) (key : BitVec 512) (pl : Nat) : BitVec 512 :=
  let x := s.part p
  let plain := match x.fogged pl with
    | some k => Config.freeLine k pl
    | none => lineOfBytes (x.hbm.readBytes (64 * pl) 64)
  match x.lineKey.get? pl with
  | none => plain
  | some k => if k = key then plain else xtsCross k key pl plain

/-- A line of HBM as the slice decrypts it for a context. -/
def State.hbmRead (s : State) (p c pl : Nat) : BitVec 512 := s.hbmReadBy p (s.keyOf p c) pl

/-- Writes a line back to HBM under the key of a context (R401). -/
def State.hbmWrite (s : State) (p c pl : Nat) (x : BitVec 512) : State :=
  let k := s.keyOf p c
  s.modPart p fun q =>
    { q with
      hbm := q.hbm.writeBytes (64 * pl) (lineBytes x)
      lineKey := q.lineKey.set pl k
      lineGen := if q.fences = 0 then q.lineGen else q.lineGen.set pl q.fences }

/-! ## Host memory (R270, R389; R419, log 3) -/

/-- What n bytes from a written on leave of the ranges that a fence left undefined. -/
def carve (a n : Nat) (fog : List (Nat × Nat × Nat)) : List (Nat × Nat × Nat) :=
  (fog.flatMap fun f => [(f.1, min f.2.1 a, f.2.2), (max f.1 (a + n), f.2.1, f.2.2)]).filter fun f => f.1 < f.2.1

/-- A byte of host memory: what it holds, or the free value of the latest fence that left it undefined. -/
def State.hostByte (s : State) (a : Nat) : Byte :=
  match s.hostFog.reverse.find? fun f => f.1 ≤ a && a < f.2.1 with
  | none => s.host.readByte a
  | some f => Config.freeByte f.2.2 a

/-- n bytes of host memory, as a number. -/
def State.hostRead (s : State) (a n : Nat) : Nat :=
  match s.hostFog with
  | [] => s.host.readNat a n
  | _ => bytesToNat ((List.range n).map fun i => s.hostByte (a + i))

/-- Writes n bytes of host memory. -/
def State.hostWrite (s : State) (a n v : Nat) : State :=
  { s with host := s.host.writeNat a n v, hostFog := carve a n s.hostFog }

/-! ## LLC slices (R274, R398, R399) -/

/-- The set of a physical line (PRESUMED: the line number mod 384; log 13). -/
def sliceSet (pl : Nat) : Nat := pl % 384
def Tile.sliceGet? (t : Tile) (pl : Nat) : Option SLine := (t.slice.getD (sliceSet pl) []).find? fun l => l.pl == pl
/-- Replaces or adds a line as the most recently used of its set. -/
def Tile.slicePut (t : Tile) (l : SLine) : Tile :=
  let k := sliceSet l.pl
  { t with slice := t.slice.set k (l :: (t.slice.getD k []).filter fun x => x.pl != l.pl) }
def Tile.sliceDrop (t : Tile) (pl : Nat) : Tile :=
  let k := sliceSet pl
  let r := (t.slice.getD k []).filter fun x => x.pl != pl
  { t with slice := if r.isEmpty then t.slice.erase k else t.slice.set k r }

/-- Writes a slice line back to HBM if it is dirty, under the key of the context that filled it. -/
def State.sliceClean (s : State) (home p : Nat) (l : SLine) : State :=
  if l.dirty then (s.hbmWrite p l.ctx l.pl l.data).modTile home fun t => t.slicePut { l with dirty := false, sys := false } else s

/-- Evicts a line of a slice (R274): written back if dirty, then dropped. -/
def State.sliceEvict (s : State) (home p pl : Nat) : State :=
  match (s.tile home).sliceGet? pl with
  | none => s
  | some l => (s.sliceClean home p l).modTile home fun t => t.sliceDrop pl

/-- The way a fill takes (R399): a free way of the mask, else the least recently used line of the mask's ways. -/
def Tile.wayFor (t : Tile) (pl : Nat) (mask : BitVec 16) : Option (Nat × Option Nat) :=
  let set := t.slice.getD (sliceSet pl) []
  let ways := (List.range 16).filter fun w => mask.getLsbD w
  match ways.find? fun w => !set.any (·.way == w) with
  | some w => some (w, none)
  | none => (set.reverse.find? fun l => mask.getLsbD l.way).map fun l => (l.way, some l.pl)

/-- The way mask that a fill of a context follows: a write of it applies to fills that begin in a later cycle (R399). -/
def State.wayMask (s : State) (p c : Nat) : BitVec 16 :=
  let x := s.ctx p c
  if x.wmaskAt = s.clock + 1 then x.wmaskWas else x.wmask

/-- What a fill that begins now follows (R399, R402). -/
def State.fillRule (s : State) (p c : Nat) : FillRule := { mask := s.wayMask p c, key := s.fillKey p c }

/-- Makes a slice hold a line for a context (R398, R399): a hit of the context is used; another context's line is
written back and dropped; a miss fills from HBM into a way of the mask, or bypasses the slice when the mask is empty. -/
def State.sliceFillIn (s : State) (home p c pl : Nat) (rule : FillRule) : State × BitVec 512 :=
  let s := match (s.tile home).sliceGet? pl with
    | some l => if l.ctx = c then s else s.sliceEvict home p pl
    | none => s
  match (s.tile home).sliceGet? pl with
  | some l => (s.modTile home fun t => t.slicePut l, l.data)
  | none =>
    let d := s.hbmReadBy p rule.key pl
    match (s.tile home).wayFor pl rule.mask with
    | none => (s, d)
    | some (w, victim) =>
      let s := match victim with
        | some v => s.sliceEvict home p v
        | none => s
      (s.modTile home fun t => t.slicePut { pl := pl, way := w, ctx := c, data := d }, d)

/-- A fill that begins now. -/
def State.sliceFill (s : State) (home p c pl : Nat) : State × BitVec 512 := s.sliceFillIn home p c pl (s.fillRule p c)

/-- Writes n bytes of a line at its home slice, and through to HBM when the context's mask is empty (R399); `sys`: for system software or
the sequencer. -/
def State.sliceWrite (s : State) (home p c pl o n v : Nat) (sys : Bool := false) : State :=
  let through := s.wayMask p c == 0
  let (s, d) := s.sliceFill home p c pl
  let d' := linePut d o n v
  match (s.tile home).sliceGet? pl with
  | some l => (if through then s.hbmWrite p c pl d' else s).modTile home fun t =>
      t.slicePut { l with data := d', dirty := !through, sys := !through && (l.sys || sys) }
  | none => s.hbmWrite p c pl d'

/-- A physical line as the home slice would give it, without changing the slice. -/
def State.sliceView (s : State) (home p c pl : Nat) : BitVec 512 :=
  match (s.tile home).sliceGet? pl with
  | some l =>
    if l.ctx = c then l.data
    else if l.dirty then
      (if s.keyOf p l.ctx = s.keyOf p c then l.data else xtsCross (s.keyOf p l.ctx) (s.keyOf p c) pl l.data)
    else s.hbmRead p c pl
  | none => s.hbmRead p c pl

/-! ## Translation (R389, R390) -/

/-- Why a walk stops (R389). -/
inductive WalkFault where
  | notPresent (lvl : Nat)
  | badEntry (lvl : Nat)
  deriving DecidableEq, Repr, Inhabited

/-- An 8-byte table entry, read through the slice of its physical line (R391). -/
def State.tableEntry (s : State) (p c pa : Nat) : Word :=
  let pl := pa / 64
  BitVec.ofNat 64 (lineGet (s.sliceView ((s.part p).homeTile (pl % 2 ^ 46)) p c pl) (pa % 64) 8)

/-- One level of a walk: the table address, the level and what it finds. -/
def walkEntry (e : Word) (lvl align : Nat) : Except WalkFault (Bool × Nat × Bool × Bool × Bool) :=
  let addr := (e.toNat / 256 % 2 ^ 44) * 256
  let leaf := e.getLsbD 1
  if !e.getLsbD 0 then .error (.notPresent lvl)
  else if e.extractLsb' 52 12 != 0 || e.extractLsb' 5 3 != 0 || (leaf && lvl == 1) || (!leaf && lvl == 4) then
    .error (.badEntry lvl)
  else if addr % align != 0 then .error (.badEntry lvl)
  else .ok (leaf, addr, e.getLsbD 4, e.getLsbD 2, e.getLsbD 3)

/-- Bits of the virtual address below a level's index (R389). -/
def lvlShift (lvl : Nat) : Nat := if lvl = 1 then 43 else if lvl = 2 then 30 else if lvl = 3 then 21 else 16
def lvlCount (lvl : Nat) : Nat := if lvl ≤ 2 then 8192 else if lvl = 3 then 512 else 32
/-- Alignment of what an entry of a level names: the next table for a non-leaf, the page for a leaf. -/
def lvlAlign (leaf : Bool) (lvl : Nat) : Nat :=
  if leaf then 2 ^ lvlShift lvl else if lvl = 1 then 65536 else if lvl = 2 then 4096 else 256

/-- The table that a kept non-leaf entry of a level names for an address, if the walkers hold it (R391). -/
def keptNext (cache : List NonLeaf) (p asid lvl va : Nat) : Option Nat :=
  (cache.find? fun x => x.part == p && x.asid == asid && x.lvl == lvl && x.vpn == va / 2 ^ lvlShift lvl).map (·.next)

/-- The page walk (R389), from a level down, on the remaining levels; non-leaf entries that the walkers keep are not read again (R391). -/
def State.walk (s : State) (p c asid : Nat) (cache : List NonLeaf) (va : Nat) : Nat → Nat → Nat → Except WalkFault TLBEnt
  | 0, lvl, _ => .error (.badEntry lvl)
  | k + 1, lvl, table =>
    match keptNext cache p asid lvl va with
    | some next => State.walk s p c asid cache va k (lvl + 1) next
    | none =>
      let e := s.tableEntry p c (table + va / 2 ^ lvlShift lvl % lvlCount lvl * 8)
      match walkEntry e lvl (lvlAlign (e.getLsbD 1) lvl) with
      | .error f => .error f
      | .ok (true, pa, h, r, w) => .ok ⟨asid, lvl, va / 2 ^ lvlShift lvl, pa, h, r, w⟩
      | .ok (false, next, _, _, _) => State.walk s p c asid cache va k (lvl + 1) next

/-- The home slice comes to hold the line of a table entry at a partition physical address, as it holds every line that is read. -/
def State.tableLine (s : State) (p c pa : Nat) : State :=
  if pa < (s.part p).physSize then (s.sliceFill ((s.part p).homeTile (pa / 64 % 2 ^ 46)) p c (pa / 64)).1 else s

/-- A deck's walkers keep a non-leaf entry (R391). -/
def State.keepEntry (s : State) (d : Fin 8) (x : NonLeaf) : State :=
  { s with decks := s.decks.set d { s.decks[d] with nonleaf := x :: s.decks[d].nonleaf } }

/-- What a walk of a deck leaves: the slices come to hold the table lines that it reads, as they hold every line, and the walkers keep the
non-leaf entries (R391). -/
def State.walkFill (s : State) (d : Fin 8) (p c asid : Nat) (va : Nat) : Nat → Nat → Nat → State
  | 0, _, _ => s
  | k + 1, lvl, table =>
    match keptNext s.decks[d].nonleaf p asid lvl va with
    | some next => State.walkFill s d p c asid va k (lvl + 1) next
    | none =>
      let pa := table + va / 2 ^ lvlShift lvl % lvlCount lvl * 8
      let e := s.tableEntry p c pa
      let s := s.tableLine p c pa
      match walkEntry e lvl (lvlAlign (e.getLsbD 1) lvl) with
      | .ok (false, next, _, _, _) =>
        let x : NonLeaf := ⟨p, asid, lvl, va / 2 ^ lvlShift lvl, next⟩
        State.walkFill (s.keepEntry d x) d p c asid va k (lvl + 1) next
      | _ => s

/-- The root table that a context's root names (R387). -/
def Ctx.table (x : Ctx) : Nat := x.root.toNat / 65536 % 2 ^ 36 * 65536

/-- The walk of a context's tables for a virtual address, with what the walkers keep (R387 root, R389, R391). -/
def State.walkBy (s : State) (cache : List NonLeaf) (p c : Nat) (va : Word) : Except WalkFault TLBEnt :=
  let x := s.ctx p c
  if !x.root.getLsbD 0 then .error (.notPresent 1)
  else s.walk p c x.asid cache (va.toNat % 2 ^ 56) 4 1 x.table

/-- A walk that reads every entry: of the sequencer and of the gateways' slices, which have no walkers. -/
def State.walkVA (s : State) (p c : Nat) (va : Word) : Except WalkFault TLBEnt := s.walkBy [] p c va

/-- A walk by the walkers of a tile's deck, for its context (R391). -/
def State.walkAt (s : State) (tile : Nat) (va : Word) : Except WalkFault TLBEnt :=
  let l := s.launch tile
  s.walkBy s.decks[deckOf tile].nonleaf l.part l.ctx va

/-- The state after a walk of a context's tables by the walkers of a deck (R391). -/
def State.walked (s : State) (d : Fin 8) (p c : Nat) (va : Word) : State :=
  let x := s.ctx p c
  if !x.root.getLsbD 0 then s else s.walkFill d p c x.asid (va.toNat % 2 ^ 56) 4 1 x.table

/-- What a translation gives for an access. -/
inductive Xlat where
  | ok (pa : Nat)
  | host (pa : Nat)
  | refused
  | fault (f : WalkFault)
  deriving DecidableEq, Repr, Inhabited

/-- Applies a translation entry: physical address and permissions (R389). -/
def Part.apply (p : Part) (e : TLBEnt) (va : Word) (rd wr : Bool) : Xlat :=
  let pa := e.pa + va.toNat % 2 ^ lvlShift e.lvl
  if (rd && !e.r) || (wr && !e.w) then .refused
  else if e.h then .host pa
  else if p.physSize ≤ pa then .refused
  else .ok pa

def TLBEnt.hits (e : TLBEnt) (asid : Nat) (va : Word) : Bool :=
  e.asid == asid && va.toNat % 2 ^ 56 / 2 ^ lvlShift e.lvl == e.vpn

/-- A tile's translation of an access: through its translation buffer on a hit, else by a walk (R391). -/
def State.xlat (s : State) (tile : Nat) (va : Word) (rd wr : Bool) : Xlat :=
  let l := s.launch tile
  let x := s.part l.part
  match (s.tile tile).tlb.find? fun e => e.hits (x.ctx l.ctx).asid va with
  | some e => x.apply e va rd wr
  | none =>
    match s.walkAt tile va with
    | .ok e => x.apply e va rd wr
    | .error f => .fault f

/-- Whether a tile's translation buffer holds the page of an address. -/
def State.tlbHit (s : State) (tile : Nat) (va : Word) : Bool :=
  let l := s.launch tile
  (s.tile tile).tlb.any fun e => e.hits (s.ctx l.part l.ctx).asid va

/-- The set of a translation entry (PRESUMED: the page number mod 64; log 33). -/
def TLBEnt.set (e : TLBEnt) : Nat := e.vpn % 64

/-- Enters a walked translation as the most recently used of its set of 8 (R391). -/
def Tile.tlbAdd (t : Tile) (e : TLBEnt) : Tile :=
  let rest := t.tlb.filter (· != e)
  let out := (rest.filter fun x => x.set == e.set).drop 7
  { t with tlb := e :: rest.filter fun x => !out.contains x }

end Sys2Proof.Machine
end

