-- ==== Sys2Proof/Machine/LocalMem.lean ====
section
/-!
DEFINITION. Local memory: windows (R57 to R60, R267, R268), stores with their effects on watchers, full/empty bits,
reservations and erroneous words (R162, R169 to R172, R182, R267), and the line caches of global memory (R270).
-/
namespace Sys2Proof.Machine

/-! ## Local-memory places -/

/-- Kind-0 offset of the frame area (R268). -/
def frameBase (l : Launch) : Nat := 0x4_0000 - l.fbytes

/-- The window size in bytes of its offset space (R59, R267, R268); kinds 13 and 15 have no window of their own (R58, R161). -/
def windowSize (l : Launch) (kind : Nat) : Nat :=
  match kind with
  | 0 | 5 | 6 | 7 => 0x4_0000
  | 1 => 0x10_0000
  | 2 => 0x20_0000
  | 3 | 4 => 0x8_0000
  | 8 => 0x4000
  | 9 => 0x4000
  | 10 => 0x5_0000
  | 11 => 0x1_0000
  | 12 => 0x800
  | 14 => l.fbytes
  | 13 | 15 => 0x800_0000
  | _ => 0

/-- A place in local memory of a core. -/
structure LmPlace where
  core : Fin 8
  off : Nat
  deriving DecidableEq, Repr, Inhabited

/-- The local-memory place of a kind-0, kind-7 or kind-14 address (R267, R268). -/
def lmPlace (l : Launch) (a : Word) : LmPlace :=
  ⟨amCore a, if amKind a = 14 then frameBase l + amOff a else amOff a⟩

/-- A local-memory address through kind 0 or 14 of the own tile, with n bytes inside its window. -/
def ownLm (l : Launch) (tile : Nat) (a : Word) (n : Nat) : Bool :=
  isTileMap a && amFormOk a && amTile a == tile && (amKind a == 0 || amKind a == 14) &&
    amOff a + n ≤ windowSize l (amKind a)

/-- Bank number of a local-memory place: bit of k.tbm (R163). -/
def LmPlace.bank (p : LmPlace) : Nat := 4 * p.core.val + p.off / 4 % 4
/-- Line-cache bank of a global address: bit of k.tbm (R163). -/
def lcBank (va : Word) : Nat := 32 + 2 * (homeCore (lineIx va)).val + (va.toNat / 64) % 2
/-- Slice bank of a global address (R163). -/
def slBank (va : Word) : Nat := 48 + lineIx va % 8

/-- Sets the bits of the touched banks (R163). -/
def Thread.touch (t : Thread) (banks : List Nat) : Thread :=
  { t with tbm := banks.foldl (fun m b => m ||| ((1 : Word) <<< b)) t.tbm }

/-! ## Stores to local memory -/

/-- Words that a range of bytes touches. -/
def wordsOf (off n : Nat) : List Nat := (List.range ((off + n + 3) / 4 - off / 4)).map (off / 4 + ·)
/-- Whether the range covers the whole word. -/
def covers (off n w : Nat) : Bool := off ≤ 4 * w && 4 * w + 4 ≤ off + n

/-- A write on a word sets the ready bit of every thread watching it (R169). -/
def Core.wakeWatchers (c : Core) (w : Nat) : Core :=
  { c with threads := c.threads.mapIdx fun _ t => if t.watch = some w then { t with ready := true } else t }

/-- Kind-0 offset of a displaced frame in its core's system area (R336). -/
def frameOff (l : Launch) (i : Nat) : Nat := frameBase l - 0x4000 + 0x400 * i

/-- A write on a word sets the ready bit in the displaced frames whose watch register names it (R169, R339, R396). -/
def Core.wakeFrames (c : Core) (l : Launch) (w : Nat) : Core :=
  c.frames.foldl (fun c f =>
    if f.2.watch = some w then
      let o := frameOff l f.1 + 0x301
      { c with lm := c.lm.writeByte o (BitVec.ofNat 8 (c.lm.readNat o 1) ||| 1),
               frames := c.frames.set f.1 { f.2 with ready := true } }
    else c) c

/-- The unit priority in a state word (R121). -/
def prioOf (w1 : W32) : Fin 4 := (w1.extractLsb' 6 2).toFin

/-! ## Entries of the deque and the spill region (R336; log 38) -/

def Core.entryList (c : Core) : List Entry := c.deque[3] ++ c.deque[2] ++ c.deque[1] ++ c.deque[0]

/-- The place of an entry's record in the spill region, as an offset of local memory. -/
def Core.spillOff (c : Core) (i : Nat) : Nat := c.area + 64 * i

/-- An entry comes into the deque: on chip while 32 entries are not full, else its record is written to the first free place
of the spill region (R336). -/
def Core.takeEntry (c : Core) (e : Entry) : Entry × Core :=
  let e := { e with spill := none, stamp := c.arrivals }
  let c := { c with arrivals := c.arrivals + 1 }
  let all := c.entryList
  if (all.filter fun x => x.spill.isNone).length < 32 then (e, c)
  else match (List.range 512).find? fun i => !all.any fun x => x.spill == some i with
  | none => (e, c)
  | some i => ({ e with spill := some i },
      { c with lm := (List.finRange 16).foldl (fun m k => m.writeNat (c.spillOff i + 4 * k.val) 4 (e.w[k]).toNat) c.lm })

/-- An entry as it stands: the record of a spilled one is what its bytes hold (R336). -/
def Core.entryNow (c : Core) (e : Entry) : Entry :=
  match e.spill with
  | none => e
  | some i => { e with w := Vector.ofFn fun k : Fin 16 => BitVec.ofNat 32 (c.lm.readNat (c.spillOff i + 4 * k.val) 4) }

/-- Puts an entry at the bottom of its level (R336). -/
def Core.pushBottom (c : Core) (e : Entry) : Core :=
  let q := prioOf e.w[1]
  let (e, c) := c.takeEntry e
  { c with deque := c.deque.set q (e :: c.deque[q]) }

/-- The records parked on a written word go to the bottom of their level (R128, R340). -/
def Core.wakeParked (c : Core) (w : Nat) : Core :=
  let hit (k : ParkKey) : Bool := match k with
    | .word x => x == w
    | .waitw x _ => x == w
    | .counter _ => false
  let woken := (c.park.filter fun e => hit e.1).map fun e =>
    match e.1 with
    | .waitw _ _ => { e.2 with waitOut := some false }
    | _ => e.2
  woken.foldl Core.pushBottom { c with park := c.park.filter fun e => !hit e.1 }

/-- Whether a reservation's word is among written words of local memory. -/
def Resv.inLm (v : Resv) (l : Launch) (core : Fin 8) (ws : List Nat) : Bool :=
  isTileMap v.va && (lmPlace l v.va).core == core &&
    ws.any fun w => (lmPlace l v.va).off / 4 ≤ w && 4 * w < (lmPlace l v.va).off + v.size

/-- A write by another source breaks a reservation that its bank has granted (R181, R182). -/
def Tile.breakResv (t : Tile) (src : Option ThreadRef) (hit : Resv → Bool) : Tile :=
  { t with cores := t.cores.mapIdx fun ci c => { c with threads := c.threads.mapIdx fun hi h =>
      match h.resv with
      | some v =>
        let own := match src with
          | some r => r.core.val == ci && r.thr.val == hi
          | none => false
        if !own && v.granted && hit v then { h with resv := some { v with broken := true } } else h
      | none => h } }

/-! ## Trace rings and recorded orders (R293, R294) -/

/-- The ports and word indexes of a write to local memory, to a line cache and to a slice: the port's number is the k.tbm bit
of its bank, the index the byte offset, of the line cache and the slice the virtual address, divided by 4 (R163, R293). -/
def lmPorts (core : Fin 8) (off n : Nat) : List (Nat × Nat) := (wordsOf off n).map fun w => (4 * core.val + w % 4, w)
def linePorts (va : Word) (n : Nat) : List (Nat × Nat) := (wordsOf va.toNat n).map fun w => (lcBank va, w % 2 ^ 32)
def slicePorts (va : Word) (n : Nat) : List (Nat × Nat) := (wordsOf va.toNat n).map fun w => (slBank va, w % 2 ^ 32)

/-- The source of a write: a thread, or a command (R293). -/
def storeSrc (tile : Nat) (src : Option ThreadRef) : StoreSrc :=
  match src with
  | some r => { tile := r.tile, eng := false, core := r.core, thr := r.thr }
  | none => { tile := tile, eng := true }

/-- A store is racy when another source wrote the word in the preceding 4,096 tile cycles (R293). -/
def TracePort.racy (x : TracePort) (now : Nat) (src : StoreSrc) (w : Nat) : Bool :=
  match x.last.get? w with
  | some (o, c) => o != src && now ≤ c + 4096
  | none => false

/-- A port remembers the last write of a word; a racy one enters the ring while recording is enabled (R293). -/
def TracePort.note (x : TracePort) (recd : Bool) (now : Nat) (src : StoreSrc) (w : Nat) : TracePort :=
  let ring := if recd && x.racy now src w then x.ring ++ [⟨now, src, w⟩] else x.ring
  { x with last := x.last.set w (src, now), ring := ring.drop (ring.length - 256) }

/-- A source as the 16 bytes of an entry show it: a thread, or a command of a tile (R293). -/
def StoreSrc.shown (x : StoreSrc) : StoreSrc := if x.eng then { tile := x.tile, eng := true } else { x with cmd := 0 }

/-- A store's place in the recorded order that is left, if it is racy (R294). -/
def TracePort.turn (x : TracePort) (now : Nat) (src : StoreSrc) (w : Nat) : Option Nat :=
  if x.racy now src w then x.order.findIdx? fun e => e.src.shown == src.shown && e.word == w else none

/-- A racy write takes its entry from the recorded order; out of its turn it is a divergence (R294). -/
def TracePort.follow (x : TracePort) (now : Nat) (src : StoreSrc) (w : Nat) : TracePort × Bool :=
  match x.turn now src w with
  | none => (x, false)
  | some 0 => ({ x with order := x.order.tail }, false)
  | some (k + 1) => ({ x with order := x.order.eraseIdx (k + 1), diverge := x.diverge + 1 }, true)

/-- One divergence more in the partition, of a store of a source; one in 256 is logged (R422). -/
def State.countDiverge (s : State) (tile p : Nat) (src : StoreSrc) : State :=
  let n := (s.part p).diverged + 1
  let s := s.modPart p fun x => { x with diverged := n }
  if n % 256 = 0 then { s with reports := s.reports ++ [{ tile := tile, kind := 7, info := 0, part := some (p, (s.launch src.tile).ctx) }] } else s

/-- What a port keeps of a write that performs on one of its words. -/
def State.notePort (s : State) (tile p : Nat) (src : StoreSrc) (x : Nat × Nat) : State :=
  let a := (s.tile tile).ports.getD x.1 {}
  let (a, out) := if (s.part p).replay then a.follow (s.now tile) src x.2 else (a, false)
  let a := a.note (s.part p).recd (s.now tile) src x.2
  let s := s.modTile tile fun t => { t with ports := t.ports.set x.1 a }
  if out then s.countDiverge tile p src else s

/-- A write performs on words of a tile's ports (R293, R294). -/
def State.noteWrite (s : State) (tile p : Nat) (src : StoreSrc) (ws : List (Nat × Nat)) : State :=
  ws.foldl (fun s x => s.notePort tile p src x) s

/-- A write of n bytes at a place of a tile's local memory: words in error that are only partly covered are not written,
covered ones are cleared (R162, R267); watchers, parked records and reservations see it (R169, R128, R182); an engine's
or the copy unit's write sets its words full (R171). -/
def State.lmWrite (s : State) (tile : Nat) (core : Fin 8) (off n v : Nat) (src : Option ThreadRef) (full : Bool := false)
    (by_ : Option StoreSrc := none) : State :=
  let l := s.launch tile
  let s := s.noteWrite tile l.part (by_.getD (storeSrc tile src)) (lmPorts core off n)
  let ws := wordsOf off n
  let c0 := s.core tile core
  let blocked (w : Nat) : Bool := c0.lmUE.has w && !covers off n w
  let bytes := (natToBytes n v).zipIdx
  let s := s.modCore tile core fun c =>
    let lm := bytes.foldl (fun m (b, i) => if blocked ((off + i) / 4) then m else m.writeByte (off + i) b) c.lm
    let c := { c with lm := lm, lmUE := ws.foldl (fun u w => if covers off n w then u.erase w else u) c.lmUE }
    let c := { c with full := if full then ws.foldl (fun u w => if blocked w then u else u.set w ()) c.full else c.full }
    ws.foldl (fun c w => if blocked w then c else ((c.wakeWatchers w).wakeFrames l w).wakeParked w) c
  s.modTile tile fun t => t.breakResv src fun v => v.inLm l core (ws.filter fun w => !blocked w)

/-- n bytes of local memory. -/
def State.lmRead (s : State) (tile : Nat) (core : Fin 8) (off n : Nat) : Nat := (s.core tile core).lm.readNat off n
/-- A word of the range holds an uncorrectable error (R267). -/
def State.lmBad (s : State) (tile : Nat) (core : Fin 8) (off n : Nat) : Bool :=
  (wordsOf off n).any fun w => (s.core tile core).lmUE.has w

/-! ## Line caches (R270) -/

/-- Set of a line index: L[8:3] (R270). -/
def lineSet (l : Nat) : Nat := l / 8 % 64
def Core.lineGet? (c : Core) (l : Nat) : Option Line := (c.lines.getD (lineSet l) []).find? fun x => x.tag == l
/-- Puts a line in as the most recently used of its set. -/
def Core.linePut (c : Core) (x : Line) : Core :=
  { c with lines := c.lines.set (lineSet x.tag) (x :: (c.lines.getD (lineSet x.tag) []).filter fun y => y.tag != x.tag) }
def Core.lineDrop (c : Core) (l : Nat) : Core :=
  let r := (c.lines.getD (lineSet l) []).filter fun y => y.tag != l
  { c with lines := if r.isEmpty then c.lines.erase (lineSet l) else c.lines.set (lineSet l) r }

/-- A line with some of its words taken from another. -/
def mergeWords (old new : BitVec 512) (words : BitVec 16) : BitVec 512 :=
  (List.range 16).foldl (fun x i => if words.getLsbD i then linePut x (4 * i) 4 (lineGet new (4 * i) 4) else x) old
/-- The words of a line that n bytes touch. -/
def wordMask (o n : Nat) : BitVec 16 := (wordsOf o n).foldl (fun m w => m ||| ((1 : BitVec 16) <<< w)) 0

/-- Writes a dirty line back to its home slice: the words that stores have written, or the whole line; the line stays,
clean (R176, R286, log 25). The words enter the trace of the slice's ports as writes of `by_`, or of a unit of the tile (R293). -/
def State.lineClean (s : State) (tile : Nat) (core : Fin 8) (x : Line) (whole : Bool := false) (by_ : Option StoreSrc := none) :
    State :=
  if x.dirty then
    let l := s.launch tile
    let home := (s.part l.part).homeTile x.tag
    let (s, d) := s.sliceFill home l.part l.ctx x.pl
    let d := if whole then x.data else mergeWords d x.data x.words
    let ws := (List.range 16).filter fun i => whole || x.words.getLsbD i
    let s := s.noteWrite home l.part (by_.getD (storeSrc tile none)) (ws.map fun i => (48 + x.tag % 8, (16 * x.tag + i) % 2 ^ 32))
    (s.sliceWrite home l.part l.ctx x.pl 0 64 d.toNat).modCore tile core fun c => c.linePut { x with dirty := false, words := 0 }
  else s

/-- Writes a line back if dirty and drops it: eviction, linv (R176, R270). -/
def State.lineEvict (s : State) (tile : Nat) (core : Fin 8) (l : Nat) : State :=
  match (s.core tile core).lineGet? l with
  | none => s
  | some x => (s.lineClean tile core x).modCore tile core fun c => c.lineDrop l

/-- Every line of a tile's line caches, written back and dropped (R271). -/
def State.flushLines (s : State) (tile : Nat) : State :=
  (List.finRange 8).foldl (fun s c =>
    ((s.core tile c).lines.flatMap (·.2)).foldl (fun s x => s.lineEvict tile c x.tag) s) s

/-- A tile's misses of a line that are under way bring nothing in any more: an access that still needs the line fetches it
again (R174, R286). -/
def Tile.forgetMisses (t : Tile) (l : Nat) (ro : Bool) (core : Fin 8) : Tile :=
  { t with misses := t.misses.filter fun m => m.what != .line l core ro }

/-- The same for every line cache's misses of a range of lines. -/
def Tile.forgetRange (t : Tile) (lo hi : Nat) : Tile :=
  { t with misses := t.misses.filter fun m => match m.what with
    | .line l _ ro => ro || l < lo || hi < l
    | .chan _ _ => true }

/-- A write into a line that the home core's cache holds. -/
def State.lineWrite (s : State) (tile : Nat) (va : Word) (n v : Nat) (src : Option ThreadRef) : State :=
  let l := lineIx va
  let core := homeCore l
  let s := match (s.core tile core).lineGet? l with
    | some x =>
      (s.noteWrite tile (s.launch tile).part (storeSrc tile src) (linePorts va n)).modCore tile core fun c =>
        c.linePut { x with data := Machine.linePut x.data (va.toNat % 64) n v, dirty := true,
                           words := x.words ||| wordMask (va.toNat % 64) n }
    | none => s
  s.modTile tile fun t => t.breakResv src fun r =>
    isGlobal r.va && r.va.toNat < va.toNat + n && va.toNat < r.va.toNat + r.size

/-- The bytes of a line present in its home core's cache, made the most recently used. -/
def State.lineRead (s : State) (tile : Nat) (va : Word) (n : Nat) : State × Nat :=
  let l := lineIx va
  let core := homeCore l
  match (s.core tile core).lineGet? l with
  | some x => (s.modCore tile core fun c => c.linePut x, lineGet x.data (va.toNat % 64) n)
  | none => (s, 0)

/-- A global read of a tile that does not change its caches: the line cache's copy, else the home slice's; none where its page does
not translate or may not be read (R200, R389). -/
def State.globalPeek (s : State) (tile : Nat) (va : Word) (n : Nat) : Option Nat :=
  let l := s.launch tile
  match (s.core tile (homeCore (lineIx va))).lineGet? (lineIx va) with
  | some x => if x.rd then some (lineGet x.data (va.toNat % 64) n) else none
  | none =>
    match s.xlat tile va true false with
    | .ok pa => some (lineGet (s.sliceView ((s.part l.part).homeTile (lineIx va)) l.part l.ctx (pa / 64)) (pa % 64) n)
    | .host pa => some (s.hostRead pa n)
    | _ => none

/-- The address of the code segment's byte at an offset (R120). -/
def State.codeAddr (s : State) (tile : Nat) (off : Nat) : Word := (s.launch tile).code + BitVec.ofNat 64 off

/-- An instruction word of the launch's code segment at a byte offset (R72, R389 R). -/
def State.codeWord (s : State) (tile : Nat) (off : Nat) : Option W32 :=
  (s.globalPeek tile (s.codeAddr tile off) 4).map (BitVec.ofNat 32)

/-- Why a code word cannot be fetched: its page may not be read, or does not translate (R389, R390, log 12). -/
def State.codeFault (s : State) (tile : Nat) (off : Nat) : Cause :=
  let va := s.codeAddr tile off
  match (s.core tile (homeCore (lineIx va))).lineGet? (lineIx va), s.xlat tile va true false with
  | some _, _ => .prot
  | none, .fault _ => .page
  | none, _ => .prot

/-! ## Times of the crossbar (R32, R162, R436) -/

/-- Cycles from cycle n at core c to core K over the crossbar (R32): 3 + ((K - c - n - 1) mod 8). -/
def crossLat (c k : Fin 8) (n : Nat) : Nat := 3 + (k.val + 8 * (n + 2) - c.val - n - 1) % 8

/-- Cycles from the issue of an access to its arrival at a port of a core: 2, or the crossing (R162, R436). -/
def State.portReach (s : State) (r : ThreadRef) (core : Fin 8) : Nat :=
  if r.core = core then 2 else crossLat r.core core (s.now r.tile)

/-- Cycles from its performing at the port to its result: 4, or 2 and the crossing back, and what its kind takes more
(R162, R179, R272, R436; log 16). -/
def State.portLag (s : State) (r : ThreadRef) (core : Fin 8) (more : Nat) : Nat :=
  more + if r.core = core then 4 else 2 + crossLat core r.core (s.now r.tile + s.portReach r core)

/-- Cycles from issue to result. -/
def State.portTime (s : State) (r : ThreadRef) (core : Fin 8) (more : Nat) : Nat := s.portReach r core + s.portLag r core more

/-! ## The queue of a tile's ports (R162, R164) -/

/-- Whether an access stands before another: the cycle of arrival, then the core number (R173, R180). -/
def Access.before (a b : Access) : Bool := a.at_ < b.at_ || (a.at_ == b.at_ && a.r.core.val ≤ b.r.core.val)

/-- Puts an access in its place in the order of arrival. -/
def putAccess (a : Access) : List Access → List Access
  | [] => [a]
  | b :: bs => if b.before a then b :: putAccess a bs else a :: b :: bs

/-- An access leaves its thread for its port. -/
def State.sendAccess (s : State) (a : Access) : State :=
  s.modTile a.r.tile fun t => { t with accs := putAccess a t.accs }

/-- The access of an instruction, performed or given up. -/
def Tile.dropAccess (t : Tile) (r : ThreadRef) (op : Nat) : Tile :=
  { t with accs := t.accs.filter fun a => !(a.r == r && a.op == op) }

/-- The thread's next number, taken by a form that leaves nothing outstanding. -/
def Thread.takeOp (t : Thread) : Thread := { t with nextOp := t.nextOp + 1 }

/-- An access of a unit that has not performed at a bank (R165). -/
def Tile.unperformed (t : Tile) (owner b : Nat) : Bool := t.accs.any fun a => a.owner == owner && a.banks.contains b

end Sys2Proof.Machine
end

