-- ==== Sys2Proof/Machine/Control.lean ====
section
/-!
DEFINITION. Control transfers, hardware loops, control registers and the sys major (spec/04 R104 to R118).
-/
namespace Sys2Proof.Machine

/-! ## Branches, jumps and calls (R104 to R106) -/

/-- A conditional branch (R104). -/
def brForm (i : Instr) (off : BitVec 16) (cond : Thread → Bool) (s : State) : Out :=
  .next (s.issue i false fun s =>
    if cond s.th then .jump s (relTarget s.th.pc off) else .next s)

def execBrT (p : PReg) (off : BitVec 16) (s : State) : Out :=
  brForm (.brT p off) off (fun t => t.getP p) s
def execBrF (p : PReg) (off : BitVec 16) (s : State) : Out :=
  brForm (.brF p off) off (fun t => !t.getP p) s
def execBrNz (a : SReg) (off : BitVec 16) (s : State) : Out :=
  brForm (.brNz a off) off (fun t => t.getS a != 0) s
def execBrZ (a : SReg) (off : BitVec 16) (s : State) : Out :=
  brForm (.brZ a off) off (fun t => t.getS a == 0) s

def execJmp (off : BitVec 26) (s : State) : Out :=
  .next (s.issue (.jmp off) false fun s => .jump s (relTarget s.th.pc off))
def execCall (off : BitVec 26) (s : State) : Out :=
  .next (s.issue (.call off) false fun s =>
    .jump (s.modTh fun t => t.setS 31 (t.pc + 4)) (relTarget s.th.pc off))
def execSysJr (a : SReg) (s : State) : Out :=
  .next (s.issue (.sysJr a) false fun s => .jump s (s.th.getS a))
def execSysCallr (a : SReg) (s : State) : Out :=
  .next (s.issue (.sysCallr a) false fun s =>
    .jump (s.modTh fun t => t.setS 31 (t.pc + 4)) (s.th.getS a))

/-! ## Hardware loops (R108, R109) -/

/-- Whether a word is a loop instruction: major 0x0A (R75), be its other fields well-formed or not (DESIGN CHOICE, log 93). -/
def isLoopWord (w : W32) : Bool := w.extractLsb' 26 6 == 0x0A

/-- The end of a body lies in the code segment and its instruction is no loop instruction (R108); a word that cannot be fetched, its
page being unreadable, counts as none (DESIGN CHOICE: R108 does not say; log 93). -/
def State.loopEndOk (s : State) (last : Nat) : Bool :=
  last + 4 ≤ (s.launch s.cur.tile).csize &&
    !(((s.codeWord s.cur.tile last).map isLoopWord).getD false)

/-- A loop instruction at the current pc (R108, R109). -/
def loopForm (i : Instr) (outer : Bool) (a : SReg) (imm : BitVec 13) (s : State) : Out :=
  .next (s.issue i false fun s =>
    let t := s.th
    let at_ := t.pc.toNat
    let last := at_ + 4 + 4 * imm.toNat
    let inn := t.loopLvl false
    let out := t.loopLvl true
    let bad :=
      (if outer then inn.active || out.active
       else inn.active || (out.active && (out.last < last || at_ < out.start || out.last < at_))) ||
      !s.loopEndOk last
    if bad then .trap .loop (wordOf i)
    else
      let c := (t.getS a).toNat % 2 ^ 32
      if c = 0 then
        match targetFault (s.launch s.cur.tile).csize (BitVec.ofNat 64 (last + 4)) with
        | some f => .trap f (BitVec.ofNat 64 (last + 4))
        | none =>
          -- the outer loop's end-of-body handling, when its body ends here too (R109)
          .stay (s.modTh fun t =>
            let skip := t.goto (BitVec.ofNat 64 (last + 4))
            if !outer && !t.ih && out.active && out.last == last then
              match t.loopEnd true with
              | (t, some tgt) => t.goto tgt
              | (t, none) => t.goto (BitVec.ofNat 64 (last + 4))
            else skip)
      else .stay (s.modTh fun t => { t.setLoop outer ⟨c, at_ + 4, last, true⟩ with pc := t.pc + 4 }))

def execLoopIn (a : SReg) (imm : BitVec 13) (s : State) : Out := loopForm (.loopIn a imm) false a imm s
def execLoopOut (a : SReg) (imm : BitVec 13) (s : State) : Out := loopForm (.loopOut a imm) true a imm s

/-! ## Control registers (R24 to R31, R113 to R115) -/

/-- The access codes of R24. -/
inductive KAccess where
  | ro
  | rw
  | rw1c
  | sw
  deriving DecidableEq, Repr

def kAccess : KReg → KAccess
  | .tile | .core | .thread | .deck | .part | .period | .act | .drift | .overrun | .clock | .tcyc | .tstat
  | .seed | .epoch => .ro
  | .driftalarm => .rw1c
  | .tvec | .mxw => .sw
  | .tbm | .fflags | .frm | .tpc | .tinst | .tcause | .tval | .loopcnt | .loopstart | .loopend => .rw

/-- The value a control register reads as; reserved bits read zero (R24 to R31, R6). -/
def State.kread (s : State) (r : ThreadRef) : KReg → Word
  | .tile => BitVec.ofNat 64 (r.tile % 0x2000)
  | .core => BitVec.ofNat 64 r.core.val
  | .thread => BitVec.ofNat 64 r.thr.val
  | .deck => BitVec.ofNat 64 (deckOf r.tile).val
  | .part => BitVec.ofNat 64 (s.launch r.tile).part
  | .period => zx (s.tile r.tile).kperiod
  | .act => (s.tile r.tile).kact
  | .drift => BitVec.ofNat 64 ((s.launch r.tile).drift % 2 ^ 24)
  | .driftalarm => zx ((s.tile r.tile).alarmCount ++ (0 : BitVec 15) ++ BitVec.ofBool (s.tile r.tile).alarm)
  | .overrun => zx (s.tile r.tile).koverrun
  | .clock => BitVec.ofNat 64 s.clock
  | .tcyc => BitVec.ofNat 64 (s.now r.tile)
  | .tbm => (s.thread r).tbm &&& 0x00FF_FFFF_FFFF_FFFF
  | .fflags => zx (s.thread r).fflags
  | .frm => zx (s.thread r).frm
  | .tvec => (s.launch r.tile).tvec &&& ~~~3
  | .tpc => (s.thread r).tpc
  | .tinst => (s.thread r).tinst
  | .tcause => (s.thread r).tcause &&& 0xFFFF_01FF
  | .tval => (s.thread r).tval
  | .tstat => zx (BitVec.ofBool (s.thread r).cxh ++ BitVec.ofBool (s.thread r).hcx ++ BitVec.ofBool (s.thread r).ih)
  | .loopcnt => (s.thread r).loopcnt
  | .loopstart => (s.thread r).loopstart
  | .loopend => (s.thread r).loopend &&& ~~~0x0000_0002_0000_0002
  | .mxw => zx (s.tile r.tile).kmxw
  | .seed => (s.launch r.tile).seed
  | .epoch => zx (s.ctx (s.launch r.tile).part (s.launch r.tile).ctx).epoch

/-- An active loop keeps the geometry of R108: a start at an instruction, not after the end, an end that may end a loop, and
for two active loops an inner body, with its loop instruction at start − 4, inside the outer body (R112). A body need not be short
enough for imm13, nor a lone loop's start leave room for a loop instruction (DESIGN CHOICE, log 93). -/
def State.loopGeomOk (s : State) (t : Thread) : Bool :=
  let inn := t.loopLvl false
  let out := t.loopLvl true
  let ok (l : LoopLvl) : Bool := !l.active || (l.start % 4 == 0 && l.start ≤ l.last && s.loopEndOk l.last)
  ok inn && ok out && (!(inn.active && out.active) || (out.start + 4 ≤ inn.start && inn.last ≤ out.last))

/-- Writes an RW register of the current thread, or the loop trap of R112, whose k.tval is the instruction word (DESIGN CHOICE: R112
names none; log 93). -/
def State.kwriteRW (s : State) (k : KReg) (x : Word) (word : Word) : Eff :=
  let put (f : Thread → Thread) : Eff := .next (s.modTh f)
  -- a loop register's new value takes effect from the next instruction (R112)
  let loop (f : Thread → Thread) : Eff :=
    if s.loopGeomOk (f s.th) then .stay (s.modTh fun t => f (t.advanceFrom t.pc)) else .trap .loop word
  match k with
  | .tbm => put fun t => { t with tbm := x &&& 0x00FF_FFFF_FFFF_FFFF }
  | .fflags => put fun t => { t with fflags := x.setWidth 5 }
  | .frm => put fun t => { t with frm := x.setWidth 2 }
  | .tpc => put fun t => { t with tpc := x }
  | .tinst => put fun t => { t with tinst := x }
  | .tcause => put fun t => { t with tcause := x &&& 0xFFFF_01FF }
  | .tval => put fun t => { t with tval := x }
  | .loopcnt => loop fun t => { t with loopcnt := x }
  | .loopstart => loop fun t => { t with loopstart := x }
  | .loopend => loop fun t => { t with loopend := x &&& ~~~0x0000_0002_0000_0002 }
  | _ => .trap .priv word

/-- A write to any control register (R115): RO and SW registers refuse program threads with PRIV; RW1C clears. -/
def State.kwrite (s : State) (k : KReg) (x : Word) (word : Word) : Eff :=
  let tile := s.cur.tile
  match kAccess k with
  | .ro => .trap .priv word
  | .rw => s.kwriteRW k x word
  | .rw1c => .next (s.modTile tile fun t => { t with alarm := t.alarm && !x.getLsbD 0 })
  | .sw =>
    if (s.launch tile).mgmt then
      match k with
      | .tvec => .next (s.modTile tile fun t => { t with launch := t.launch.map fun l => { l with tvec := x &&& ~~~3 } })
      | _ => .next (s.modTile tile fun t => { t with kmxw := x.setWidth 32 })
    else .trap .priv word

def execKregRd (d : SReg) (imm : KReg) (s : State) : Out :=
  .next (s.issue (.kregRd d imm) false fun s => .next (s.modTh fun t => t.setS d (s.kread s.cur imm)))
/-- kreg.wr; a form reserved to management threads raises PRIV before any conflict (R77 step 5, R115). -/
def execKregWr (a : SReg) (imm : KReg) (s : State) : Out :=
  if kAccess imm = .sw && !(s.launch s.cur.tile).mgmt then .next (s.trap .priv (wordOf (.kregWr a imm)))
  else .next (s.issue (.kregWr a imm) false fun s => s.kwrite imm (s.th.getS a) (wordOf (.kregWr a imm)))

/-- kreg.set and kreg.clr: RW registers only, otherwise PRIV (R115). -/
def kregModForm (i : Instr) (a : SReg) (k : KReg) (f : Word → Word → Word) (s : State) : Out :=
  .next (s.issue i false fun s =>
    if kAccess k = .rw then s.kwriteRW k (f (s.kread s.cur k) (s.th.getS a)) (wordOf i)
    else .trap .priv (wordOf i))

def execKregSet (a : SReg) (imm : KReg) (s : State) : Out :=
  kregModForm (.kregSet a imm) a imm (fun k x => k ||| x) s
def execKregClr (a : SReg) (imm : KReg) (s : State) : Out :=
  kregModForm (.kregClr a imm) a imm (fun k x => k &&& ~~~x) s

/-! ## sys (R116 to R118) -/

def execSysNop (s : State) : Out := .next (s.issue .sysNop false fun s => .next s)
def execSysBreak (code : BitVec 10) (s : State) : Out :=
  .next (s.issue (.sysBreak code) false fun _ => .trap .brk (wordOf (.sysBreak code)))
def execSysScall (code : BitVec 10) (s : State) : Out :=
  .next (s.issue (.sysScall code) false fun _ => .trap .syscall (wordOf (.sysScall code)))

end Sys2Proof.Machine
end

