-- ==== Sys2Proof/Machine/StatePort.lean ====
section
/-!
DEFINITION. The state that window kinds 8, 10, 11 and 12 show: thread registers (R396), event banks (R256), matrix
accumulators (R230) and copy-unit status (R205).
-/
namespace Sys2Proof.Machine

/-! ## Kind 8: thread registers (R396) -/

/-- The state codes of R396; the TrapEntry code is not listed there (log 15). -/
def ThreadState.code : ThreadState → Nat
  | .empty => 0
  | .running => 1
  | .waiting => 2
  | .trapEntry => 3
  | .suspending => 4
  | .stopped => 5

/-- The state code of a thread (R12, R396): a running thread whose next instruction R15, R17 or R155 holds back waits, and so does
one whose sys.tret waits; a slot whose record or frame is being written is suspending. -/
def Thread.code (t : Thread) (now : Nat) : Nat :=
  if t.st == .running && (t.strmWait.isSome || t.busy && (t.look == 0 || t.held)) then ThreadState.code .waiting
  else if t.susp == some .tret then ThreadState.code .waiting
  else if t.st == .empty && now < t.notBefore then ThreadState.code .suspending
  else t.st.code

/-- p0 to p7 as bits. -/
def Thread.predByte (t : Thread) : Nat :=
  (List.range 8).foldl (fun acc i => acc + if t.getP (BitVec.ofNat 3 i) then 2 ^ i else 0) 0

/-- The control registers of 0x318 to 0x368, in order. -/
def savedKregs : List KReg :=
  [.tbm, .fflags, .frm, .tpc, .tinst, .tcause, .tval, .tstat, .loopcnt, .loopstart, .loopend]

/-- The doubleword at an 8-byte aligned offset of a thread's 1,024 bytes (R396). -/
def State.threadField (s : State) (r : ThreadRef) (o : Nat) : Word :=
  let t := s.thread r
  if o < 0x100 then t.getS (BitVec.ofNat 5 (o / 8))
  else if o < 0x300 then (t.getV (BitVec.ofNat 4 ((o - 0x100) / 32))).extractLsb' (8 * (o % 32)) 64
  else if o = 0x300 then
    BitVec.ofNat 64 (t.predByte + (if t.ready then 256 else 0) + (if t.watch.isSome then 512 else 0))
  else if o = 0x308 then
    match t.watch with
    | some w => amAddr r.tile r.core 0 (4 * w)
    | none => 0
  else if o = 0x310 then t.pc
  else if o < 0x370 then
    match savedKregs[(o - 0x318) / 8]? with
    | some k => s.kread r k
    | none => 0
  else if o = 0x370 then t.w2 ++ t.w1
  else if o = 0x378 then BitVec.ofNat 64 (t.w3.toNat + t.code (s.now r.tile) * 2 ^ 32 + t.mig.2 % 256 * 2 ^ 40)
  else if o = 0x380 then t.mseq[3] ++ t.mseq[2] ++ t.mseq[1] ++ t.mseq[0]
  else if o = 0x388 then t.mseq[7] ++ t.mseq[6] ++ t.mseq[5] ++ t.mseq[4]
  else if o = 0x390 then zx t.cseq
  else 0

/-! ## Kind 10: event banks and counters (R256) -/

/-- The doubleword at an 8-byte aligned kind-10 offset. -/
def EvEngine.field (e : EvEngine) (o : Nat) : Word :=
  if o < 0x4_0000 then e.neurons.getD (o / 8) 0
  else match (o - 0x4_0000) / 8 with
  | 0 => BitVec.ofNat 64 (e.t % 2 ^ 24)
  | 1 => BitVec.ofNat 64 (e.queue.length % 2 ^ 13)
  | 2 => BitVec.ofNat 64 (min (e.h.getD 0xFF_FFFF) 0xFF_FFFF)
  | 3 => e.late
  | 4 => e.undecl
  | 5 => e.badkind
  | 6 => e.badidx
  | 7 => e.badfan
  | 8 => e.overflow
  | 9 => e.fanref
  | 10 => e.ldrop
  | _ => 0

/-! ## Kind 11: matrix accumulators (R230) -/

/-- A word at a 4-byte aligned kind-11 offset. -/
def Tile.mxField (t : Tile) (o : Nat) : Nat :=
  if o < 0x8040 then t.mx.acc.readNat o 4
  else if o < 0x8080 then
    (if o % 8 = 0 then (t.cores[(o - 0x8040) / 8 % 8]'(Nat.mod_lt _ (by decide))).mxflags.toNat else 0)
  else 0

/-- Writes one byte of the accumulator file; flag bytes keep their defined bits, what lies beyond is read-only (R230, R6). -/
def Tile.mxPutByte (t : Tile) (o : Nat) (b : Byte) : Tile :=
  if o < 0x8000 then { t with mx := { t.mx with acc := t.mx.acc.writeByte o b } }
  else if o < 0x8040 then { t with mx := { t.mx with acc := t.mx.acc.writeByte o (b &&& 7) } }
  else if o < 0x8080 then
    (if o % 8 = 0 then t.modCore ⟨(o - 0x8040) / 8 % 8, Nat.mod_lt _ (by decide)⟩ fun c => { c with mxflags := b.setWidth 5 }
     else t)
  else t

/-- Writes bytes of the accumulator file. -/
def Tile.mxPut (t : Tile) (o : Nat) (bs : List Byte) : Tile :=
  (bs.zipIdx).foldl (fun t (b, i) => t.mxPutByte (o + i) b) t

/-! ## Kind 12: copy-unit status (R205) -/

def CopyUnit.chan (c : CopyUnit) (k : Nat) : Chan := c.chans.getD k {}

/-- Flits that wait in a channel's buffers. -/
def CopyUnit.held (c : CopyUnit) (k : Nat) : Nat := (c.inj.filter fun x => x.chan == some k).length

/-- Free flit buffers: 512 less those that hold a flit (R199, R205). -/
def CopyUnit.poolFree (c : CopyUnit) : Nat := 512 - (c.inj.filter fun x => x.chan.isSome).length

/-- A tile's health count: the checks of the module that the tile passed (R430). -/
def State.health (s : State) (tile : Nat) : W32 := BitVec.ofNat 32 (s.md.checks - (s.tile tile).missed)

/-- The doubleword at an 8-byte aligned kind-12 offset. -/
def CopyUnit.field (c : CopyUnit) (health : W32) (o : Nat) : Word :=
  if o < 0x400 then
    let k := c.chan (o / 16)
    if o % 16 = 0 then k.ct ++ k.last
    else BitVec.ofNat 64 ((if k.run.isSome then 2 ^ 42 else 0) + (if k.fpend.isSome then 2 ^ 41 else 0)
      + (if k.fail.valid then 2 ^ 40 else 0) + k.fail.status.toNat * 2 ^ 32 + k.fail.id % 2 ^ 32)
  else match (o - 0x400) / 8 with
  | 0 => c.rpost
  | 1 => c.rsmp
  | 2 => zx c.bepoch
  | 3 => c.orphan ++ c.pfxdrop
  | 4 => BitVec.ofNat 64 c.poolFree
  | 5 => zx health
  | _ => 0

/-! ## Any of the state windows -/

/-- n bytes at an offset of window kind 8, 10, 11 or 12 of a core of a tile. -/
def State.portBytes (s : State) (tile : Nat) (core : Fin 8) (kind o n : Nat) : List Byte :=
  (List.range n).map fun i =>
    let a := o + i
    let w : Nat := match kind with
      | 8 => (s.threadField ⟨tile, core, ⟨a / 0x400 % 16, Nat.mod_lt _ (by decide)⟩⟩ (a % 0x400 / 8 * 8)).toNat
      | 10 => ((s.tile tile).ev.field (a / 8 * 8)).toNat
      | 11 => (s.tile tile).mxField (a / 4 * 4) * (if a / 4 % 2 = 1 then 2 ^ 32 else 1)
      | _ => ((s.tile tile).copy.field (s.health tile) (a / 8 * 8)).toNat
    BitVec.ofNat 8 (w / 2 ^ (8 * (a % 8)))

end Sys2Proof.Machine
end

