-- ==== Sys2Proof/Machine/Units.lean ====
section
/-!
DEFINITION. Units: continuation records, completion counters, suspension, pick-up, cancellation, and the return from a
trap (spec/04 R117 to R136, spec/16 R335 to R343).
-/
namespace Sys2Proof.Machine

/-! ## Continuation records (R120 to R122) -/

def w1Root (w1 : W32) : Bool := w1.getLsbD 8
def w1Det (w1 : W32) : Bool := w1.getLsbD 9
def w1Cx (w1 : W32) : Bool := w1.getLsbD 10
def w1Pin (w1 : W32) : Bool := w1.getLsbD 11
def w1Rw (w1 : W32) : Bool := w1.getLsbD 12
def w1Cv (w1 : W32) : Bool := w1.getLsbD 31
/-- The child counter of a state word, as a tile-relative offset (R121, R123). -/
def childCounter (w1 : W32) : Nat := (w1.extractLsb' 28 3).toNat * 0x4_0000 + (w1.extractLsb' 13 15).toNat * 8
/-- Puts a child counter into a state word: cv, ccore, cword. -/
def setChild (w1 : W32) (c : Nat) : W32 :=
  (1 : BitVec 1) ++ BitVec.ofNat 3 (c / 0x4_0000) ++ BitVec.ofNat 15 (c % 0x4_0000 / 8) ++ w1.extractLsb' 0 13

/-- The predicates p1 to p7 in bits [7:1] (R122). -/
def Thread.predBits (t : Thread) : W32 :=
  (List.range 7).foldl (fun acc i => if t.getP (BitVec.ofNat 3 (i + 1)) then acc ||| (1 : W32) <<< (i + 1) else acc) 0

/-- The unit has been cancelled and has not met its end: its CANCEL is held, or its clean-up runs (R20, R119). -/
def Thread.cancelled (t : Thread) : Bool := t.cxh || t.hcx

/-- The record of a thread that suspends at `pc` (R120); cx says that its unit has been cancelled (R121, log 98). -/
def Thread.record (t : Thread) (pc : Word) (w1 : W32) : Vector W32 16 :=
  let w : Vector W32 16 := Vector.replicate 16 0
  let w := w.set 0 (pc.setWidth 32)
  let w := w.set 1 (if t.cancelled then w1 ||| 0x400 else w1)
  let w := w.set 2 t.w2
  let w := w.set 3 ((t.w3 &&& 0xFFFF_FF00) ||| t.predBits)
  (List.finRange 12).foldl (fun w i =>
    w.set (4 + i.val) ((t.getS (BitVec.ofNat 5 (i.val + 1))).setWidth 32) (by omega)) w

/-- A slot that becomes Empty keeps what belongs to the hardware thread: its message and call-at sequences (R185, R131)
and the count of its instructions. -/
def Thread.clear (t : Thread) : Thread :=
  { mseq := t.mseq, cseq := t.cseq, nextOp := t.nextOp }

/-- A slot that a unit has left: its flags stay to be read until the next unit is picked up, everything else goes (R124, R130, R314). -/
def Thread.vacate (t : Thread) : Thread := { t.clear with fflags := t.fflags }

/-! ## Deques (R336) -/

def Core.entries (c : Core) : Nat := (List.finRange 4).foldl (fun n q => n + c.deque[q].length) 0
/-- A deque holds 32 + 512 entries, those included that spawns under way keep (R126). -/
def Core.dequeFull (c : Core) : Bool := 544 ≤ c.entries + c.kept
def Core.pushTop (c : Core) (e : Entry) : Core :=
  let q := prioOf e.w[1]
  let (e, c) := c.takeEntry e
  { c with deque := c.deque.set q (c.deque[q] ++ [e]) }

/-- The key of a record that a run suspends (R343). -/
def suspKey (det : Bool) (run : Nat) : Option (Nat × Nat) := if det then some (run, 2 ^ 32 - 1) else none

/-! ## Completion counters (R123) -/

/-- Whether a counter operand names a counter of the tile (R123). -/
def counterOk (x : Word) : Bool := x &&& ~~~0x1F_FFF8 == 0
def ctrCore (c : Nat) : Fin 8 := ⟨c / 0x4_0000 % 8, Nat.mod_lt _ (by decide)⟩
def ctrOff (c : Nat) : Nat := c % 0x4_0000
def State.ctr (s : State) (tile c : Nat) : Nat := s.lmRead tile (ctrCore c) (ctrOff c) 8
def ctrMark (x : Nat) : Bool := 2 ^ 63 ≤ x
def ctrCount (x : Nat) : Nat := x % 2 ^ 63
def ctrPut (count : Nat) (mark : Bool) : Nat := count % 2 ^ 63 + if mark then 2 ^ 63 else 0
def State.setCtr (s : State) (tile c x : Nat) (src : Option ThreadRef := none) : State :=
  s.lmWrite tile (ctrCore c) (ctrOff c) 8 x src

/-- The memory port of a counter and its bank (R123, R163). -/
def ctrBank (c : Nat) : Nat := LmPlace.bank ⟨ctrCore c, ctrOff c⟩

/-- An operation of a unit on a counter, as it leaves for the counter's home port, behind the unit's earlier accesses of its bank
(R123, R164). -/
def State.counterAccess (s : State) (r : ThreadRef) (c : Nat) (act : Act) : Access :=
  let t := s.thread r
  { r := r, owner := t.owner, op := t.nextOp, addr := t.pc, va := BitVec.ofNat 64 c, place := .lm (ctrCore c) (ctrOff c), n := 8
    act := act, banks := [ctrBank c], at_ := s.now r.tile + s.portReach r (ctrCore c), lag := s.portLag r (ctrCore c) 0 }

/-- The end of a unit sends the decrement of its parent counter to its home port (R130, R133). -/
def State.sendDec (s : State) (r : ThreadRef) : State :=
  let t := s.thread r
  if t.w2 = 0 then s else (s.modThread r Thread.takeOp).sendAccess (s.counterAccess r t.w2.toNat .dec)

/-- Moves every record joined on a counter to the bottom of its deque (R129). -/
def Core.wakeJoined (c : Core) (ctr : Nat) : Core :=
  let woken := c.park.filter fun e => e.1 == .counter ctr
  woken.foldl (fun c e => c.pushBottom e.2) { c with park := c.park.filter fun e => e.1 != .counter ctr }

/-- count(C) ← (count(C) − 1) mod 2^63 at the home port; at 0 the joins wake (R129, R130). -/
def State.decCtr (s : State) (tile c : Nat) (src : Option ThreadRef := none) : State :=
  let x := s.ctr tile c
  let n := (ctrCount x + 2 ^ 63 - 1) % 2 ^ 63
  let s := s.setCtr tile c (ctrPut n (ctrMark x)) src
  if n = 0 then (List.finRange 8).foldl (fun s k => s.modCore tile k fun co => co.wakeJoined c) s else s

/-! ## The end of a unit (R130, R133, R134) -/

/-- A root's end is reported to the tile's activation (R130, R260). -/
def State.rootEnded (s : State) (tile : Nat) (w1 : W32) : State :=
  if w1Root w1 then s.modTile tile fun t => { t with rootsLeft := t.rootsLeft - 1 } else s

/-- A binding ends: an output's data are the copy unit's, an input's are discarded; the channel completes the binding's
transfer in a time the spec does not fix (R195, R200, R222). -/
def State.dropBind (s : State) (r : ThreadRef) (b : StrmBind) : State :=
  let b := if b.out then b else { b with buf := [], coming := none }
  let (k, s) := s.takeFresh
  let s := s.modTile r.tile fun t => { t with
    drains := t.drains ++ [b]
    copy := { t.copy with chans := t.copy.chans.set b.chan.val { t.copy.chans.getD b.chan.val {} with bound := false } } }
  s.atTile r.tile (1 + Config.freeLatency k) .copyCompletion ⟨r.tile, 0, 0⟩ { n := b.chan.val, w := zx b.xid, ok := false }

/-- Ends a thread's bindings as strm.unbind does (R195). -/
def State.unbindAll (s : State) (r : ThreadRef) : State :=
  ((s.thread r).binds.foldl (fun s b => s.dropBind r b.2) s).modThread r fun t => { t with binds := [] }

/-- A run of a determinate launch ends by suspension or retirement (R343). -/
def Core.endRun (c : Core) (run : Nat) : Core := { c with openRuns := c.openRuns.filter (· != run) }

/-- The slot becomes Empty. -/
def State.emptySlot (s : State) (r : ThreadRef) : State :=
  let run := (s.thread r).run
  ((s.unbindAll r).modThread r Thread.vacate).modCore r.tile r.core fun c => c.endRun run

/-- The end of the accounting of a unit that holds no slot at its cancellation end, without its child counter (R133). -/
def State.cancelAccount (s : State) (tile : Nat) (w1 w2 : W32) (src : Option ThreadRef := none) : State :=
  let s := if w2 ≠ 0 then s.decCtr tile w2.toNat src else s
  s.rootEnded tile w1

/-- The counter that a cancelled unit's end cancels in turn (R133). -/
def childOf (w1 : W32) : List Nat := if w1Cv w1 then [childCounter w1] else []

/-- The frame of an entry is free. -/
def Core.freeOf (c : Core) (e : Entry) : Core :=
  match e.frame with
  | some f => { c with frames := c.frames.erase f }
  | none => c

/-- The slot of a unit that ends becomes Empty; its parent counter and its activation are told (R130, R133). -/
def State.endUnit (s : State) (r : ThreadRef) : State :=
  let w1 := (s.thread r).w1
  ((s.sendDec r).emptySlot r).rootEnded r.tile w1

/-- Cancels counters at the unit level, in turn (R134 level 0, R133): the mark is set; parked and stopped units meet
their cancellation end at once, which may cancel their own child counters; running and waiting units receive CANCEL. `src` is
the thread whose doing it is. -/
def State.cancelCounters (s : State) (tile : Nat) (src : Option ThreadRef) : Nat → List Nat → State
  | 0, _ => s
  | _ + 1, [] => s
  | fuel + 1, c :: rest =>
    let s := s.setCtr tile c (ctrPut (ctrCount (s.ctr tile c)) true) src
    let cores := List.finRange 8
    -- parked units
    let mine (e : ParkKey × Entry) : Bool := e.2.w[2].toNat == c
    let parked := cores.flatMap fun k => ((s.core tile k).park.filter mine).map (·.2)
    let s := cores.foldl (fun s k => s.modCore tile k fun co =>
      (co.park.filter mine).foldl (fun co e => co.freeOf e.2) { co with park := co.park.filter fun e => !mine e }) s
    let s := parked.foldl (fun s e => s.cancelAccount tile e.w[1] e.w[2] src) s
    let kids := parked.flatMap fun e => childOf e.w[1]
    -- stopped units end, running and waiting ones receive CANCEL
    let refs := cores.flatMap fun k => (List.finRange 16).map fun h => (⟨tile, k, h⟩ : ThreadRef)
    let mine := refs.filter fun r => (s.thread r).st != .empty && (s.thread r).w2.toNat == c
    let stopped := mine.filter fun r => (s.thread r).st == .stopped
    let kids := kids ++ stopped.flatMap fun r => childOf (s.thread r).w1
    let s := stopped.foldl (fun s r => s.endUnit r) s
    let s := (mine.filter fun r => (s.thread r).st != .empty).foldl (fun s r => s.atTile tile 0 .cancel r) s
    State.cancelCounters s tile src fuel (rest ++ kids)

/-- Enough turns for every unit of a tile to be cancelled once. -/
def cancelFuel : Nat := 1024

/-- The cancellation end of the unit in a slot (R133). -/
def State.cancelEnd (s : State) (r : ThreadRef) : State :=
  let w1 := (s.thread r).w1
  (s.endUnit r).cancelCounters r.tile (some r) cancelFuel (childOf w1)

/-! ## Suspension (R127 to R130) -/

/-- Enters a message into a send queue with room: it may cross from the next cycle on (R32, R185). -/
def State.enqueueMsg (s : State) (r : ThreadRef) (dst : Fin 8) (m : Msg) : State :=
  s.modCore r.tile r.core fun c => { c with sendq := c.sendq.set dst (c.sendq[dst] ++ [m]) }
def State.sendRoom (s : State) (r : ThreadRef) (dst : Fin 8) : Bool := (s.core r.tile r.core).sendq[dst].length < 8

/-- Pushes the thread's record at the top of its deque and empties the slot (R127). -/
def State.yieldAt (s : State) (r : ThreadRef) (pc : Word) (w1 : W32) : State :=
  let t := s.thread r
  let e : Entry := { w := t.record pc w1, key := suspKey (w1Det w1) t.run }
  (s.emptySlot r).modCore r.tile r.core fun c => c.pushTop e

/-- Puts the thread's record into the park table, or yields when it is full (R128, R129). -/
def State.parkAt (s : State) (r : ThreadRef) (k : ParkKey) (pc : Word) (w1 : W32) : State :=
  let t := s.thread r
  if 64 ≤ (s.core r.tile r.core).park.length then s.yieldAt r pc w1
  else
    let e : Entry := { w := t.record pc w1, key := suspKey (w1Det w1) t.run }
    (s.emptySlot r).modCore r.tile r.core fun c => { c with park := c.park ++ [(k, e)] }

/-- The state word with rw set or cleared (R121). -/
def setRw (w1 : W32) (b : Bool) : W32 := if b then w1 ||| 0x1000 else w1 &&& ~~~0x1000

/-! ## Displaced frames (R336, R339, R396) -/

/-- A frame of the core that is free. -/
def Core.freeFrame (c : Core) : Option Nat := (List.range 16).find? fun i => !(c.frames.has i)

/-- Writes a thread's 1,024 bytes into a frame (R336, R396). -/
def State.saveFrame (s : State) (r : ThreadRef) (i : Nat) : State :=
  let o := frameOff (s.launch r.tile) i
  let t := s.thread r
  let lm := (List.range 128).foldl (fun m k => m.writeNat (o + 8 * k) 8 (s.threadField r (8 * k)).toNat)
    (s.core r.tile r.core).lm
  s.modCore r.tile r.core fun c => { c with lm := lm, frames := c.frames.set i t }

/-- The thread that 1,024 bytes hold, in the layout of R396; `base` gives what they do not hold. -/
def Thread.ofFields (base : Thread) (l : Launch) (get : Nat → Word) : Thread :=
  let pb := get 0x300
  let ts := get 0x348
  { base with
    s := Vector.ofFn fun i : Fin 32 => get (8 * i.val)
    v := Vector.ofFn fun i : Fin 16 =>
      get (0x118 + 32 * i.val) ++ get (0x110 + 32 * i.val) ++ get (0x108 + 32 * i.val) ++ get (0x100 + 32 * i.val)
    p := Vector.ofFn fun i : Fin 8 => pb.getLsbD i.val
    ready := pb.getLsbD 8
    watch := if pb.getLsbD 9 then some ((lmPlace l (get 0x308)).off / 4) else none
    pc := get 0x310
    tbm := get 0x318, fflags := (get 0x320).setWidth 5, frm := (get 0x328).setWidth 2, tpc := get 0x330
    tinst := get 0x338, tcause := get 0x340 &&& 0xFFFF_01FF, tval := ts
    ih := (get 0x350).getLsbD 0, hcx := (get 0x350).getLsbD 1, cxh := (get 0x350).getLsbD 2
    loopcnt := get 0x358, loopstart := get 0x360, loopend := get 0x368
    w1 := (get 0x370).setWidth 32, w2 := (get 0x370).extractLsb' 32 32, w3 := (get 0x378).setWidth 32
    mig := (base.mig.1, ((get 0x378).extractLsb' 40 8).toNat)
    mseq := Vector.ofFn fun i : Fin 8 => (get (0x380 + i.val / 4 * 8)).extractLsb' (16 * (i.val % 4)) 16
    cseq := (get 0x390).setWidth 16 }

/-- The thread that a frame holds. -/
def State.loadFrame (s : State) (tile : Nat) (core : Fin 8) (i : Nat) : Thread :=
  let c := s.core tile core
  let l := s.launch tile
  Thread.ofFields (c.frames.getD i {}) l fun o => BitVec.ofNat 64 (c.lm.readNat (frameOff l i + o) 8)

/-- A thread whose suspension does not come about goes on. -/
def Thread.unsuspend (t : Thread) : Thread := { t with st := .running, susp := none }

/-- Arms the watch bit of the word that a task.park names (R128): a word already watched keeps its
ready bit, another one starts with a clear one (DESIGN CHOICE: R128 says neither; log 95). -/
def Thread.arm (t : Thread) (w : Nat) : Thread := if t.watch = some w then t else { t with watch := some w, ready := false }

/-- A thread whose sys.tret waits for nothing any more leaves its handler, or traps, or ends (R20, R117, R119). The pc is still
that of the sys.tret. -/
def State.tretNow (s : State) (r : ThreadRef) : State :=
  let t := s.thread r
  match targetFault (s.launch r.tile).csize t.tpc with
  | some c => (s.modThread r Thread.unsuspend).raise r ⟨c, t.tpc, t.pc, t.pc, false⟩
  | none =>
    if t.cxh then s.modThread r fun t => { t with st := .suspending, susp := some .cancelEnd }
    else
      -- a CANCEL, or another trap, held while the handler ran is raised at the next boundary (R20)
      let s := s.modThread r fun t =>
        { (t.unsuspend.goto t.tpc) with ih := false, hcx := false, heldAsync := if t.hcx then t.heldAsync else t.heldAsync.drop 1 }
      if t.hcx then s.atTile r.tile 0 .cancel r
      else match t.heldAsync with
        | p :: _ => s.raise r { p with tpc := t.tpc }
        | [] => s

/-- A waiting sync.waitw gives its slot up (R340): the state goes to a frame, an entry keyed by the watched word to the park
table; its timeout runs on; the slot is Empty 32 cycles later. With no frame or place left it goes on waiting in its slot. -/
def State.waitPark (s : State) (r : ThreadRef) : State :=
  let t := s.thread r
  let c := s.core r.tile r.core
  let expiry := t.outst.foldl (fun m o => max m (o.start + o.limit.getD 0)) 0
  match if c.park.length < 64 && s.now r.tile < expiry then c.freeFrame else none with
  | none => s.modThread r Thread.unsuspend
  | some fi =>
    let s := (s.modThread r Thread.unsuspend).saveFrame r fi
    let e : Entry := { w := t.record t.pc t.w1, frame := some fi }
    let s := s.modThread r fun t => { t.clear with notBefore := s.now r.tile + 32 }
    let s := s.modCore r.tile r.core fun c => { c with park := c.park ++ [(.waitw (t.watch.getD 0) expiry, e)] }
    s.atTile r.tile (expiry - s.now r.tile) .waitTimeout r { n := fi, m := 1 } true

/-- A suspension takes effect, when nothing of the thread is outstanding (R117, R127 to R130, R133, R339, R340). The pc is still
that of the suspending instruction. A park that continues watches no word any more (DESIGN CHOICE, log 95). A unit that has been
cancelled meets its end where it would park (R134, log 98). A join's test comes after the unit's earlier accesses of the counter's
bank (R164). -/
def State.suspend (s : State) (r : ThreadRef) : Suspend → State
  | .yield => s.yieldAt r ((s.thread r).pc + 4) (setRw (s.thread r).w1 false)
  | .park w =>
    let t := (s.thread r).arm w
    if t.ready then s.modThread r fun t => { t.unsuspend with ready := false, watch := none }.advanceFrom t.pc
    else if t.cancelled then s.cancelEnd r
    else s.parkAt r (.word w) (t.pc + 4) (setRw t.w1 false)
  | .join c none =>
    s.modThread r fun t => { t with susp := some (.join c (some (s.now r.tile + s.portReach r (ctrCore c)))) }
  | .join c (some _) =>
    if (s.tile r.tile).unperformed (s.thread r).owner (ctrBank c) then s
    else if ctrCount (s.ctr r.tile c) = 0 then
      let back := if r.core = ctrCore c then 0 else crossLat (ctrCore c) r.core (s.now r.tile)
      s.modThread r fun t => { t.unsuspend with notBefore := s.now r.tile + back }.advanceFrom t.pc
    else if (s.thread r).cancelled then s.cancelEnd r
    else s.parkAt r (.counter c) (s.thread r).pc (setRw (s.thread r).w1 true)
  | .tret => s.tretNow r
  | .waitPark => s.waitPark r
  | .retire v =>
    let t := s.thread r
    let owed := t.w3.getLsbD 15
    let dst : Fin 8 := (t.w3.extractLsb' 12 3).toFin
    if owed && !s.sendRoom r dst then s
    else
      let s := if owed then
          s.enqueueMsg r dst ⟨v, r.core, r.thr, t.w3.extractLsb' 16 16, some (t.w3.extractLsb' 8 4).toFin, s.now r.tile + 1⟩
        else s
      s.endUnit r
  | .cancelEnd => s.cancelEnd r
  | .displace =>
    let t := s.thread r
    match (s.core r.tile r.core).freeFrame with
    | none => (s.modThread r Thread.unsuspend).modCore r.tile r.core fun c => { c with displacing := none }
    | some fi =>
      let e : Entry := { w := t.record t.pc t.w1, frame := some fi }
      let s := (s.modThread r Thread.unsuspend).saveFrame r fi
      (s.modThread r fun t => { t.clear with notBefore := s.now r.tile + 32 }).modCore r.tile r.core fun c => c.pushBottom e

/-- A slot that is Empty, and not while its last unit's state is still being written (R337 to R339). -/
def Thread.vacant (t : Thread) (now : Nat) : Bool := t.st == .empty && t.notBefore ≤ now

/-- Whether a suspension is made in the step that begins it, when nothing is outstanding: the tests of task.park and task.join, and
a wait-parking, are phase 2 of the cycle (R128, R129, R170). -/
def Suspend.atOnce : Suspend → Bool
  | .park _ => false
  | .join _ _ => false
  | .waitPark => false
  | _ => true

/-- The instruction suspends its thread: at once when nothing is outstanding, else when nothing is (R12 Suspending). It waits for an
outstanding instruction that only s0 or p0 would receive too (DESIGN CHOICE: R127 names the pending set, which R15 keeps those out
of; log 95). The 256th instruction of a CANCEL's clean-up suspends nothing: the unit meets its end (R119). -/
def State.beginSuspend (s : State) (r : ThreadRef) (x : Suspend) : State :=
  let x := if (s.thread r).cxh && (s.thread r).budget = 0 then .cancelEnd else x
  let s := s.modThread r fun t => { t with st := .suspending, susp := some x }
  if (s.thread r).outst.isEmpty && x.atOnce then s.suspend r x else s

/-- Whether a suspension takes effect now, nothing being outstanding (R127 to R130): in the thread's own slot, or, of the end of a
handler or of a cancelled unit, as soon as it can; a join's test when it reaches the counter's port. -/
def Suspend.due (x : Suspend) (now : Nat) (thr : Fin 16) : Bool :=
  match x with
  | .cancelEnd => true
  | .tret => true
  | .join _ (some n) => n ≤ now
  | _ => now % 16 == thr.val

/-! ## Pick-up (R124, R337, R343) -/

/-- Whether an entry may be picked up in a determinate launch, by its key (R343). -/
def Core.detEligible (c : Core) (k : Nat × Nat) : Bool :=
  let below (x : Nat × Nat) : Bool := x.1 < k.1 || (x.1 == k.1 && x.2 < k.2)
  !(c.openRuns.any (· ≤ k.1)) && !(c.park.any fun e => match e.2.key with
    | some x => below x
    | none => false)

/-- The smaller of two keyed entries. -/
def keyMin (a b : Entry) : Entry :=
  match a.key, b.key with
  | some x, some y => if y.1 < x.1 || (y.1 == x.1 && y.2 < x.2) then b else a
  | _, _ => a

/-- The entry a slot picks up: the bottom of the highest non-empty level, or by key in a determinate launch. -/
def Core.nextEntry (c : Core) (det : Bool) : Option Entry :=
  let all := c.entryList
  if !det then all.head?
  else
    match all.filter fun e => match e.key with
      | some k => c.detEligible k
      | none => false with
    | e :: es => some (es.foldl keyMin e)
    | [] =>
      match all.filter fun e => e.key.isNone with
      | e :: es => some (es.foldl (fun a b => if b.stamp < a.stamp then b else a) e)
      | [] => none

def Core.removeEntry (c : Core) (e : Entry) : Core :=
  { c with deque := c.deque.mapIdx fun _ es => es.filter fun x => x.stamp != e.stamp }

/-- The state a thread has when it picks a record up (R124): registers from the record, all else at launch values. -/
def Thread.ofRecord (t : Thread) (w : Vector W32 16) : Thread :=
  let base : Thread := { t.clear with st := .running, pc := zx w[0], w1 := w[1], w2 := w[2], w3 := w[3] }
  let base := (List.finRange 12).foldl (fun b i => b.setS (BitVec.ofNat 5 (i.val + 1)) (sx w[4 + i.val])) base
  (List.finRange 7).foldl (fun b i => b.setP (BitVec.ofNat 3 (i.val + 1)) (w[3].getLsbD (i.val + 1))) base

/-- A record's PC is checked before the first instruction (R124, R107). -/
def State.checkPc (s : State) (r : ThreadRef) : State :=
  let pc := (s.thread r).pc
  match targetFault (s.launch r.tile).csize pc with
  | some c => s.raise r ⟨c, pc, pc, pc, false⟩
  | none => s

/-- The number of a new unit of a tile (R165). -/
def State.takeOwner (s : State) (tile : Nat) : Nat × State :=
  ((s.tile tile).owners, s.modTile tile fun t => { t with owners := t.owners + 1 })

/-- A wait-parked sync.waitw completes with an outcome (R340). -/
def Thread.endWatch (t : Thread) (out : Bool) : Thread :=
  t.outst.foldl (fun t o => match o.cond with
    | .watch tp => { (t.setP tp out) with outst := t.outst.filter fun x => x.id != o.id, ready := false }
    | _ => t) t

/-- An Empty slot picks an entry up; a unit that has been cancelled, by its counter's mark or its record's cx, meets its end instead
(R121, R124, R134, R337, R340). -/
def State.pickUp (s : State) (r : ThreadRef) : State :=
  let det := (s.launch r.tile).det
  match (s.core r.tile r.core).nextEntry det with
  | none => s
  | some e =>
    let e := (s.core r.tile r.core).entryNow e
    let s := s.modCore r.tile r.core fun c =>
      { c.removeEntry e with displacing := if c.displacing = some r.thr then none else c.displacing }
    let w1 := e.w[1]
    let w2 := e.w[2]
    if w1Cx w1 || (w2 != 0 && ctrMark (s.ctr r.tile w2.toNat)) then
      let s := s.modCore r.tile r.core fun c => c.freeOf e
      (s.cancelAccount r.tile w1 w2 (some r)).cancelCounters r.tile (some r) cancelFuel (childOf w1)
    else
      let run := (s.core r.tile r.core).nextRun
      let s := s.modCore r.tile r.core fun c =>
        { c with picks := c.picks + 1, nextRun := c.nextRun + 1, openRuns := c.openRuns ++ [run] }
      let stamp (t : Thread) (d : Nat) : Thread :=
        { t with run := run, picked := (s.core r.tile r.core).picks, notBefore := s.now r.tile + d }
      match e.frame with
      | some f =>
        let saved := s.loadFrame r.tile r.core f
        let s := s.modCore r.tile r.core fun c => { c with frames := c.frames.erase f }
        let s := s.modThread r fun t => stamp { saved with nextOp := max t.nextOp saved.nextOp } 32
        -- faults that reached the frame are told to the thread when it runs (R18)
        let s := (s.thread r).faulted.foldl (fun s o => s.atTile r.tile 32 .resultArrival r { n := o.id }) s
        let s := match e.waitOut with
          | some out => s.modThread r fun t => t.endWatch out
          | none => s
        s.checkPc r
      | none =>
        let (n, s) := s.takeOwner r.tile
        (s.modThread r fun t => { stamp (t.ofRecord e.w) 16 with owner := n }).checkPc r

/-! ## The task major, sys.tret and sys.cxend (R117, R118, R126 to R130) -/

/-- sys.tret: it waits until nothing is outstanding, then goes back to k.tpc, a taken transfer; in a CANCEL clean-up it ends the
unit (R117, R119). -/
def execSysTret (s : State) : Out :=
  .next (s.issue .sysTret false fun s =>
    let t := s.th
    if !t.ih then .trap .illegal (wordOf .sysTret)
    else .stay (s.beginSuspend s.cur .tret))

/-- sys.cxend: the cancellation end at once (R118). -/
def execSysCxend (s : State) : Out :=
  .next (s.issue .sysCxend false fun s =>
    if !s.th.cxh then .trap .illegal (wordOf .sysCxend) else .stay (s.beginSuspend s.cur .cancelEnd))

/-- A suspension point: forbidden while a loop is active or a register is bound (R112, R195). The k.tval of the LOOP is the instruction
word; LOOP comes before STREAM, and both before the operand traps of task.park and task.join (DESIGN CHOICE: R112 names no value, and
no rule orders these traps; log 93). -/
def suspendCheck (s : State) (i : Instr) : Option Eff :=
  let t := s.th
  if (t.loopLvl false).active || (t.loopLvl true).active then some (.trap .loop (wordOf i))
  else if !t.binds.isEmpty then some (.trap .stream (wordOf i))
  else none

def execTaskYield (s : State) : Out :=
  .next (s.issue .taskYield false fun s =>
    (suspendCheck s .taskYield).getD (.stay (s.beginSuspend s.cur .yield)))

/-- task.park: once nothing is outstanding the word's watch bit is armed in the thread's slot, and the ready bit is tested in phase 2
of it (R128; log 95). -/
def execTaskPark (a : SReg) (s : State) : Out :=
  .next (s.issue (.taskPark a) false fun s =>
    let x := s.th.getS a
    let l := s.launch s.cur.tile
    match suspendCheck s (.taskPark a) with
    | some e => e
    | none =>
      if x &&& 3 != 0 then .trap .align x
      else if !(ownLm l s.cur.tile x 4 && amCore x == s.cur.core) then .trap .xscope x
      else
        let w := (lmPlace l x).off / 4
        .stay ((s.modTh fun t => if t.outst.isEmpty then t.arm w else t).beginSuspend s.cur (.park w)))

def execTaskJoin (a : SReg) (s : State) : Out :=
  .next (s.issue (.taskJoin a) false fun s =>
    let x := s.th.getS a
    match suspendCheck s (.taskJoin a) with
    | some e => e
    | none =>
      if x = 0 then .next s
      else if !counterOk x then .trap .xscope x
      else .stay (s.beginSuspend s.cur (.join x.toNat none)))

def execTaskRetire (a : SReg) (s : State) : Out :=
  .next (s.issue (.taskRetire a) false fun s => .stay (s.beginSuspend s.cur (.retire (s.th.getS a))))

end Sys2Proof.Machine
end

