-- ==== Sys2Proof/Machine/Spawn.lean ====
section
/-!
DEFINITION. Creating units: task.spawn and callat.send (spec/04 R126, R131), and reads of records in global or local memory.
-/
namespace Sys2Proof.Machine

/-- A long-latency instruction whose fault is reported when its result would arrive (R18 deferred). -/
def State.deferFault (s : State) (la : BitVec 4) (dests : List RegRef) (lat : Nat) (c : Cause) (v : Word) : State :=
  (s.modTh fun t => t.addOutst dests (some la) (.faulted c v)).atTile s.cur.tile lat
    .resultArrival s.cur { n := s.th.nextOp }

/-- A latency of at most `bound` tile cycles that the spec does not fix further (R126, R131, R134; log 10). -/
def State.within (s : State) (bound : Nat) : Nat × State :=
  let (k, s) := s.takeFresh
  (1 + Config.freeLatency k % bound, s)

/-- The outcome of reading a record for an instruction. -/
inductive RecRead where
  | ok (bs : List Byte)
  | precise (c : Cause)
  | deferred (c : Cause)
  deriving DecidableEq, Repr

/-- Reads n bytes of a record, at most a page, at an address in global memory or the tile's local memory; `kindOk` says which
window kinds serve (R57, R126 orders 2 to 4, 6 and 7; R152; R194). -/
def State.readRecord (s : State) (tile : Nat) (a : Word) (n : Nat) (kindOk : Nat → Bool) : RecRead :=
  let l := s.launch tile
  if isGlobal a then
    match s.xlat tile a true false, s.xlat tile (a + BitVec.ofNat 64 (n - 1)) true false with
    | .fault _, _ => .deferred .page
    | .refused, _ => .deferred .prot
    | _, .fault _ => .deferred .page
    | _, .refused => .deferred .prot
    | _, _ => .ok ((List.range (n / 4)).flatMap fun i =>
        natToBytes 4 ((s.globalPeek tile (a + BitVec.ofNat 64 (4 * i)) 4).getD 0))
  else if !isTileMap a || !amFormOk a || windowSize l (amKind a) < amOff a + n then .precise .prot
  else if amTile a != tile then .precise .xscope
  else if !kindOk (amKind a) then .precise .prot
  else
    let p := lmPlace l a
    if s.lmBad tile p.core p.off n then .deferred .ue else .ok ((s.core tile p.core).lm.readBytes p.off n)

/-- Word i of a record. -/
def recWord (bs : List Byte) (i : Nat) : W32 := BitVec.ofNat 32 (bytesToNat ((bs.drop (4 * i)).take 4))

/-- Whether a record was read and its word i meets p. -/
def RecRead.anyWord (r : RecRead) (i : Nat) (p : W32 → Bool) : Bool :=
  match r with
  | .ok bs => p (recWord bs i)
  | _ => false

/-- The record a spawn builds from a template (R126). -/
def spawnRecord (tpl : List Byte) (t : Thread) (det : Bool) (c : Nat) : Vector W32 16 :=
  let w1 := recWord tpl 1
  let n := min (w1.extractLsb' 3 3).toNat 4
  let w : Vector W32 16 := Vector.replicate 16 0
  let w := w.set 0 (recWord tpl 0)
  let w := w.set 1 ((w1 &&& 0xC0) ||| (if det then 0x200 else 0))
  let w := w.set 2 (BitVec.ofNat 32 c)
  (List.finRange 4).foldl (fun w i =>
    if i.val < n then w.set (4 + i.val) ((t.getS (BitVec.ofNat 5 (i.val + 1))).setWidth 32) (by omega) else w) w

/-- task.spawn (R126): the template is read in the instruction's own step, in which an entry of the deque is kept when one is free;
the counter decides at its home port, and the deque receives the record there. -/
def execTaskSpawn (d a b : SReg) (la : BitVec 4) (s : State) : Out :=
  let i : Instr := .taskSpawn d a b la
  .next (s.issue i true fun s =>
    let t := s.th
    let tile := s.cur.tile
    let x := t.getS a
    let c := (t.getS b).toNat
    if x &&& 63 != 0 then .trap .align x
    else if isTileMap x && amFormOk x && amTile x != tile then .trap .xscope x
    else
      let rd := s.readRecord tile x 64 (fun k => k == 0 || k == 14)
      -- a register that the record takes is a source operand (R16, R77 step 6; log 29)
      if rd.anyWord 1 fun w => (List.range (min (w.extractLsb' 3 3).toNat 4)).any fun k =>
          t.pending.contains (.s (BitVec.ofNat 5 (k + 1))) then .trap .illegal (wordOf i)
      else match rd with
      | .precise f => .trap f x
      | rd =>
        if !counterOk (t.getS b) then .trap .xscope (t.getS b)
        else
          let (lat, s) := s.within 24
          match rd with
          | .precise f => .trap f x
          | .deferred f => .next (s.deferFault la [.s d] lat f x)
          | .ok tpl =>
            let det := (s.launch tile).det
            let k := t.spawns
            let s := s.modTh fun t => { t with spawns := t.spawns + 1 }
            let full := (s.core tile s.cur.core).dequeFull
            let e : Entry := { w := spawnRecord tpl t det c, key := if det then some (t.run, k) else none }
            if c = 0 then
              if full then .next (s.deferRes la [.s d] lat { s := [(d, 0)] })
              else .next ((s.modCore tile s.cur.core fun co => co.pushBottom e).deferRes la [.s d] lat { s := [(d, 1)] })
            else
              let s := if full then s else s.modCore tile s.cur.core fun co => { co with kept := co.kept + 1 }
              let a := s.counterAccess s.cur c (.spawn d e.w e.key (!full) (s.now tile + lat))
              .next ((s.modTh fun t => t.addOutst [.s d] (some la) (.port none)).sendAccess a))

/-- Sequence numbers run from 1 to 0xFFFF and back to 1 (R131, R185). -/
def nextSeq (x : BitVec 16) : BitVec 16 := if x = 0xFFFF then 1 else x + 1

/-- callat.send (R131). The k.tval of its ALIGN is s[a] (DESIGN CHOICE: R131 names none; log 94). -/
def execCallatSend (d a b : SReg) (la : BitVec 4) (s : State) : Out :=
  .next (s.issue (.callatSend d a b la) true fun s =>
    let t := s.th
    let r := s.cur
    let x := t.getS a
    let y := t.getS b
    if x &&& 3 != 0 then .trap .align x
    else if y &&& ~~~7 != 0 then .trap .illegal y
    else
      let k : Fin 8 := (y.extractLsb' 0 3).toFin
      let (lat, s) := s.within 24
      if (s.core r.tile k).dequeFull then .next (s.deferRes la [.s d] lat { s := [(d, 0)] })
      else
        let seq := nextSeq t.cseq
        let det := (s.launch r.tile).det
        let w : Vector W32 16 := Vector.replicate 16 0
        let w := w.set 0 (x.setWidth 32)
        let w := w.set 1 ((t.w1 &&& 0xC0) ||| (if det then 0x200 else 0) ||| 0x800)
        let w := w.set 3 (seq ++ (1 : BitVec 1) ++ BitVec.ofNat 3 r.core.val ++ BitVec.ofNat 4 r.thr.val ++ (0 : BitVec 8))
        let w := (List.finRange 4).foldl (fun w i =>
          w.set (4 + i.val) ((t.getS (BitVec.ofNat 5 (i.val + 1))).setWidth 32) (by omega)) w
        let s := (s.modTh fun t => { t with cseq := seq }).modCore r.tile k fun co => co.pushBottom { w := w }
        .next (s.deferRes la [.s d] lat { s := [(d, zx seq)] }))

end Sys2Proof.Machine
end

