-- ==== Sys2Proof/Machine/Waits.lean ====
section
/-!
DEFINITION. Outstanding instructions: how a wait is registered, resolved and timed out (spec/06 R158, R159, R436), the crossbar
times of R32, and what the arrival of a result does (R15, R19).
-/
namespace Sys2Proof.Machine

/-- The timeout operand s[b][31:0] (R158). -/
def timeoutOf (x : Word) : Nat := (x.extractLsb' 0 32).toNat

/-- Registers a wait of the current thread: tested from `reach` cycles on, written `lag` cycles after it resolves, with its
timeout when it has one (R158, R436). A timeout of 0 leaves one test, in the cycle the request reaches its place. -/
def State.waitFor (s : State) (la : Option (BitVec 4)) (dests : List RegRef) (cond : Cond) (reach lag : Nat)
    (timeout : Option Nat) : State :=
  let tile := s.cur.tile
  let op := s.th.nextOp
  let s := s.modTh fun t => t.addOutst dests la cond (s.now tile + reach) lag reach timeout
  match timeout with
  | none => s
  | some w => s.atTile tile (if w = 0 then reach else w) .waitTimeout s.cur { n := op } true

/-- Finds an outstanding instruction by its number. -/
def Thread.op? (t : Thread) (op : Nat) : Option Outst := t.outst.find? fun o => o.id == op

/-- A form that a CANCEL abandons: a wait that has not resolved (R119). -/
def Outst.waits (o : Outst) : Bool :=
  match o.cond with
  | .ready _ => false
  | .faulted _ _ => false
  | .port tp => tp.isSome
  | .ro _ _ => false
  | .tload => false
  | .host _ _ _ => false
  | .snap _ _ _ => false
  | .count _ _ => false
  | .clears _ => false
  | _ => true

/-- Replaces the condition of an outstanding instruction. -/
def Thread.setCond (t : Thread) (op : Nat) (c : Cond) : Thread :=
  { t with outst := t.outst.map fun o => if o.id == op then { o with cond := c } else o }

/-- A condition has come to hold: the outcome is known and is written `lag` cycles later (R436). -/
def State.resolveIn (s : State) (r : ThreadRef) (op lag : Nat) (w : Writes) : State :=
  (s.modThread r fun t => t.setCond op (.ready w)).atTile r.tile lag .resultArrival r { n := op }

/-- As `resolveIn`, with the lag of the instruction. -/
def State.resolve (s : State) (r : ThreadRef) (o : Outst) (w : Writes) : State := s.resolveIn r o.id o.lag w

/-- An outstanding instruction turns out to fault (R18 deferred). -/
def State.failOp (s : State) (r : ThreadRef) (op lag : Nat) (c : Cause) (v : Word) : State :=
  (s.modThread r fun t => t.setCond op (.faulted c v)).atTile r.tile lag .resultArrival r { n := op }

/-- The predicate that a timeout sets (R158), of a condition still open. -/
def Cond.timeoutPred : Cond → Option PReg
  | .watch tp => some tp
  | .port tp => tp
  | .send _ _ tp => some tp
  | .recv _ _ _ tp => some tp
  | .cell _ _ _ tp => some tp
  | .sample _ _ _ _ tp => some tp
  | .bar _ tp => some tp
  | .xid _ _ _ tp => some tp
  | .jid _ _ _ tp => some tp
  | .fence _ _ tp _ => some tp
  | .push _ _ _ tp => some tp
  | _ => none

/-- What WAIT_TIMEOUT does to an open condition: the predicate is set and nothing else happens (R158). -/
def State.timeOut (s : State) (r : ThreadRef) (op : Nat) : State :=
  match (s.thread r).op? op with
  | none => s
  | some o =>
    match o.cond.timeoutPred with
    | none => s
    | some tp => s.resolve r o { p := [(tp, true)] }

/-- The trap of a thread whose outstanding instruction has faulted (R18, R19). -/
def Thread.deferredTrap (t : Thread) (o : Outst) (c : Cause) (v : Word) : PendTrap :=
  { cause := c, val := v, first := o.addr, tpc := t.pc, deferred := true }

/-- What RESULT_ARRIVAL does (R15): the result is delivered and its destinations leave the pending set; a waiting form
lets its thread go on; a fault begins a trap entry; a trap entry or suspension that waited for this is made. -/
def State.arrive (s : State) (r : ThreadRef) (op : Nat) : State :=
  let t := s.thread r
  match t.op? op with
  | none => s
  | some o =>
    match o.cond with
    | .ready w =>
      s.modThread r fun t =>
        let t : Thread := { t.deliver (s.core r.tile r.core) w with
          outst := t.outst.filter fun x => x.id != op
          st := if o.hold && t.st == .waiting then .running else t.st }
        if o.hold then t.advanceFrom o.addr else t
    | .faulted c v =>
      match t.trap with
      | some _ => s
      | none => s.raise r (t.deferredTrap o c v)
    | _ => s

/-- Makes a trap entry that waited for outstanding instructions (R19). -/
def State.settleThread (s : State) (r : ThreadRef) : State :=
  if (s.thread r).settled && (s.thread r).trap.isSome then s.atTile r.tile 0 .trapEntry r else s

end Sys2Proof.Machine
end

