-- ==== Sys2Proof/Machine/Ports.lean ====
section
/-!
DEFINITION. Accesses between their issue and their memory port: the times of the crossbar (spec/06 R162, R436), the order in which
they reach a port, the order that a bank keeps among the accesses of one thread (R164), who is told of a fault found at the
port (R18, R139, R178), and the recorded order of a partition in replay mode (spec/10 R294).
-/
namespace Sys2Proof.Machine

/-- Every thread of a tile. -/
def tileThreads (tile : Nat) : List ThreadRef :=
  (List.finRange 8).flatMap fun c => (List.finRange 16).map fun h => ⟨tile, c, h⟩

/-- Stored bytes of n elements of an alias window from element j: offset and length (R59). -/
def aliasBytes (kind j n : Nat) : Nat × Nat :=
  match kind with
  | 1 => (j, n)
  | 2 => (j / 2, (j % 2 + n + 1) / 2)
  | _ => (2 * j, 2 * n)

/-- The bytes of local memory that an access reaches, if it reaches any. -/
def Access.lmBytes (a : Access) : Option (Fin 8 × Nat × Nat) :=
  match a.place with
  | .lm core off => some (core, off, a.n)
  | .view core k j => let b := aliasBytes k j (a.n / 4); some (core, b.1, b.2)
  | _ => none

/-! ## The order of the banks (R164) -/

/-- What an access to a line that its line cache holds takes more than one to local memory (R162, R272). -/
def lineMore : Nat := 2

/-- Two accesses of one unit to one bank keep their order (R164). -/
def Access.ordered (a b : Access) : Bool := a.owner == b.owner && a.banks.any fun k => b.banks.contains k

/-- An access has an earlier one of its unit before it at a bank (R164). -/
def heldBack (a : Access) (before : List Access) : Bool := before.any fun b => b.ordered a

/-! ## Waiting instructions that are abandoned, to be issued again (R339, R394) -/

/-- The one waiting instruction with a lookahead field of a thread that has issued nothing since. -/
def Thread.lastWait (t : Thread) : Option Outst :=
  match t.outst.filter fun o => o.waits && !o.hold with
  | [o] => if !t.held && t.laidOff.isEmpty && t.pc == o.addr + 4 then some o else none
  | _ => none

/-- The waiting instructions of a thread are abandoned: one that nothing has followed stands at the pc again, with what it took
from its streams; one inside a lookahead window is kept, with its access, to be issued again by itself (R339, R394; log 91). -/
def Thread.layOff (t : Thread) (access : Nat → Option Access) : Thread :=
  let waits := t.outst.filter Outst.waits
  let t' : Thread := { t with
    outst := t.outst.filter fun o => !o.waits, strmWait := none, starved := []
    st := if t.st = .waiting then .running else t.st }
  let t' := (waits.filter Outst.hold).reverse.foldl (fun t o => t.giveBack o.consumed) t'
  match t.lastWait with
  | some o => { t'.giveBack o.consumed with pc := o.addr }
  | none => { t' with laidOff := t.laidOff ++ (waits.filter fun o => !o.hold).map fun o => (o, access o.id) }

/-- A thread's waiting instructions are abandoned, and their accesses leave the ports. -/
def State.layOff (s : State) (r : ThreadRef) : State :=
  let accs := (s.tile r.tile).accs
  let waits (op : Nat) : Bool := ((s.thread r).op? op).any Outst.waits
  (s.modThread r fun t => t.layOff fun op => accs.find? fun a => a.r == r && a.op == op).modTile r.tile fun t =>
    { t with accs := t.accs.filter fun a => !(a.r == r && waits a.op) }

/-! ## Faults found at a port (R18, R139, R178) -/

/-- Puts a faulted instruction among the outstanding ones, in program order. -/
def Thread.addFault (t : Thread) (a : Access) (c : Cause) : Thread :=
  { t with
    outst := (t.outst.filter fun o => o.id < a.op) ++
      { id := a.op, addr := a.addr, dests := [], cond := .faulted c a.va, consumed := a.consumed } ::
      t.outst.filter fun o => a.op < o.id
    nextOp := max t.nextOp (a.op + 1) }

/-- The slot of a unit, if it has one: the given one, or the one it has moved to. -/
def State.slotOf (s : State) (r : ThreadRef) (owner : Nat) : Option ThreadRef :=
  let here (q : ThreadRef) : Bool := (s.thread q).owner == owner && (s.thread q).st != .empty
  if here r then some r else (tileThreads r.tile).find? here

/-- The fault of a store, or of line maintenance, that its unit is told of: in its slot in the next cycle, in its displaced
frame when it is picked up again (R18 deferred). The fault of a unit that has ended is lost (log 88). -/
def State.storeFault (s : State) (a : Access) (c : Cause) : State :=
  match s.slotOf a.r a.owner with
  | some r => (s.modThread r fun t => t.addFault a c).atTile r.tile 1 .resultArrival r { n := a.op }
  | none =>
    (List.finRange 8).foldl (fun s k => s.modCore a.r.tile k fun co =>
      { co with frames := co.frames.map fun f =>
          if f.2.owner == a.owner then (f.1, f.2.addFault a c) else f }) s

/-- An access faults: it has no effect, and its instruction reports the fault (R18, R139, R178). -/
def State.failAccess (s : State) (a : Access) (c : Cause) : State :=
  let s := s.modTile a.r.tile fun t => t.dropAccess a.r a.op
  match a.act with
  | .load _ => s.failOp a.r a.op a.lag c a.va
  | .view _ _ => s.failOp a.r a.op a.lag c a.va
  | .fe _ _ _ _ => s.failOp a.r a.op a.lag c a.va
  | .atom _ _ _ _ _ _ _ => (s.modThread a.r Thread.dropResv).failOp a.r a.op a.lag c a.va
  | .store _ _ => s.storeFault a c
  | .stf _ => s.storeFault a c
  | .clre => s.storeFault a c
  | .line _ => s.storeFault a c
  | .spawn _ _ _ _ _ => s
  | .mark _ _ => s
  | .dec => s

/-! ## Replay mode (R294) -/

/-- The ports and words that an access writes, of the accesses that replay orders: those of the own tile's cores that write. -/
def Access.writesAt (a : Access) : List (Nat × Nat) :=
  let writes := match a.act with
    | .store _ _ => true
    | .stf _ => true
    | .fe .stef _ _ _ => true
    | .atom op _ _ _ _ _ held => op != .rsv && (op != .rel || held)
    | _ => false
  if !writes then [] else
  match a.lmBytes, a.place with
  | some (core, off, n), _ => lmPorts core off n
  | none, .glob => linePorts a.va a.n
  | none, _ => []

/-- A racy store waits while its turn in the recorded order of one of its words has not come. -/
def Tile.mustWait (t : Tile) (now : Nat) (a : Access) : Bool :=
  a.writesAt.any fun (q, w) => match (t.ports.getD q {}).turn now (storeSrc a.r.tile (some a.r)) w with
    | some (_ + 1) => true
    | _ => false

/-- Stores in the side buffer of a port, in order of entry. -/
def Tile.sideOf (t : Tile) (q : Nat) : List Access :=
  t.accs.filter fun a => a.since.isSome && a.writesAt.any fun x => x.1 == q

/-- Whether a store may leave the side buffers: its turn has come, it is the oldest of a full buffer of 16, or it has waited
4,096 cycles (R294). -/
def Tile.mayLeave (t : Tile) (now : Nat) (a : Access) : Bool :=
  match a.since with
  | none => false
  | some n => !t.mustWait now a || n + 4096 ≤ now || a.writesAt.any fun x =>
      let side := t.sideOf x.1
      16 ≤ side.length && (side.foldl (fun m b => min m (b.since.getD now)) now) == n

end Sys2Proof.Machine
end

