-- ==== Sys2Proof/Machine/Fill.lean ====
section
/-!
DEFINITION. Fills: translation with its buffer (R389 to R391), flits handed to the copy unit (R348, R350, R352), misses of
the line caches and the read-only caches, and what a fill brings to the loads that wait for it (R174, R270, R272).
-/
namespace Sys2Proof.Machine

/-! ## Translation with the buffer -/

/-- A translation for an access that walks when the buffer misses, and enters the walked leaf (R391). -/
def State.translate (s : State) (tile : Nat) (va : Word) (rd wr : Bool) : State × Xlat :=
  let l := s.launch tile
  let x := s.part l.part
  match (s.tile tile).tlb.find? fun e => e.hits (x.ctx l.ctx).asid va with
  | some e => (s.modTile tile fun t => t.tlbAdd e, x.apply e va rd wr)
  | none =>
    match s.walkAt tile va with
    | .ok e => ((s.walked (deckOf tile) l.part l.ctx va).modTile tile fun t => t.tlbAdd e, x.apply e va rd wr)
    | .error f => (s.walked (deckOf tile) l.part l.ctx va, .fault f)

/-- Whether an address lies in host memory (R270, R389). -/
def State.inHost (s : State) (tile : Nat) (va : Word) : Bool :=
  match s.xlat tile va false false with
  | .host _ => true
  | _ => false

/-- The permissions of the buffered page of an address (R389). -/
def State.tlbPerm (s : State) (tile : Nat) (va : Word) : Bool × Bool :=
  let l := s.launch tile
  match (s.tile tile).tlb.find? fun e => e.hits (s.ctx l.part l.ctx).asid va with
  | some e => (e.r, e.w)
  | none => (true, false)

/-- The cause that a translation outcome raises: PAGE for a fault, PROT for a refusal (R139 order 8). -/
def Xlat.cause : Xlat → Cause
  | .fault _ => .page
  | _ => .prot

/-! ## Flits handed to the copy unit (R348, R350, R352) -/

/-- The age at which a class starts (R350). -/
def startAge (cls : Nat) : Nat := if cls = 0 then 16 else if cls = 1 then 8 else if cls = 2 then 4 else 0

/-- A flit of a tile's context (R348). -/
def State.mkFlit (s : State) (tile cls dst ref : Nat) (m : FlitMsg) : Flit :=
  let l := s.launch tile
  { age := startAge cls, cls := cls, dst := dst, part := l.part, slot := l.ctx % 16,
    epoch := (s.ctx l.part l.ctx).epoch.toNat % 16, src := tile, ref := ref, msg := m }

/-- Readies a flit for injection. -/
def State.sendFlit (s : State) (tile : Nat) (x : Inject) : State :=
  s.modTile tile fun t => { t with copy := { t.copy with inj := t.copy.inj ++ [x] } }

/-- A number for what awaits a reply or an acknowledgement; the flit takes a reference for it when it is injected (log 17). -/
def State.takeRef (s : State) (tile : Nat) : Nat × State :=
  let n := (s.tile tile).copy.nextRef
  (n, s.modTile tile fun t => { t with copy := { t.copy with nextRef := n + 1 } })

/-! ## Delivering what a load asked for -/

/-- The registers a load writes from its bytes (R138, R160). -/
def LoadForm.writes (f : LoadForm) (x : Nat) (fl : BitVec 5 := 0) : Writes :=
  match f with
  | .zx d n => { s := [(d, BitVec.ofNat 64 (x % 2 ^ (8 * n)))], flags := fl }
  | .sx d n => { s := [(d, (BitVec.ofNat (8 * n) x).signExtend 64)], flags := fl }
  | .vec d => { v := [(d, BitVec.ofNat 256 x)], flags := fl }
  | .splat d n =>
    { v := [(d, if n = 4 then mapLanes 32 fun _ => BitVec.ofNat 32 x else mapLanes 64 fun _ => BitVec.ofNat 64 x)], flags := fl }

/-- Bytes that a load takes. -/
def LoadForm.size : LoadForm → Nat
  | .zx _ n => n
  | .sx _ n => n
  | .vec _ => 32
  | .splat _ n => n

/-- Outstanding loads through a core's read-only path on a line. -/
def State.roLoadsOn (s : State) (tile l : Nat) (core : Fin 8) : List (ThreadRef × Nat × Word × LoadForm) :=
  (List.finRange 16).flatMap fun h =>
    (s.thread ⟨tile, core, h⟩).outst.filterMap fun o =>
      match o.cond with
      | .ro va f => if lineIx va == l then some (⟨tile, core, h⟩, o.id, va, f) else none
      | _ => none

/-- Accesses that have reached their port and need a line of global memory. -/
def State.accsOn (s : State) (tile l : Nat) : List Access :=
  (s.tile tile).accs.filter fun a => a.place == .glob && a.at_ ≤ s.now tile && lineIx a.va == l

/-- A line has arrived at a read-only cache: the loads waiting for it are performed on it (R174). -/
def State.serveRo (s : State) (tile l : Nat) (core : Fin 8) (data : BitVec 512) (rd : Bool) : State :=
  (s.roLoadsOn tile l core).foldl (fun s (r, op, va, f) =>
    if rd then s.resolveIn r op 8 (f.writes (lineGet data (va.toNat % 64) f.size)) else s.failOp r op 1 .prot va) s

/-- The accesses waiting for a line fault: its translation faults or is refused (R139 order 8, R178). -/
def State.failLine (s : State) (tile l : Nat) (ro : Bool) (core : Fin 8) (c : Cause) : State :=
  if ro then (s.roLoadsOn tile l core).foldl (fun s (r, op, va, _) => s.failOp r op 1 c va) s
  else (s.accsOn tile l).foldl (fun s a => s.failAccess a c) s

/-! ## Accesses to host memory (R270) -/

/-- A read of host memory over the host link: it completes in a time that the spec does not fix. -/
def State.hostLoad (s : State) (r : ThreadRef) (op : Nat) (va : Word) (pa : Nat) (f : LoadForm) : State :=
  let (k, s) := s.takeFresh
  (s.modThread r fun t => t.setCond op (.host va pa f)).atTile r.tile (1 + Config.freeLatency k) .hostReadCompletion r
    { n := op, ok := Config.freeBool k }

/-- An earlier read of host memory by the same thread of the same bytes is still under way (R141). -/
def State.hostReads (s : State) (a : Access) (pa : Nat) : Bool :=
  (s.thread a.r).outst.any fun o => o.id < a.op && match o.cond with
    | .host _ p f => p < pa + a.n && pa < p + f.size
    | _ => false

/-- An earlier store of the same unit to some of these bytes of host memory has not performed (R141). -/
def State.hostStores (s : State) (a : Access) (pa : Nat) : Bool :=
  (s.tile a.r.tile).accs.any fun b => b.owner == a.owner && b.op < a.op && match b.act, b.place with
    | .store _ _, .glob => (match s.xlat b.r.tile b.va false false with
      | .host p => p < pa + a.n && pa < p + b.n
      | _ => false)
    | _, _ => false

/-- An access to host memory waits for the unit's earlier accesses of its bytes: a load for stores, a store for both (R141). -/
def State.hostOrder (s : State) (a : Access) (pa : Nat) : Bool :=
  match a.act with
  | .load _ => s.hostStores a pa
  | .store _ _ => s.hostReads a pa || s.hostStores a pa
  | _ => false

/-- An access whose word lies in host memory: read or written there once the unit's earlier ones to its bytes allow it; refused to an
atom, after the page's permissions (R141, R178 orders 6 and 7). -/
def State.hostAccess (s : State) (a : Access) (pa : Nat) (rd wr : Bool) : State :=
  let done (s : State) : State := s.modTile a.r.tile fun t => t.dropAccess a.r a.op
  match a.act with
  | .load f => if !rd then s.failAccess a .prot else if s.hostOrder a pa then s else (done s).hostLoad a.r a.op a.va pa f
  | .store v _ => if !wr then s.failAccess a .prot else if s.hostOrder a pa then s else (done s).hostWrite pa a.n v
  | .atom _ _ _ _ _ _ _ => s.failAccess a (if rd && wr then .xscope else .prot)
  | _ => done s

/-! ## Requests for lines (R270, R274, R349) -/

/-- A slice serves a read: at once when it holds the line for the context, else after a fill from HBM (R274). -/
def State.serveLine (s : State) (home : Nat) (q : SReq) : State :=
  let hit := match (s.tile home).sliceGet? q.pl with
    | some x => x.ctx == q.ctx
    | none => false
  if hit then
    if home = q.tile then s.atTile home 48 .readReply ⟨q.tile, 0, 0⟩ { n := q.tag }
    else
      let (s, d) := s.sliceFill home q.part q.ctx q.pl
      let f := s.mkFlit home 1 q.tile q.tag (.rdata 0 d)
      s.sendFlit home { flit := { f with part := q.part, slot := q.ctx % 16, epoch := (s.ctx q.part q.ctx).epoch.toNat % 16 } }
  else
    let (k, s) := s.takeFresh
    let s := s.modTile home fun t => { t with sreqs := t.sreqs ++ [{ q with rule := s.fillRule q.part q.ctx }] }
    s.atTile home (1 + Config.freeLatency k) .hbmFill ⟨home, 0, 0⟩ { n := q.pl }

/-- Asks the home slice for the line of a miss whose translation is known. -/
def State.requestLine (s : State) (tile : Nat) (m : Miss) : State :=
  let l := s.launch tile
  let home := (s.part l.part).homeTile (lineIx m.va)
  if home = tile then s.serveLine tile { pl := m.pl, tile := tile, tag := m.tag, part := l.part, ctx := l.ctx }
  else s.sendFlit tile { flit := s.mkFlit tile 1 home m.tag (.lineReq m.pl) }

def State.dropMiss (s : State) (tile tag : Nat) : State :=
  s.modTile tile fun t => { t with misses := t.misses.filter fun m => m.tag != tag }

/-- A miss whose page is in the translation buffer, or whose walk has just ended, goes on (R270, R389). -/
def State.missGo (s : State) (tile : Nat) (m : Miss) : State :=
  match m.what with
  | .chan _ _ => s
  | .line l core ro =>
    let (s, x) := s.translate tile m.va false false
    let perm := s.tlbPerm tile m.va
    match x with
    | .ok pa =>
      let home := (s.part (s.launch tile).part).homeTile (lineIx m.va)
      let rule := s.fillRule (s.launch tile).part (s.launch tile).ctx
      let m := { m with walking := false, pl := pa / 64, rd := perm.1, wr := perm.2, own := home == tile, rule := rule }
      (s.modTile tile fun t => { t with misses := t.misses.map fun y => if y.tag == m.tag then m else y }).requestLine tile m
    | .host pa =>
      -- a host word is reached over the host link, uncached (R270)
      let at_ (va : Word) : Nat := pa / 64 * 64 + va.toNat % 64
      let s := s.dropMiss tile m.tag
      if ro then (s.roLoadsOn tile l core).foldl (fun s (r, op, va, f) =>
          if perm.1 then s.hostLoad r op va (at_ va) f else s.failOp r op 1 .prot va) s
      else (s.accsOn tile l).foldl (fun s a => s.hostAccess a (at_ a.va) perm.1 perm.2) s
    | x => (s.failLine tile l ro core x.cause).dropMiss tile m.tag

/-- The page of an address: walks are of 64 KiB (R389). -/
def pageOf (va : Word) : Nat := va.toNat % 2 ^ 56 / 2 ^ 16

/-- Two contexts of a partition have one ASID (R391). -/
def State.sameAsid (s : State) (p c p' c' : Nat) : Bool := p == p' && (s.ctx p c).asid == (s.ctx p c').asid

/-- A walker begins a walk, which takes a time the spec does not fix (R391, log 10). Operands of its end: the partition, the
context, an address of the page. -/
def State.beginWalk (s : State) (w : Walk) : State :=
  let (k, s) := s.takeFresh
  s.atTile w.tile (1 + Config.freeLatency k) .translationWalk ⟨w.tile, 0, 0⟩ { n := w.part, m := w.ctx, w := w.va }

/-- Asks the walkers of a tile's deck for a page, unless a walk of it is waiting or under way: a walk begins at once while fewer than
64 are under way (R391). -/
def State.askWalk (s : State) (tile : Nat) (va : Word) : State :=
  let l := s.launch tile
  let d := deckOf tile
  let ws := s.decks[d].walks
  if ws.any fun w => s.sameAsid l.part l.ctx w.part w.ctx && pageOf w.va == pageOf va then s
  else
    let w : Walk := ⟨tile, l.part, l.ctx, va⟩
    let s := { s with decks := s.decks.set d { s.decks[d] with walks := ws ++ [w] } }
    if ws.length < 64 then s.beginWalk w else s

/-- A walk of a deck has ended; the oldest that was queued begins (R391). -/
def State.endWalk (s : State) (d : Fin 8) (p c : Nat) (va : Word) : State :=
  let ws := s.decks[d].walks
  let rest := ws.eraseP fun w => s.sameAsid p c w.part w.ctx && pageOf w.va == pageOf va
  let s := { s with decks := s.decks.set d { s.decks[d] with walks := rest } }
  match rest[63]? with
  | some w => if rest.length < ws.length then s.beginWalk w else s
  | none => s

/-- Starts a miss of a tile, unless one for the same line is being served; a page that the buffer lacks is walked first
(R391). -/
def State.startMiss (s : State) (tile : Nat) (va : Word) (what : MissFor) : State :=
  if (s.tile tile).misses.any fun m => m.what == what then s
  else
    let (tag, s) := s.takeRef tile
    let hit := s.tlbHit tile va
    let m : Miss := { tag := tag, what := what, va := va, walking := !hit }
    let s := s.modTile tile fun t => { t with misses := t.misses ++ [m] }
    if hit then s.missGo tile m else s.askWalk tile va

/-! ## What a reply brings -/

/-- Puts a line into a line cache in a fill, evicting the least recently used line of a full set (R270). -/
def State.installLine (s : State) (tile : Nat) (core : Fin 8) (x : Line) : State :=
  let set := (s.core tile core).lines.getD (lineSet x.tag) []
  let s := match set.reverse with
    | v :: _ => if 8 ≤ set.length then s.lineEvict tile core v.tag else s
    | [] => s
  s.modCore tile core fun c => c.linePut x

/-- Puts a line into a read-only cache of 64 lines, the most recently used first (R174). -/
def Core.roPut (c : Core) (x : Line) : Core :=
  { c with rolines := (x :: c.rolines.filter fun y => y.tag != x.tag).take 64 }

/-- A line has come back for a miss (READ_REPLY): it is installed; the loads through the read-only path that wait for it are
performed, and the accesses that wait for it at their port perform there next. -/
def State.lineReply (s : State) (tile : Nat) (m : Miss) (data : BitVec 512) : State :=
  match m.what with
  | .chan _ _ => s
  | .line l core ro =>
    let la := s.launch tile
    let (s, d) := if m.own then s.sliceFillIn tile la.part la.ctx m.pl m.rule else (s, data)
    let x : Line := { tag := l, data := d, rd := m.rd, wr := m.wr, pl := m.pl }
    let s := s.dropMiss tile m.tag
    if ro then (s.modCore tile core fun c => c.roPut x).serveRo tile l core d m.rd
    else if ((s.core tile core).lineGet? l).isSome then s else s.installLine tile core x

end Sys2Proof.Machine
end

