-- ==== Sys2Proof/Machine/Memory.lean ====
section
/-!
DEFINITION. Loads and stores: mem and vmem (spec/06 R160 to R164, R174, spec/05 R138 to R141), the alias windows (spec/02 R58,
R59), the state windows (R161) and migration to the home core (R273).
-/
namespace Sys2Proof.Machine

/-- The form of an access: its size, whether it is the 32-byte form, a vmem form, a store, a read-only load. -/
structure MForm where
  size : Nat
  wide : Bool := false
  vmem : Bool := false
  store : Bool := false
  ro : Bool := false
  deriving DecidableEq, Repr

/-- The forms that the state windows admit (R161). -/
def MForm.portOk (f : MForm) (kind : Nat) : Bool :=
  match kind with
  | 8 => !f.store && (f.wide || f.size == 8)
  | 10 => !f.store && (f.wide || f.size == 4 || f.size == 8)
  | 11 => f.wide || f.size == 4
  | 12 => !f.store && !f.vmem && f.size == 8
  | _ => false

/-- The precise checks of R139, in order, with R57 at order 2. -/
def placeOf (l : Launch) (tile : Nat) (a : Word) (f : MForm) : Except Cause Place :=
  let k := amKind a
  if a.toNat % f.size ≠ 0 then .error .align
  else if !isGlobal a && !isTileMap a then .error .prot
  else if isGlobal a then .ok .glob
  else if !amFormOk a || windowSize l k < amOff a + f.size then .error .prot
  else if amTile a ≠ tile then .error .xscope
  else if f.ro then .error .prot
  else if k = 0 ∨ k = 7 ∨ k = 14 then .ok (.lm (amCore a) (lmPlace l a).off)
  else if k = 5 ∨ k = 6 ∨ k = 15 then .error .prot
  else if k < 5 then (if f.wide || f.size == 4 then .ok (.view (amCore a) k (amOff a / 4)) else .error .prot)
  else if f.portOk k then .ok (.port (amCore a) k (amOff a)) else .error .prot

/-! ## The alias windows (R58, R59) -/

/-- The table of a core through which a kind encodes and decodes (R46, R58). -/
def Core.tab (c : Core) (kind : Nat) : KMap (BitVec 19) := if kind = 1 then c.t8 else if kind = 2 then c.t4 else []

/-- Element j of the stored bytes of a window as an FP32 word, with the flags of its conversion (R44, R58). -/
def aliasGet (tab : KMap (BitVec 19)) (kind j x : Nat) : Nat × BitVec 5 :=
  match kind with
  | 1 => ((container (tabEntry tab x)).toNat, 0)
  | 2 => ((container (tabEntry tab (if j % 2 = 0 then x % 16 else x / 16))).toNat, 0)
  | 3 => toF32 f16F x
  | _ => toF32 b16F x

/-- An FP32 word encoded or rounded for a kind under a mode (R48, R58). -/
def aliasEnc (tab : KMap (BitVec 19)) (kind : Nat) (rm : RM) (x : Nat) : Nat × BitVec 5 :=
  match kind with
  | 1 => encodeTab tab 256 rm x
  | 2 => encodeTab tab 16 rm x
  | 3 => fromF32 f16F rm x
  | _ => fromF32 b16F rm x

/-- n elements from element j as view words, the first in the low bits, with their flags. -/
def State.aliasRead (s : State) (tile : Nat) (tab : KMap (BitVec 19)) (core : Fin 8) (kind j n : Nat) : Nat × BitVec 5 :=
  ((List.range n).map fun i =>
    let b := aliasBytes kind (j + i) 1
    aliasGet tab kind (j + i) (s.lmRead tile core b.1 b.2)).foldr
    (fun x acc => (x.1 + 2 ^ 32 * acc.1, x.2 ||| acc.2)) (0, 0)

/-- What n view words store from element j: the bits of the stored bytes, the bits that they replace and the flags; the other
nibble of a T4 byte keeps its value (R58). -/
def aliasPack (tab : KMap (BitVec 19)) (kind j n : Nat) (rm : RM) (x : Nat) : Nat × Nat × BitVec 5 :=
  let w := if kind = 1 then 8 else if kind = 2 then 4 else 16
  let first := if kind = 2 then j % 2 else 0
  let es := (List.range n).map fun i => aliasEnc tab kind rm (x / 2 ^ (32 * i) % 2 ^ 32)
  (es.zipIdx.foldl (fun acc (e, i) => acc + e.1 % 2 ^ w * 2 ^ (w * (first + i))) 0,
    (2 ^ (w * n) - 1) * 2 ^ (w * first), es.foldl (fun f e => f ||| e.2) 0)

/-! ## Migration to the home core (R273) -/

/-- Whether a thread may migrate (R273). -/
def Thread.mayMigrate (t : Thread) (det : Bool) : Bool :=
  !det && !w1Pin t.w1 && t.outst.isEmpty && !(t.loopLvl false).active && !(t.loopLvl true).active && t.resv.isNone &&
    t.watch.isNone && !t.ih && t.binds.isEmpty && !t.msgUsed

/-- The migration predictor at a global access: the new count, and whether the thread migrates. -/
def State.predict (s : State) (va : Word) : State × Bool :=
  let r := s.cur
  let t := s.th
  let home := homeCore (lineIx va)
  let thr := (s.part (s.launch r.tile).part).migThr
  if home = r.core || t.noMig then (s.modTh fun t => { t with mig := (home, 0), noMig := false }, false)
  else
    let n := (if t.mig.1 = home then t.mig.2 else 0) + 1
    if thr ≠ 0 ∧ n = thr then
      let free := (List.finRange 16).any fun h => (s.thread ⟨r.tile, home, h⟩).vacant (s.now r.tile)
      if t.mayMigrate (s.launch r.tile).det && free then (s, true)
      else (s.modTh fun t => { t with mig := (home, 0) }, false)
    else (s.modTh fun t => { t with mig := (home, n) }, false)

/-- The thread starts to migrate: it holds its slot until MIGRATION moves it, and the access issues at the home core. -/
def State.startMigration (s : State) (va : Word) : Eff :=
  let (lat, s) := s.within 48
  .stay ((s.modTh fun t => { t with st := .waiting }).atTile s.cur.tile lat .migration
    ⟨s.cur.tile, homeCore (lineIx va), s.cur.thr⟩ { n := s.cur.core.val, m := s.th.picked })

/-! ## Loads -/

/-- Local-memory banks of a range of bytes (R163). -/
def lmBanks (core : Fin 8) (off n : Nat) : List Nat :=
  ((wordsOf off n).map fun w => 4 * core.val + w % 4).foldr (fun b acc => if acc.contains b then acc else b :: acc) []

/-- An access of the current thread as it leaves for the port of a core: its banks are touched (R163). `more`: what its result
takes longer than a load of local memory. -/
def State.newAccess (s : State) (va : Word) (place : Place) (n : Nat) (act : Act) (banks : List Nat) (core : Fin 8)
    (more : Nat) : Access :=
  { r := s.cur, owner := s.th.owner, op := s.th.nextOp, addr := s.th.pc, va := va, place := place, n := n, act := act,
    banks := banks, at_ := s.now s.cur.tile + s.portReach s.cur core, lag := s.portLag s.cur core more }

/-- An access whose instruction waits for its result. -/
def State.sendLoad (s : State) (a : Access) (la : BitVec 4) (dests : List RegRef) : State :=
  (s.modTh fun t => (t.touch a.banks).addOutst dests (some la) (.port none)).sendAccess a

/-- An access that leaves its thread at once (R140, R162). -/
def State.sendStore (s : State) (a : Access) : State := (s.modTh fun t => (t.touch a.banks).takeOp).sendAccess a

/-- The bank of a global address; a word of host memory belongs to none (R163, R270). -/
def State.globBanks (s : State) (va : Word) : List Nat :=
  if ((s.core s.cur.tile (homeCore (lineIx va))).lineGet? (lineIx va)).isNone && s.inHost s.cur.tile va then [] else [lcBank va]

/-- A load through the core's read-only cache (R174): a miss fills it from the home core's line cache, or from the slice. -/
def State.roLoad (s : State) (la : BitVec 4) (dests : List RegRef) (a : Word) (form : LoadForm) : State :=
  let r := s.cur
  let op := s.th.nextOp
  let l := lineIx a
  let s := s.modTh fun t => t.addOutst dests (some la) (.ro a form)
  let serve (s : State) (x : Line) (lat : Nat) : State :=
    if x.rd then s.resolveIn r op lat (form.writes (lineGet x.data (a.toNat % 64) form.size)) else s.failOp r op 1 .prot a
  match (s.core r.tile r.core).rolines.find? fun x => x.tag == l with
  | some x => serve (s.modCore r.tile r.core fun c => c.roPut x) x 8
  | none =>
    match (s.core r.tile (homeCore l)).lineGet? l with
    | some x => serve (s.modCore r.tile r.core fun c => c.roPut { x with dirty := false }) x (s.portTime r (homeCore l) lineMore)
    | none => s.startMiss r.tile a (.line l r.core true)

/-- A load: the checks of R139, then the access of its place. A load through the state port reads what the window shows in its step of
issue (DESIGN CHOICE: R161 gives only the cycle of the result; log 100). -/
def loadForm (i : Instr) (f : MForm) (a : SReg) (off : BitVec 9) (la : BitVec 4) (dests : List RegRef) (form : LoadForm)
    (s : State) : Out :=
  .next (s.issue i true fun s =>
    let x := effAddr (s.th.getS a) off f.size
    match placeOf (s.launch s.cur.tile) s.cur.tile x f with
    | .error c => .trap c x
    | .ok (.lm core o) =>
      .next (s.sendLoad (s.newAccess x (.lm core o) f.size (.load form) (lmBanks core o f.size) core 0) la dests)
    | .ok (.view core k j) =>
      let b := aliasBytes k j (f.size / 4)
      .next (s.sendLoad (s.newAccess x (.view core k j) f.size (.view form ((s.core s.cur.tile s.cur.core).tab k))
        (lmBanks core b.1 b.2) core 0) la dests)
    | .ok (.port core k o) =>
      .next (s.deferRes la dests 12 (form.writes (bytesToNat (s.portBytes s.cur.tile core k o f.size))))
    | .ok .glob =>
      if f.ro then .next (s.roLoad la dests x form)
      else match s.predict x with
      | (s, true) => s.startMigration x
      | (s, false) =>
        .next (s.sendLoad (s.newAccess x .glob f.size (.load form) (s.globBanks x) (homeCore (lineIx x)) lineMore) la dests))

/-! ## Stores -/

/-- A store of n bytes: the checks of R139, then the access of its place. It performs 2 cycles after issue in the own core, at
the crossing in a sibling's, 4 cycles after issue in the matrix accumulators (R161, R162). -/
def storeForm (i : Instr) (f : MForm) (a : SReg) (off : BitVec 9) (val : Thread → Nat) (s : State) : Out :=
  .next (s.issue i false fun s =>
    let x := effAddr (s.th.getS a) off f.size
    let v := val s.th
    let all := 2 ^ (8 * f.size) - 1
    match placeOf (s.launch s.cur.tile) s.cur.tile x f with
    | .error c => .trap c x
    | .ok (.lm core o) => .next (s.sendStore (s.newAccess x (.lm core o) f.size (.store v all) (lmBanks core o f.size) core 0))
    | .ok (.view core k j) =>
      let b := aliasBytes k j (f.size / 4)
      let p := aliasPack ((s.core s.cur.tile s.cur.core).tab k) k j (f.size / 4) (RM.ofBits s.th.frm) v
      .next ((s.sendStore (s.newAccess x (.view core k j) f.size (.store p.1 p.2.1) (lmBanks core b.1 b.2) core 0)).modTh
        fun t => t.addFlags p.2.2)
    | .ok (.port core k o) =>
      .next (s.sendStore { s.newAccess x (.port core k o) f.size (.store v all) [] core 0 with at_ := s.now s.cur.tile + 4 })
    | .ok .glob =>
      match s.predict x with
      | (s, true) => s.startMigration x
      | (s, false) =>
        .next (s.sendStore (s.newAccess x .glob f.size (.store v all) (s.globBanks x) (homeCore (lineIx x)) lineMore)))

/-! ## Loads and stores at their port -/

/-- A load performs: its bytes are read, and its result is written `lag` cycles later (R162, R272). -/
def State.performLoad (s : State) (a : Access) (f : LoadForm) (tab : KMap (BitVec 19)) : State :=
  let done (s : State) : State := s.modTile a.r.tile fun t => t.dropAccess a.r a.op
  match a.place with
  | .lm core o =>
    if s.lmBad a.r.tile core o a.n then s.failAccess a .ue
    else (done s).resolveIn a.r a.op a.lag (f.writes (s.lmRead a.r.tile core o a.n))
  | .view core k j =>
    let b := aliasBytes k j (a.n / 4)
    if s.lmBad a.r.tile core b.1 b.2 then s.failAccess a .ue
    else
      let v := s.aliasRead a.r.tile tab core k j (a.n / 4)
      (done s).resolveIn a.r a.op a.lag (f.writes v.1 v.2)
  | .port _ _ _ => done s
  | .glob =>
    match (s.core a.r.tile (homeCore (lineIx a.va))).lineGet? (lineIx a.va) with
    | none => s
    | some x =>
      if x.rd then
        let (s, v) := (done s).lineRead a.r.tile a.va a.n
        s.resolveIn a.r a.op a.lag (f.writes v)
      else s.failAccess a .prot

/-- Some bits of a number replaced. -/
def maskIn (old v mask : Nat) : Nat := Nat.lor (old - Nat.land old mask) (Nat.land v mask)

/-- A store performs (R161, R162). -/
def State.performStore (s : State) (a : Access) (v mask : Nat) : State :=
  let done (s : State) : State := s.modTile a.r.tile fun t => t.dropAccess a.r a.op
  match a.lmBytes, a.place with
  | some (core, o, n), _ =>
    (done s).lmWrite a.r.tile core o n (maskIn (s.lmRead a.r.tile core o n) v mask) (some a.r)
  | none, .port _ _ o => (done s).modTile a.r.tile fun t => t.mxPut o (natToBytes a.n v)
  | none, _ =>
    match (s.core a.r.tile (homeCore (lineIx a.va))).lineGet? (lineIx a.va) with
    | none => s
    | some x => if x.wr then (done s).lineWrite a.r.tile a.va a.n v (some a.r) else s.failAccess a .prot

/-! ## mem (R160) -/

def execMemLdB (d a : SReg) (off : BitVec 9) (la : BitVec 4) (s : State) : Out :=
  loadForm (.memLdB d a off la) { size := 1 } a off la [.s d] (.zx d 1) s
def execMemLdH (d a : SReg) (off : BitVec 9) (la : BitVec 4) (s : State) : Out :=
  loadForm (.memLdH d a off la) { size := 2 } a off la [.s d] (.zx d 2) s
def execMemLdW (d a : SReg) (off : BitVec 9) (la : BitVec 4) (s : State) : Out :=
  loadForm (.memLdW d a off la) { size := 4 } a off la [.s d] (.zx d 4) s
def execMemLdD (d a : SReg) (off : BitVec 9) (la : BitVec 4) (s : State) : Out :=
  loadForm (.memLdD d a off la) { size := 8 } a off la [.s d] (.zx d 8) s
def execMemLdI8 (d a : SReg) (off : BitVec 9) (la : BitVec 4) (s : State) : Out :=
  loadForm (.memLdI8 d a off la) { size := 1 } a off la [.s d] (.sx d 1) s
def execMemLdI16 (d a : SReg) (off : BitVec 9) (la : BitVec 4) (s : State) : Out :=
  loadForm (.memLdI16 d a off la) { size := 2 } a off la [.s d] (.sx d 2) s
def execMemLdI32 (d a : SReg) (off : BitVec 9) (la : BitVec 4) (s : State) : Out :=
  loadForm (.memLdI32 d a off la) { size := 4 } a off la [.s d] (.sx d 4) s
def execMemLdRo (d a : SReg) (off : BitVec 9) (la : BitVec 4) (s : State) : Out :=
  loadForm (.memLdRo d a off la) { size := 8, ro := true } a off la [.s d] (.zx d 8) s
def execMemStB (d a : SReg) (off : BitVec 9) (s : State) : Out :=
  storeForm (.memStB d a off) { size := 1, store := true } a off (fun t => (t.getS d).toNat % 2 ^ 8) s
def execMemStH (d a : SReg) (off : BitVec 9) (s : State) : Out :=
  storeForm (.memStH d a off) { size := 2, store := true } a off (fun t => (t.getS d).toNat % 2 ^ 16) s
def execMemStW (d a : SReg) (off : BitVec 9) (s : State) : Out :=
  storeForm (.memStW d a off) { size := 4, store := true } a off (fun t => (t.getS d).toNat % 2 ^ 32) s
def execMemStD (d a : SReg) (off : BitVec 9) (s : State) : Out :=
  storeForm (.memStD d a off) { size := 8, store := true } a off (fun t => (t.getS d).toNat) s

/-! ## vmem (R138) -/

def execVmemLdV (d : VReg) (a : SReg) (off : BitVec 9) (la : BitVec 4) (s : State) : Out :=
  loadForm (.vmemLdV d a off la) { size := 32, wide := true, vmem := true } a off la [.v d] (.vec d) s
def execVmemLdSw (d : VReg) (a : SReg) (off : BitVec 9) (la : BitVec 4) (s : State) : Out :=
  loadForm (.vmemLdSw d a off la) { size := 4, vmem := true } a off la [.v d] (.splat d 4) s
def execVmemLdSd (d : VReg) (a : SReg) (off : BitVec 9) (la : BitVec 4) (s : State) : Out :=
  loadForm (.vmemLdSd d a off la) { size := 8, vmem := true } a off la [.v d] (.splat d 8) s
def execVmemLdRo (d : VReg) (a : SReg) (off : BitVec 9) (la : BitVec 4) (s : State) : Out :=
  loadForm (.vmemLdRo d a off la) { size := 32, wide := true, vmem := true, ro := true } a off la [.v d] (.vec d) s
def execVmemStV (d : VReg) (a : SReg) (off : BitVec 9) (s : State) : Out :=
  storeForm (.vmemStV d a off) { size := 32, wide := true, vmem := true, store := true } a off (fun t => (t.getV d).toNat) s
def execVmemStW (d : VReg) (a : SReg) (off : BitVec 9) (s : State) : Out :=
  storeForm (.vmemStW d a off) { size := 4, vmem := true, store := true } a off (fun t => (t.getV d).toNat % 2 ^ 32) s
def execVmemStD (d : VReg) (a : SReg) (off : BitVec 9) (s : State) : Out :=
  storeForm (.vmemStD d a off) { size := 8, vmem := true, store := true } a off (fun t => (t.getV d).toNat % 2 ^ 64) s

end Sys2Proof.Machine
end

