-- ==== Sys2Proof/Machine/Atom.lean ====
section
/-!
DEFINITION. Atomics and bank reservations (spec/06 R177 to R183).
-/
namespace Sys2Proof.Machine

/-- Size in bytes of an atom's type. -/
def atomSize : AtomTy → Nat
  | .i32 => 4
  | .n32 => 4
  | .f32 => 4
  | .i64 => 8
  | .n64 => 8

/-- The old value as the register receives it (R177): SX for i32, ZX for n32 and f32. -/
def atomResult (t : AtomTy) (o : Nat) : Word :=
  match t with
  | .i32 => sx (BitVec.ofNat 32 o)
  | _ => BitVec.ofNat 64 o

/-- x < y in the order of the type, on the patterns of its size. -/
def atomLt (t : AtomTy) (x y : Nat) : Bool :=
  match t with
  | .i32 => (BitVec.ofNat 32 x).slt (BitVec.ofNat 32 y)
  | .i64 => (BitVec.ofNat 64 x).slt (BitVec.ofNat 64 y)
  | _ => x < y

/-- The value an operation leaves in the word, or none when it writes nothing, and its flags (R177). -/
def atomNew (op : AtomOp) (t : AtomTy) (rm : RM) (o x old : Nat) : Option Nat × BitVec 5 :=
  let m := 2 ^ (8 * atomSize t)
  let x := x % m
  match op with
  | .faa =>
    if t = .f32 then
      let r := fadd rm o x
      (some r.1, r.2)
    else (some ((o + x) % m), 0)
  | .swap => (some x, 0)
  | .cas => (if o = old % m then some x else none, 0)
  | .fand => (some (Nat.land o x), 0)
  | .for => (some (Nat.lor o x), 0)
  | .fxor => (some (Nat.xor o x), 0)
  | .fmin => (some (if atomLt t x o then x else o), 0)
  | .fmax => (some (if atomLt t o x then x else o), 0)
  | .rsv => (none, 0)
  | .rel => (some x, 0)

/-- The checks of R178 made at issue, in order. -/
def State.atomCheck (s : State) (a : Word) (size : Nat) : Option Cause :=
  let l := s.launch s.cur.tile
  if a.toNat % size ≠ 0 then some .align
  else if isGlobal a then
    (if (s.part l.part).homeTile (lineIx a) = s.cur.tile then none else some .xscope)
  else if !isTileMap a || !amFormOk a || windowSize l (amKind a) < amOff a + size then some .prot
  else if amTile a ≠ s.cur.tile then some .xscope
  else if amKind a = 0 ∨ amKind a = 14 then none else some .prot

/-- The bank that holds a word (R163, R179). -/
def State.bankOf (s : State) (tile : Nat) (a : Word) : Nat :=
  if isGlobal a then lcBank a else (lmPlace (s.launch tile) a).bank

/-- A bank's reservation is held by a thread of the tile (R180). -/
def State.bankHeld (s : State) (tile b : Nat) : Bool :=
  (tileThreads tile).any fun r => match (s.thread r).resv with
    | some v => v.granted && v.bank == b
    | none => false

/-- What the reservation of a thread becomes when its atom performs (R181). -/
def Thread.afterAtom (t : Thread) (op : AtomOp) : Thread :=
  match op with
  | .rsv => { t with resv := match t.resv with
      | some v => if v.dropped then none else some { v with granted := true, broken := false }
      | none => none }
  | .rel => { t with resv := none }
  | _ => t

/-- The word of an atom at its bank: nothing yet, a fault, or its value (R178 orders 6 and 8, R179). -/
inductive AtomWord where
  | absent
  | fault (c : Cause)
  | value (o : Nat)
  deriving DecidableEq, Repr

/-- The word that an atom finds; every atom needs to read and to write its page (R389). -/
def State.atomWord (s : State) (a : Access) : AtomWord :=
  match a.lmBytes with
  | some (core, o, n) => if s.lmBad a.r.tile core o n then .fault .ue else .value (s.lmRead a.r.tile core o n)
  | none =>
    match (s.core a.r.tile (homeCore (lineIx a.va))).lineGet? (lineIx a.va) with
    | none => .absent
    | some x => if !x.rd || !x.wr then .fault .prot else .value (lineGet x.data (a.va.toNat % 64) a.n)

/-- The write of an atom: in local memory, or in the line and through it to the slice when it changes the word; a dirty line is
written through whole and is clean afterwards (R179). -/
def State.atomWrite (s : State) (a : Access) (old v : Nat) : State :=
  match a.lmBytes with
  | some (core, o, n) => s.lmWrite a.r.tile core o n v (some a.r)
  | none =>
    if v = old then s
    else
      let home := homeCore (lineIx a.va)
      let line (s : State) : Option Line := (s.core a.r.tile home).lineGet? (lineIx a.va)
      let was := (line s).any (·.dirty)
      let s := s.lineWrite a.r.tile a.va a.n v (some a.r)
      match line s with
      | some y => s.lineClean a.r.tile home y was (some (storeSrc a.r.tile (some a.r)))
      | none => s

/-- An atom performs in its bank: the word is read and written indivisibly, the result arrives `lag` cycles later (R177, R179,
R181). -/
def State.performAtom (s : State) (a : Access) (op : AtomOp) (t : AtomTy) (x old : Word) (d : SReg) (frm : BitVec 2)
    (held : Bool) : State :=
  match s.atomWord a with
  | .absent => s
  | .fault c => s.failAccess a c
  | .value o =>
    let fails := op = .rel && (!held || (((s.thread a.r).resv.map (·.broken)).getD true))
    let (nv, fl) := atomNew op t (RM.ofBits frm) o x.toNat old.toNat
    let s := s.modTile a.r.tile fun t => t.dropAccess a.r a.op
    let s := match nv with
      | some v => if fails then s else s.atomWrite a o v
      | none => s
    let w : Writes :=
      if op = .rel then { s := [(d, if fails then 0 else 1)] } else { s := [(d, atomResult t o)], flags := fl }
    (s.modThread a.r fun t => if op = .rel && !held then t else t.afterAtom op).resolveIn a.r a.op a.lag w

/-- What an atom's result takes longer than a load of the word (R179): 4 cycles, but for the rsv of a local word. -/
def atomMore (op : AtomOp) (a : Word) : Nat :=
  (if isGlobal a then lineMore else 0) + if op = .rsv && !isGlobal a then 0 else 4

/-- The access of an atom of the current thread: the banks it touches are its word's, and the slice's of a global word
(R163). -/
def State.atomAccess (s : State) (op : AtomOp) (t : AtomTy) (a : Word) (x old : Word) (d : SReg) : Access :=
  let act : Act := .atom op t x old d s.th.frm s.th.resv.isSome
  let n := atomSize t
  if isGlobal a then
    s.newAccess a .glob n act (if s.globBanks a = [] then [] else [lcBank a, slBank a]) (homeCore (lineIx a)) (atomMore op a)
  else
    let p := lmPlace (s.launch s.cur.tile) a
    s.newAccess a (.lm p.core p.off) n act [p.bank] p.core (atomMore op a)

/-- An atom, once its checks have passed: a global one may migrate its thread first (R273). -/
def State.atomGo (s : State) (op : AtomOp) (t : AtomTy) (a : Word) (x old : Word) (d : SReg) (la : BitVec 4)
    (prep : State → State := id) : Eff :=
  let go (s : State) : Eff := .next ((prep s).sendLoad (s.atomAccess op t a x old d) la [.s d])
  if isGlobal a then
    match s.predict a with
    | (s, true) => s.startMigration a
    | (s, false) => go s
  else go s

/-- An atom from faa to fmax (R177, R178). -/
def atomForm (i : Instr) (op : AtomOp) (t : AtomTy) (d a b : SReg) (la : BitVec 4) (s : State) : Out :=
  .next (s.issue i true fun s =>
    let x := s.th.getS a
    match s.atomCheck x (atomSize t) with
    | some c => .trap c x
    | none => s.atomGo op t x (s.th.getS b) (s.th.getS d) d la)

def execAtomFaa (d a b : SReg) (t : AtomTy) (la : BitVec 4) (s : State) : Out :=
  atomForm (.atomFaa d a b t la) .faa t d a b la s
def execAtomSwap (d a b : SReg) (t : AtomTy) (la : BitVec 4) (s : State) : Out :=
  atomForm (.atomSwap d a b t la) .swap t d a b la s
def execAtomCas (d a b : SReg) (t : AtomTy) (la : BitVec 4) (s : State) : Out :=
  atomForm (.atomCas d a b t la) .cas t d a b la s
def execAtomFand (d a b : SReg) (t : AtomTy) (la : BitVec 4) (s : State) : Out :=
  atomForm (.atomFand d a b t la) .fand t d a b la s
def execAtomFor (d a b : SReg) (t : AtomTy) (la : BitVec 4) (s : State) : Out :=
  atomForm (.atomFor d a b t la) .for t d a b la s
def execAtomFxor (d a b : SReg) (t : AtomTy) (la : BitVec 4) (s : State) : Out :=
  atomForm (.atomFxor d a b t la) .fxor t d a b la s
def execAtomFmin (d a b : SReg) (t : AtomTy) (la : BitVec 4) (s : State) : Out :=
  atomForm (.atomFmin d a b t la) .fmin t d a b la s
def execAtomFmax (d a b : SReg) (t : AtomTy) (la : BitVec 4) (s : State) : Out :=
  atomForm (.atomFmax d a b t la) .fmax t d a b la s

/-- atom.rsv: the window of 64 instructions starts at issue, whether or not the bank has been granted (R181, R183). -/
def execAtomRsv (d a : SReg) (t : AtomTy) (la : BitVec 4) (s : State) : Out :=
  .next (s.issue (.atomRsv d a t la) true fun s =>
    let x := s.th.getS a
    match s.atomCheck x (atomSize t) with
    | some c => .trap c x
    | none =>
      let v : Resv := { va := x, size := atomSize t, bank := s.bankOf s.cur.tile x, addr := s.th.pc }
      s.atomGo .rsv t x 0 0 d la fun s => s.modTh fun th => { th with resv := some v })

/-- Two addresses name one word, through whichever window (R181, R268). -/
def sameWord (l : Launch) (a b : Word) : Bool :=
  if isGlobal a || isGlobal b then a == b else lmPlace l a == lmPlace l b

/-- atom.rel: one that names another word than the reservation's is ILLEGAL; one without a reservation writes nothing and
answers 0 (R181). -/
def execAtomRel (d a b : SReg) (t : AtomTy) (la : BitVec 4) (s : State) : Out :=
  .next (s.issue (.atomRel d a b t la) true fun s =>
    let x := s.th.getS a
    match s.atomCheck x (atomSize t) with
    | some c => .trap c x
    | none =>
      if s.th.resv.any fun v => !(sameWord (s.launch s.cur.tile) v.va x && v.size == atomSize t) then .trap .illegal x
      else s.atomGo .rel t x (s.th.getS b) 0 d la)

/-- atom.drop: releases the bank, at once or when the waiting rsv is granted (R181). -/
def execAtomDrop (s : State) : Out :=
  .next (s.issue .atomDrop false (onRegs fun t =>
    { t with resv := match t.resv with
        | some v => if v.granted then none else some { v with dropped := true }
        | none => none }))

end Sys2Proof.Machine
end

