-- ==== Sys2Proof/Machine/Sync.lean ====
section
/-!
DEFINITION. The sync major (spec/06 R165 to R176): fences, watched words and wait-parking (R340), full/empty words, and the
maintenance of the read-only, record and line caches.
-/
namespace Sys2Proof.Machine

/-! ## Fences (R165) -/

/-- The banks of a scope whose k.tbm bit is set (R165). -/
def Thread.touched (t : Thread) (scope : Nat → Bool) : List Nat :=
  (List.range 56).filter fun b => t.tbm.getLsbD b && scope b

/-- Whether a bank is an lm or lc bank of a core (R163). -/
def ownBank (c : Fin 8) (b : Nat) : Bool := (b < 32 && b / 4 == c.val) || (32 ≤ b && b < 48 && (b - 32) / 2 == c.val)

/-- The core a bank lies in; a slice bank is the tile's, reached as one of the own core (R163). -/
def bankCore (own : Fin 8) (b : Nat) : Fin 8 :=
  if b < 32 then ⟨b / 4 % 8, Nat.mod_lt _ (by decide)⟩
  else if b < 48 then ⟨(b - 32) / 2 % 8, Nat.mod_lt _ (by decide)⟩ else own

/-- Sends the probes of a fence: each bank echoes after 4 cycles, or after crossing both ways (R165). -/
def State.probe (s : State) (banks : List Nat) : State :=
  banks.foldl (fun s b =>
    let core := bankCore s.cur.core b
    s.atTile s.cur.tile (if core = s.cur.core then 4 else s.portTime s.cur core 0) .bankEcho s.cur { n := b, m := s.th.nextOp }) s

/-- The banks whose echo a condition awaits. -/
def Cond.banks : Cond → List Nat
  | .fence bs _ _ _ => bs
  | .push bs _ _ _ => bs
  | .bind bs _ _ => bs
  | _ => []

/-- A bank has echoed. -/
def Cond.echo (b : Nat) : Cond → Cond
  | .fence bs a tp n => .fence (bs.filter (· != b)) a tp n
  | .push bs w d tp => .push (bs.filter (· != b)) w d tp
  | .bind bs d x => .bind (bs.filter (· != b)) d x
  | c => c

/-- A read-only cache is emptied: its lines go, and so does what fills under way would bring; the loads that wait for such a
fill ask again (R174, R287). -/
def State.emptyRo (s : State) (tile : Nat) (core : Fin 8) : State :=
  let s := s.modCore tile core fun c => { c with rolines := [] }
  let lost := (s.tile tile).misses.filter fun m => match m.what with
    | .line _ c ro => ro && c == core
    | .chan _ _ => false
  let s := s.modTile tile fun t => { t with misses := t.misses.filter fun m => !(lost.contains m) }
  lost.foldl (fun s m =>
    if (s.roLoadsOn tile (lineIx m.va) core).isEmpty then s else s.startMiss tile m.va m.what) s

/-- The effect of a fence when its last echo has come: sync.ro completes 4 cycles later, sync.rec 16 cycles later (R174, R175);
fence.part clears its predicate (R158). -/
def State.fenceEnd (s : State) (r : ThreadRef) (o : Outst) (tp : PReg) (after : Nat) : State :=
  if after = 0 then s.resolveIn r o.id 0 { p := [(tp, false)] }
  else (s.modThread r fun t => t.setCond o.id (.clears (after == 16))).atTile r.tile after .resultArrival r { n := o.id }

/-- sync.ro and sync.rec empty their cache when they complete, so that nothing filled before is found after (R174, R175, R287). -/
def State.clearCaches (s : State) (r : ThreadRef) (op : Nat) : State :=
  match ((s.thread r).op? op).map Outst.cond with
  | some (.clears recs) =>
    let s := if recs then s.modTile r.tile fun t => { t with copy := { t.copy with recs := [] } } else s.emptyRo r.tile r.core
    s.modThread r fun t => t.setCond op (.ready {})
  | _ => s

/-- An access is line maintenance. -/
def Act.isLine : Act → Bool
  | .line _ => true
  | _ => false

/-- Posts and lwb writebacks of a unit that have not been acknowledged, those that have not reached their port among them (R165,
R190, R281). -/
def Tile.unacked (t : Tile) (owner : Nat) : Bool :=
  (t.accs.any fun a => a.owner == owner && a.act.isLine) || (t.copy.acks.any fun a => a.2 == .post owner) || (t.intake.any fun p => p.owner == some owner) ||
    t.cores.toList.any fun c => c.posts.any fun p => p.2.1 == owner

/-- A unit has nothing unacknowledged. -/
def State.acked (s : State) (r : ThreadRef) : Bool := !(s.tile r.tile).unacked (s.thread r).owner

/-- Tests a fence: every probed bank has echoed and, for fence.part, nothing is unacknowledged (R165). -/
def State.tryFence (s : State) (r : ThreadRef) (o : Outst) : Option State :=
  match o.cond with
  | .fence [] acks tp after => if acks && !s.acked r then none else some (s.fenceEnd r o tp after)
  | _ => none

/-- A fence of a scope. -/
def fenceForm (i : Instr) (scope : Fin 8 → Nat → Bool) (acks : Bool) (tp : PReg) (after : Nat) (timeout : Option SReg)
    (s : State) : Out :=
  .next (s.issue i false fun s =>
    let r := s.cur
    let op := s.th.nextOp
    let banks := s.th.touched (scope r.core)
    let tm := timeout.map fun b => timeoutOf (s.th.getS b)
    if banks.isEmpty && !(acks && !s.acked r) && after = 0 then
      .next (if acks then s.modTh fun t => t.setP tp false else s)
    else
      let s := s.probe banks
      let s := s.waitFor none (if acks then [.p tp] else []) (.fence banks acks tp after) 0 0 tm
      match (s.thread r).op? op with
      | some o => .stay ((s.tryFence r o).getD s)
      | none => .stay s)

def execSyncFenceCore (s : State) : Out := fenceForm .syncFenceCore ownBank false 0 0 none s
def execSyncFenceTile (s : State) : Out := fenceForm .syncFenceTile (fun _ _ => true) false 0 0 none s
def execSyncFencePart (b : SReg) (tp : PReg) (s : State) : Out :=
  fenceForm (.syncFencePart b tp) (fun _ _ => true) true tp 0 (some b) s
def execSyncRo (s : State) : Out := fenceForm .syncRo (fun _ _ => true) false 0 4 none s
def execSyncRec (s : State) : Out := fenceForm .syncRec (fun _ _ => true) false 0 16 none s

/-! ## Watched words (R169, R170) -/

def execSyncWatch (a : SReg) (s : State) : Out :=
  .next (s.issue (.syncWatch a) false fun s =>
    let x := s.th.getS a
    let l := s.launch s.cur.tile
    if x &&& 3 != 0 then .trap .align x
    else if !(ownLm l s.cur.tile x 4 && amCore x == s.cur.core) then .trap .xscope x
    else .next (s.modTh fun t => { t with watch := some ((lmPlace l x).off / 4), ready := false }))

def execSyncUnwatch (s : State) : Out :=
  .next (s.issue .syncUnwatch false (onRegs fun t => { t with watch := none, ready := false }))

/-- sync.waitw: the ready bit is tested in phase 2 of the cycle of issue and of each later one (R169, R170, R436). -/
def execSyncWaitw (b : SReg) (tp : PReg) (la : BitVec 4) (s : State) : Out :=
  .next (s.issue (.syncWaitw b tp la) true fun s =>
    if s.th.watch.isNone then .next (s.deferRes la [.p tp] 2 { p := [(tp, true)] })
    else .next (s.waitFor (some la) [.p tp] (.watch tp) 0 2 (some (timeoutOf (s.th.getS b)))))

/-- Whether a unit may be displaced or wait-parked (R339, R340). -/
def Thread.mayDisplace (t : Thread) (det : Bool) : Bool := !det && t.resv.isNone && !t.ih && t.binds.isEmpty

/-- Whether a waitw that found its ready bit clear wait-parks instead of waiting in its slot (R340). -/
def State.canWaitPark (s : State) (r : ThreadRef) : Bool :=
  let c := s.core r.tile r.core
  let t := s.thread r
  t.mayDisplace (s.launch r.tile).det && c.entries != 0 && !(c.threads.toList.any fun t => t.vacant (s.now r.tile)) &&
    c.freeFrame.isSome && c.park.length < 64 && t.st == .running

/-- Expiry of a wait-parked timeout: the entry goes to the bottom of its level with tp = 1 (R340). -/
def State.waitParkExpire (s : State) (tile : Nat) (core : Fin 8) (frame : Nat) : State :=
  let isIt (e : ParkKey × Entry) : Bool := match e.1 with
    | .waitw _ x => x ≤ s.now tile && e.2.frame == some frame
    | _ => false
  match (s.core tile core).park.find? isIt with
  | none => s
  | some e => s.modCore tile core fun c =>
      ({ c with park := c.park.filter fun y => !isIt y }).pushBottom { e.2 with waitOut := some true }

/-- The test of a waitw in phase 2 (R170): taken, or left waiting; the first test that fails may begin a wait-parking (R340). -/
def State.tryWatch (s : State) (r : ThreadRef) (o : Outst) (tp : PReg) : Option State :=
  if (s.thread r).ready then some ((s.modThread r fun t => { t with ready := false }).resolve r o { p := [(tp, false)] })
  else if o.start = s.now r.tile && s.canWaitPark r then some (s.beginSuspend r .waitPark)
  else none

/-! ## Full/empty words (R171 to R173) -/

/-- The operand checks of R172, in order. -/
def State.feCheck (s : State) (a : Word) : Option Cause :=
  let l := s.launch s.cur.tile
  if a &&& 3 != 0 then some .align
  else if isTileMap a && amTile a ≠ s.cur.tile then some .xscope
  else if ownLm l s.cur.tile a 4 then none else some .prot

/-- A waiting full/empty form (R172, R436). -/
def feForm (i : Instr) (form : FeForm) (d a b : SReg) (tp : PReg) (la : BitVec 4) (s : State) : Out :=
  .next (s.issue i true fun s =>
    let x := s.th.getS a
    match s.feCheck x with
    | some c => .trap c x
    | none =>
      let p := lmPlace (s.launch s.cur.tile) x
      let dests := if form = .stef then [.p tp] else [.s d, .p tp]
      let acc := s.newAccess x (.lm p.core p.off) 4 (.fe form d ((s.th.getS d).setWidth 32) tp) [p.bank] p.core 0
      .next (((s.modTh fun t => t.touch acc.banks).waitFor (some la) dests (.port (some tp)) (s.portReach s.cur p.core) acc.lag
        (some (timeoutOf (s.th.getS b)))).sendAccess acc))

def execSyncLdf (d a b : SReg) (tp : PReg) (la : BitVec 4) (s : State) : Out :=
  feForm (.syncLdf d a b tp la) .ldf d a b tp la s
def execSyncLdfe (d a b : SReg) (tp : PReg) (la : BitVec 4) (s : State) : Out :=
  feForm (.syncLdfe d a b tp la) .ldfe d a b tp la s
def execSyncStef (d a b : SReg) (tp : PReg) (la : BitVec 4) (s : State) : Out :=
  feForm (.syncStef d a b tp la) .stef d a b tp la s

/-- Sets a word full or empty. -/
def State.setFull (s : State) (tile : Nat) (core : Fin 8) (w : Nat) (b : Bool) : State :=
  s.modCore tile core fun c => { c with full := if b then c.full.set w () else c.full.erase w }

/-- Whether a full/empty request can be served: the word is full for ldf and ldfe, empty for stef (R172). -/
def State.feReady (s : State) (a : Access) (form : FeForm) : Bool :=
  match a.place with
  | .lm core o => ((s.core a.r.tile core).full.has (o / 4)) == (form != .stef)
  | _ => false

/-- A full/empty request is served at its word's port (R172). -/
def State.performFe (s : State) (a : Access) (form : FeForm) (d : SReg) (data : W32) (tp : PReg) : State :=
  let done (s : State) : State := s.modTile a.r.tile fun t => t.dropAccess a.r a.op
  match a.place with
  | .lm core o =>
    let load (s : State) : State := (done s).resolveIn a.r a.op a.lag
      { s := [(d, BitVec.ofNat 64 (s.lmRead a.r.tile core o 4))], p := [(tp, false)] }
    match form with
    | .ldf => if s.lmBad a.r.tile core o 4 then s.failAccess a .ue else load s
    | .ldfe => if s.lmBad a.r.tile core o 4 then s.failAccess a .ue else (load s).setFull a.r.tile core (o / 4) false
    | .stef =>
      (((done s).lmWrite a.r.tile core o 4 data.toNat (some a.r)).setFull a.r.tile core (o / 4) true).resolveIn a.r a.op a.lag
        { p := [(tp, false)] }
  | _ => done s

/-- sync.stf and sync.clre (R172). -/
def feStore (i : Instr) (a : SReg) (act : Thread → Act) (s : State) : Out :=
  .next (s.issue i false fun s =>
    let x := s.th.getS a
    match s.feCheck x with
    | some c => .trap c x
    | none =>
      let p := lmPlace (s.launch s.cur.tile) x
      .next (s.sendStore (s.newAccess x (.lm p.core p.off) 4 (act s.th) [p.bank] p.core 0)))

def execSyncStf (d a : SReg) (s : State) : Out := feStore (.syncStf d a) a (fun t => .stf ((t.getS d).setWidth 32)) s
def execSyncClre (a : SReg) (s : State) : Out := feStore (.syncClre a) a (fun _ => .clre) s

/-- sync.stf and sync.clre perform at the word's port (R172). -/
def State.performStf (s : State) (a : Access) (v : Option W32) : State :=
  let s := s.modTile a.r.tile fun t => t.dropAccess a.r a.op
  match a.place, v with
  | .lm core o, some v => (s.lmWrite a.r.tile core o 4 v.toNat (some a.r)).setFull a.r.tile core (o / 4) true
  | .lm core o, none => s.setFull a.r.tile core (o / 4) false
  | _, _ => s

/-! ## Line-cache maintenance (R176) -/

/-- A writeback counts as outstanding for its unit until its slice acknowledges it (R165, R176). -/
def State.awaitAck (s : State) (tile owner : Nat) : State :=
  let (ref, s) := s.takeRef tile
  let (k, s) := s.takeFresh
  let s := s.modTile tile fun t => { t with copy := { t.copy with acks := t.copy.acks.set ref (.post owner) } }
  s.atTile tile (1 + Config.freeLatency k) .ackReceived ⟨tile, 0, 0⟩ { n := ref }

/-- sync.lwb and sync.linv on the line holding s[a]: an access to the line's bank (R164, R176). -/
def lineForm (i : Instr) (a : SReg) (drop : Bool) (s : State) : Out :=
  .next (s.issue i false fun s =>
    let x := s.th.getS a
    if !isGlobal x then .trap .prot x
    else .next (s.sendStore (s.newAccess x .glob 1 (.line drop) (s.globBanks x) (homeCore (lineIx x)) 0)))

/-- Line maintenance performs in the home core's line cache; on an absent line it does nothing, but its translation may fault
(R176). After an invalidation no fill under way brings the line in (R286). -/
def State.performLine (s : State) (a : Access) (drop : Bool) : State :=
  let tile := a.r.tile
  let l := lineIx a.va
  let core := homeCore l
  let done (s : State) : State := s.modTile tile fun t => t.dropAccess a.r a.op
  let drops (s : State) : State := if drop then s.modTile tile fun t => t.forgetMisses l false core else s
  match (s.core tile core).lineGet? l with
  | some y =>
    let s := if y.dirty then ((done s).lineClean tile core y false (some (storeSrc tile (some a.r)))).awaitAck tile a.owner else done s
    drops (if drop then s.modCore tile core fun c => c.lineDrop y.tag else s)
  | none =>
    match s.translate tile a.va false false with
    | (s, .fault _) => s.failAccess a .page
    | (s, .refused) => s.failAccess a .prot
    | (s, _) => drops (done s)

def execSyncLwb (a : SReg) (s : State) : Out := lineForm (.syncLwb a) a false s
def execSyncLinv (a : SReg) (s : State) : Out := lineForm (.syncLinv a) a true s

end Sys2Proof.Machine
end

