-- ==== Sys2Proof/Machine/Msg.lean ====
section
/-!
DEFINITION. Crossbar messages: the msg major and the crossing of R32 (spec/06 R184 to R187, spec/01 R32, R33).
-/
namespace Sys2Proof.Machine

/-- A port field names a core. -/
def portCore (p : PReg) : Fin 8 := p.toFin

/-- msg.send: decided at the send queue one cycle after issue (R185, R436). -/
def execMsgSend (d : PReg) (a b : SReg) (tp : PReg) (la : BitVec 4) (s : State) : Out :=
  .next (s.issue (.msgSend d a b tp la) true fun s =>
    let s := s.modTh fun t => { t with msgUsed := true }
    .next (s.waitFor (some la) [.p tp] (.send (portCore d) (s.th.getS a) tp) 1 2 (some (timeoutOf (s.th.getS b)))))

/-- A waiting send finds room: the message takes the thread's next sequence for the destination and enters the queue (R185). -/
def State.trySend (s : State) (r : ThreadRef) (o : Outst) (dst : Fin 8) (payload : Word) (tp : PReg) : Option State :=
  if !s.sendRoom r dst then none
  else
    let seq := nextSeq (s.thread r).mseq[dst]
    let s := s.enqueueMsg r dst ⟨payload, r.core, r.thr, seq, none, s.now r.tile⟩
    some ((s.modThread r fun t => { t with mseq := t.mseq.set dst seq }).resolve r o { p := [(tp, false)] })

/-- A receive form (R186). -/
def recvForm (form : RecvForm) (d : SReg) (a : PReg) (b : SReg) (tp : PReg) (la : BitVec 4) (s : State) : Eff :=
  let s := s.modTh fun t => { t with msgUsed := true }
  .next (s.waitFor (some la) [.s d, .p tp] (.recv form (portCore a) d tp) 0 4 (some (timeoutOf (s.th.getS b))))

/-- msg.recv; ILLEGAL in a determinate launch (R186, R187). -/
def execMsgRecv (d : SReg) (a : PReg) (b : SReg) (tp : PReg) (la : BitVec 4) (s : State) : Out :=
  let i : Instr := .msgRecv d a b tp la
  .next (s.issue i true fun s =>
    if (s.launch s.cur.tile).det then .trap .illegal (wordOf i) else recvForm .any d a b tp la s)

def execMsgRecvs (d : SReg) (a : PReg) (b : SReg) (tp : PReg) (la : BitVec 4) (s : State) : Out :=
  let i : Instr := .msgRecvs d a b tp la
  .next (s.issue i true fun s =>
    let x := (s.th.getS d).toNat
    if 2 ^ 20 ≤ x then .trap .illegal (wordOf i)
    else recvForm (.named (x / 2 ^ 16) (x % 2 ^ 16)) d a b tp la s)

def execMsgRecvr (d : SReg) (a : PReg) (b : SReg) (tp : PReg) (la : BitVec 4) (s : State) : Out :=
  let i : Instr := .msgRecvr d a b tp la
  .next (s.issue i true fun s =>
    let x := (s.th.getS d).toNat
    if 2 ^ 16 ≤ x then .trap .illegal (wordOf i) else recvForm (.ret x) d a b tp la s)

/-- Whether a receive form takes a message (R186). -/
def RecvForm.takes (f : RecvForm) (me : Fin 16) (m : Msg) : Bool :=
  match f with
  | .any => m.ret.isNone
  | .named thr seq => m.ret.isNone && m.thr.val == thr && m.seq.toNat == seq
  | .ret seq => m.ret == some me && m.seq.toNat == seq

/-- Removes the first element that a test accepts. -/
def takeFirst {α : Type} (p : α → Bool) : List α → Option (α × List α)
  | [] => none
  | x :: xs => if p x then some (x, xs) else (takeFirst p xs).map fun y => (y.1, x :: y.2)

/-- A waiting receive looks for its message among the readable ones (R32, R186). -/
def State.tryRecv (s : State) (r : ThreadRef) (o : Outst) (f : RecvForm) (src : Fin 8) (d : SReg) (tp : PReg) : Option State :=
  match takeFirst (fun m => m.at_ ≤ s.now r.tile && f.takes r.thr m) (s.core r.tile r.core).recvq[src] with
  | none => none
  | some (m, rest) =>
    let s := s.modCore r.tile r.core fun c => { c with recvq := c.recvq.set src rest }
    some (s.resolve r o { s := [(d, m.payload)], p := [(tp, false)] })

/-- msg.peek (R186, R187). -/
def execMsgPeek (d : SReg) (a : PReg) (s : State) : Out :=
  .next (s.issue (.msgPeek d a) false fun s =>
    if (s.launch s.cur.tile).det then .trap .illegal (wordOf (.msgPeek d a))
    else
      let q := (s.core s.cur.tile s.cur.core).recvq[portCore a].filter fun m => m.at_ ≤ s.now s.cur.tile
      let x : Word := match q with
        | [] => 0
        | m :: _ => BitVec.ofNat 64 (2 ^ 31 + (if m.ret.isSome then 2 ^ 30 else 0) + m.thr.val * 2 ^ 16 + m.seq.toNat)
      .next (s.modTh fun t => { (t.setS d x) with msgUsed := true }))

/-! ## Crossing (R32, R33) -/

/-- Whether a message may leave the send queue of core c for core k now, one in a turn (R32). -/
def State.mayCross (s : State) (tile : Nat) (c k : Fin 8) : Bool :=
  let m := s.now tile
  match (s.core tile c).sendq[k] with
  | [] => false
  | x :: _ => x.at_ ≤ m && m % 8 == (k.val + 8 - c.val) % 8 && (s.core tile k).recvq[c].length < 8 &&
      !(s.core tile k).recvq[c].any (·.at_ == m + 2)

/-- MESSAGE_CROSSING: the oldest message crosses; it is readable two cycles later (R32). -/
def State.cross (s : State) (tile : Nat) (c k : Fin 8) : State :=
  match (s.core tile c).sendq[k] with
  | [] => s
  | x :: rest =>
    let s := s.modCore tile c fun co => { co with sendq := co.sendq.set k rest }
    s.modCore tile k fun co => { co with recvq := co.recvq.set c (co.recvq[c] ++ [{ x with at_ := s.now tile + 2 }]) }

def execMessageCrossing (s : State) : Out :=
  let dst : Fin 8 := ⟨s.arg.n % 8, Nat.mod_lt _ (by decide)⟩
  .next (if s.mayCross s.cur.tile s.cur.core dst then s.cross s.cur.tile s.cur.core dst else s)

end Sys2Proof.Machine
end

