-- ==== Sys2Proof/Machine/Cells.lean ====
section
/-!
DEFINITION. The cell array of a tile: posts, samples, the barrier's and the probe's tokens (spec/06 R188 to R192, spec/07 R221,
spec/09 R263).
-/
namespace Sys2Proof.Machine

def Tile.modCopy (t : Tile) (f : CopyUnit → CopyUnit) : Tile := { t with copy := f t.copy }
def State.copyUnit (s : State) (tile : Nat) : CopyUnit := (s.tile tile).copy
def State.modCopy (s : State) (tile : Nat) (f : CopyUnit → CopyUnit) : State := s.modTile tile fun t => t.modCopy f
def State.modChan (s : State) (tile k : Nat) (f : Chan → Chan) : State :=
  s.modCopy tile fun c => { c with chans := c.chans.set k (f (c.chan k)) }

/-- A launch exports a window kind (R88). -/
def Launch.exports (l : Launch) (kind : Nat) : Bool := l.expo.getLsbD kind

/-! ## Cells (R188) -/

def Tile.cell (t : Tile) (k : Nat) : Cell := t.cells.getD k {}

/-- The 64 bytes of a cell as bits, bytes 40 to 63 zero (R188). -/
def Cell.bits (c : Cell) : BitVec 512 := (0 : BitVec 192) ++ c.act ++ c.writer ++ c.count ++ c.value

/-- One post performs on a cell (R190). -/
def Cell.post (c : Cell) (v : V256) (writer act : BitVec 16) : Cell := ⟨v, c.count + 1, writer, act⟩

/-- Bytes of a value, as a number. -/
def valBytes (v : V256) (o n : Nat) : Nat := v.toNat / 2 ^ (8 * o) % 2 ^ (8 * n)

/-! ## Launch order (R221) -/

/-- Number of tiles of a launch. -/
def Launch.size (l : Launch) : Nat := l.w * l.h
/-- Launch order of a tile (R221). -/
def Launch.order (l : Launch) (tile : Nat) : Nat := (gyOf tile - l.gy0) * l.w + (gxOf tile - l.gx0)
/-- The tile at a launch order. -/
def Launch.tileAt (l : Launch) (i : Nat) : Nat := Machine.tileAt (l.gx0 + i % l.w) (l.gy0 + i / l.w)
/-- ceil(log2 N), the rounds of a barrier (R221). -/
def Launch.rounds (l : Launch) : Nat := if l.size ≤ 1 then 0 else (l.size - 1).log2 + 1
/-- The barrier cell of a round and the probe cell, which the loader keeps (R413 step 5). -/
def barrierCell (k : Nat) : Nat := 254 - k
def probeCell : Nat := 255

/-! ## Posts (R190, R263) -/

/-- A post of the copy unit itself to a cell of its own or another tile of the partition (R190); `ack` says what its
acknowledgement is for. -/
def State.unitPost (s : State) (tile dst cell : Nat) (v : V256) (ack : AckFor := .none) : State :=
  if dst = tile then
    s.modTile tile fun t => t.modCopy fun c => { c with posts := c.posts ++
      [{ at_ := s.now tile, cell := cell, value := v, writer := BitVec.ofNat 16 (tile % 0x2000), act := t.kact.setWidth 16 }] }
  else if (s.part (s.launch tile).part).hasTile dst then
    let (ref, s) := s.takeRef tile
    let s := s.modCopy tile fun c => { c with acks := c.acks.set ref ack }
    s.sendFlit tile { flit := s.mkFlit tile 0 dst ref (.post cell v ((s.tile tile).kact.setWidth 16) true) }
  else s.modCopy tile fun c => { c with rpost := c.rpost + 1 }

/-- Occupancy of a core's post path (R190). -/
def State.pathLen (s : State) (tile : Nat) (c : Fin 8) : Nat :=
  (s.core tile c).posts.length + ((s.copyUnit tile).inj.filter fun x => x.core == some c && x.chan.isNone).length

/-- A thread's post enters its core's post path (R190). -/
def State.enterPost (s : State) (r : ThreadRef) (v : V256) (a : Word) : State :=
  let tile := r.tile
  let dst := amTile a
  let cell := amOff a / 64
  let act : BitVec 16 := (s.tile tile).kact.setWidth 16
  let s := s.modCopy tile fun c => { c with work := true }
  let owner := (s.thread r).owner
  if dst = tile then s.modCore tile r.core fun c => { c with posts := c.posts ++ [(s.now tile + 4, owner, cell, v, act)] }
  else if (s.part (s.launch tile).part).hasTile dst then
    let (ref, s) := s.takeRef tile
    let s := s.modCopy tile fun c => { c with acks := c.acks.set ref (.post owner) }
    s.sendFlit tile { flit := s.mkFlit tile 0 dst ref (.post cell v act false), core := some r.core }
  else s.modCopy tile fun c => { c with rpost := c.rpost + 1 }

/-- The intake of a cell array has room (R263). -/
def Tile.intakeRoom (t : Tile) : Bool := t.intake.length < 8

/-- The unit's own posts enter the cell array's intake while it has room (R263). -/
def State.moveUnitPosts (s : State) (tile : Nat) : State × Bool :=
  match (s.copyUnit tile).posts with
  | p :: rest =>
    if (s.tile tile).intakeRoom then
      (s.modTile tile fun t => { t with intake := t.intake ++ [{ p with at_ := s.now tile }],
                                        copy := { t.copy with posts := rest } }, true)
    else (s, false)
  | [] => (s, false)

/-- Own-tile posts whose time has come enter the cell array's intake while it has room (R190, R263). -/
def State.movePosts (s : State) (tile : Nat) : State × Bool :=
  (List.finRange 8).foldl (fun (s, any) c =>
    match (s.core tile c).posts with
    | (n, owner, cell, v, act) :: rest =>
      if n ≤ s.now tile && (s.tile tile).intakeRoom then
        let s := s.modCore tile c fun co => { co with posts := rest }
        (s.modTile tile fun t => { t with intake := t.intake ++
          [{ at_ := s.now tile, cell := cell, value := v, writer := BitVec.ofNat 16 (tile % 0x2000), act := act,
             owner := some owner, born := n }] }, true)
      else (s, any)
    | [] => (s, any)) (s.moveUnitPosts tile)

/-- The post that the array performs next on a cell: the earliest, the lowest source tile among equals (R263). -/
def Tile.nextPost (t : Tile) (cell : Nat) : Option IntakePost :=
  (t.intake.filter fun p => p.cell == cell).foldl (fun best p =>
    match best with
    | none => some p
    | some b => if p.at_ < b.at_ || (p.at_ == b.at_ && p.writer.toNat < b.writer.toNat) then some p else some b) none

/-- A cell can perform a post in this cycle (R263). -/
def Tile.cellReady (t : Tile) (now cell : Nat) : Bool :=
  (t.intake.any fun p => p.cell == cell) && (t.cellLast.get? cell != some now)

/-- Removes the first element equal to x. -/
def eraseOne {α : Type} [DecidableEq α] (x : α) : List α → List α
  | [] => []
  | y :: ys => if x = y then ys else y :: eraseOne x ys

/-- POST_PERFORM: a post of the intake performs on its cell (R190, R263); its writer is told; a barrier's or a probe's
token is then looked at (R221). -/
def State.performPost (s : State) (tile cell : Nat) : State :=
  let now := s.now tile
  match (s.tile tile).nextPost cell with
  | none => s
  | some p =>
    let s := s.modTile tile fun t => { t with
      intake := eraseOne p t.intake
      cells := t.cells.set cell ((t.cell cell).post p.value p.writer p.act)
      cellLast := t.cellLast.set cell now }
    let s := if p.writer.toNat = tile then s
      else s.sendFlit tile { flit := s.mkFlit tile 0 p.writer.toNat p.ref (.ack 0) }
    let l := s.launch tile
    if cell = probeCell then s.atTile tile 0 .probeToken
    else if 254 < cell + l.rounds then s.atTile tile 0 .barrierToken ⟨tile, 0, 0⟩ { n := 254 - cell }
    else s

def execPostPerform (s : State) : Out := .next (s.performPost s.cur.tile s.arg.n)

/-! ## The barrier (R192, R221) -/

/-- The value of a barrier cell: the epoch and the round (R221). -/
def barrierValue (epoch : W32) (k : Nat) : V256 := BitVec.ofNat 256 (epoch.toNat + 2 ^ 32 * k)

/-- An epoch in a cell has reached one: (e - epoch) mod 2^32 < 2^31 (R221). -/
def epochReached (e epoch : W32) : Bool := (e - epoch).toNat < 2 ^ 31

/-- The last round has completed: joined threads and copy.bar commands complete (R192, R221). -/
def State.barrierDone (s : State) (tile : Nat) (b : Barrier) : State :=
  let s := s.modCopy tile fun c => { c with bar := none }
  let s := (tileThreads tile).foldl (fun s r =>
    (s.thread r).outst.foldl (fun s o =>
      match o.cond with
      | .bar d tp => s.resolve r o { s := [(d, zx b.epoch)], p := [(tp, false)] }
      | _ => s) s) s
  b.chans.foldl (fun s k => s.atTile tile 0 .copyCompletion ⟨tile, 0, 0⟩ { n := k, m := 0 }) s

/-- The rounds go on as long as the own cell of the round holds the epoch (R221). -/
def State.barrierRun (s : State) (tile : Nat) : Nat → State
  | 0 => s
  | fuel + 1 =>
    match (s.copyUnit tile).bar with
    | none => s
    | some b =>
      let l := s.launch tile
      if l.rounds ≤ b.round then s.barrierDone tile b
      else
        let e : W32 := BitVec.ofNat 32 (valBytes ((s.tile tile).cell (barrierCell b.round)).value 0 4)
        if epochReached e b.epoch then
          let k := b.round + 1
          let s := s.modCopy tile fun c => { c with bar := some { b with round := k } }
          let s := if k < l.rounds then
              s.unitPost tile (l.tileAt ((l.order tile + 2 ^ k) % l.size)) (barrierCell k) (barrierValue b.epoch k)
            else s
          State.barrierRun s tile fuel
        else s

/-- Starts the rounds of the next epoch (R192, R221). -/
def State.barrierStart (s : State) (tile : Nat) : State :=
  let l := s.launch tile
  let e := (s.copyUnit tile).bepoch + 1
  let s := s.modCopy tile fun c => { c with bepoch := e, bar := some { epoch := e, round := 0 } }
  let s := if l.rounds = 0 then s
    else s.unitPost tile (l.tileAt ((l.order tile + 1) % l.size)) (barrierCell 0) (barrierValue e 0)
  s

/-- BARRIER_TOKEN: a round's post has arrived (R221). -/
def execBarrierToken (s : State) : Out := .next (s.barrierRun s.cur.tile 17)

/-! ## The probe (R221) -/

/-- The token in a probe cell: round, mark, initiating tile (R221). -/
def probeValue (round : W32) (mark : Bool) (init : Nat) : V256 :=
  BitVec.ofNat 256 (round.toNat + (if mark then 2 ^ 32 else 0) + init % 2 ^ 16 * 2 ^ 48)

/-- PROBE_TOKEN: the token is marked with the work bit and passed on, or completes the probe of its initiator (R221). -/
def execProbeToken (s : State) : Out :=
  let tile := s.cur.tile
  let l := s.launch tile
  let v := ((s.tile tile).cell probeCell).value
  let round : W32 := BitVec.ofNat 32 (valBytes v 0 4)
  let mark := valBytes v 4 1 % 2 == 1 || (s.copyUnit tile).work
  let init := valBytes v 6 2
  let s := s.modCopy tile fun c => { c with work := false }
  if init = tile % 0x2000 then
    match (s.copyUnit tile).probes.find? fun p => p.2 == round with
    | some p =>
      .next ((s.modCopy tile fun c => { c with probes := c.probes.filter (· != p) }).atTile tile 0 .copyCompletion
        ⟨tile, 0, 0⟩ { n := p.1, m := if mark then 0x0D else 0 })
    | none => .next s
  else
    .next (s.unitPost tile (l.tileAt ((l.order tile + 1) % l.size)) probeCell (probeValue round mark init))

/-! ## Samples (R191) -/

/-- A snapshot as the two vector registers of smp.sample. -/
def snapWrites (d : VReg) (tp : PReg) (x : BitVec 512) : Writes :=
  { v := [(d, x.extractLsb' 0 256), (d + 1, x.extractLsb' 256 256)], p := [(tp, false)] }

/-- SAMPLE_REQUEST: the cell array answers at once with a snapshot, or with a refusal when the launch does not export its
cells to the asking program thread (R190, R191); the own tile's answer is there 4 cycles later. Operands: cell, asking tile, reference,
whether a unit asks. -/
def execSampleRequest (s : State) : Out :=
  let tile := s.cur.tile
  let l := s.launch tile
  let src := s.arg.m
  let snap := if s.arg.ok || l.exports 9 then some ((s.tile tile).cell s.arg.n).bits else none
  .next (if src = tile then
      s.atTile tile 4 .sampleReply ⟨tile, 0, 0⟩ { n := s.arg.w.toNat, d := snap.getD 0, ok := snap.isSome }
    else s.sendFlit tile { flit := s.mkFlit tile 0 src s.arg.w.toNat (.sampleRep snap) })

end Sys2Proof.Machine
end

