-- ==== Sys2Proof/Machine/Smp.lean ====
section
/-!
DEFINITION. The smp major: posts, samples, counts and the barrier as a thread issues them (spec/06 R188 to R192).
-/
namespace Sys2Proof.Machine

/-- The checks of a cell address, in order (R189). -/
def State.cellCheck (s : State) (a : Word) (own : Bool) : Option Cause :=
  if a &&& 63 != 0 then some .align
  else if !(isTileMap a && amFormOk a && amKind a == 9 && amOff a < 16384) then some .prot
  else if own && amTile a != s.cur.tile then some .xscope
  else none

/-- smp.post: into the core's post path, which holds 8; a full path holds the thread (R190). -/
def execSmpPost (d : VReg) (a : SReg) (s : State) : Out :=
  .next (s.issue (.smpPost d a) false fun s =>
    let x := s.th.getS a
    match s.cellCheck x false with
    | some c => .trap c x
    | none =>
      if 8 ≤ s.pathLen s.cur.tile s.cur.core then .stay (s.waitFor none [] (.post (s.th.getV d) x) 0 0 none)
      else .next (s.enterPost s.cur (s.th.getV d) x))

/-- A waiting post finds room in its core's path (R190). -/
def State.tryPost (s : State) (r : ThreadRef) (o : Outst) (v : V256) (a : Word) : Option State :=
  if 8 ≤ s.pathLen r.tile r.core then none else some ((s.enterPost r v a).resolve r o {})

/-- smp.sample of an own-tile cell at its cell array, of another tile by a class-0 request (R191). A tile outside the
partition refuses it. -/
def execSmpSample (d : VReg) (a b : SReg) (tp : PReg) (la : BitVec 4) (s : State) : Out :=
  let i : Instr := .smpSample d a b tp la
  .next (s.issue i true fun s =>
    let x := s.th.getS a
    let tile := s.cur.tile
    let dests : List RegRef := [.v d, .v (d + 1), .p tp]
    if d.getLsbD 0 then .trap .illegal (wordOf i)
    else match s.cellCheck x false with
    | some c => .trap c x
    | none =>
      let cell : Fin 256 := ⟨amOff x / 64 % 256, Nat.mod_lt _ (by decide)⟩
      if amTile x = tile then .next (s.waitFor (some la) dests (.snap cell d tp) 4 4 none)
      else if !(s.part (s.launch tile).part).hasTile (amTile x) then
        .next ((s.modCopy tile fun c => { c with rsmp := c.rsmp + 1 }).deferRes la dests 2 { p := [(tp, true)] })
      else
        let (ref, s) := s.takeRef tile
        let op := s.th.nextOp
        let s := s.modCopy tile fun c => { c with samples := c.samples.set ref (.thread s.cur.core s.cur.thr op) }
        let s := s.sendFlit tile { flit := s.mkFlit tile 0 (amTile x) ref (.sampleReq cell.val false) }
        .next (s.waitFor (some la) dests (.sample ref (amTile x) cell.val d tp) 0 2 (some (timeoutOf (s.th.getS b)))))

/-- smp.count: the cell array is read 4 cycles after issue, the result arrives 2 later (R191). -/
def execSmpCount (d a : SReg) (la : BitVec 4) (s : State) : Out :=
  .next (s.issue (.smpCount d a la) true fun s =>
    let x := s.th.getS a
    match s.cellCheck x true with
    | some c => .trap c x
    | none => .next (s.waitFor (some la) [.s d] (.count ⟨amOff x / 64 % 256, Nat.mod_lt _ (by decide)⟩ d) 4 2 none))

/-- smp.wait: tested at the cell array from 4 cycles after issue on (R191, R436). -/
def execSmpWait (d a b : SReg) (tp : PReg) (la : BitVec 4) (s : State) : Out :=
  .next (s.issue (.smpWait d a b tp la) true fun s =>
    let x := s.th.getS a
    match s.cellCheck x true with
    | some c => .trap c x
    | none =>
      let old : W32 := (s.th.getS d).setWidth 32
      .next (s.waitFor (some la) [.s d, .p tp] (.cell ⟨amOff x / 64 % 256, Nat.mod_lt _ (by decide)⟩ old d tp) 4 2
        (some (timeoutOf (s.th.getS b)))))

/-- A post of a unit to a cell of its tile, issued before what reaches the array in a cycle, has not performed (R263, R282): both
reach the array 4 cycles after their issue. -/
def Tile.ownPost (t : Tile) (owner cell reach : Nat) : Bool :=
  (t.intake.any fun p => p.owner == some owner && p.cell == cell && p.born < reach) ||
    t.cores.toList.any fun c => c.posts.any fun p => p.2.1 == owner && p.2.2.1 == cell && p.1 < reach

/-- Tests the own-tile cell conditions: the array is read after the posts of the cycle and after the thread's own earlier
posts to the cell (R191, R263). -/
def State.tryCell (s : State) (r : ThreadRef) (o : Outst) : Option State :=
  let now := s.now r.tile
  let t := s.tile r.tile
  let owner := (s.thread r).owner
  match o.cond with
  | .snap cell d tp =>
    if t.cellReady now cell.val || t.ownPost owner cell.val o.start then none
    else some (s.resolve r o (snapWrites d tp (t.cell cell.val).bits))
  | .count cell d =>
    if t.cellReady now cell.val || t.ownPost owner cell.val o.start then none
    else some (s.resolve r o { s := [(d, zx (t.cell cell.val).count)] })
  | .cell cell old d tp =>
    let n := (t.cell cell.val).count
    if t.cellReady now cell.val || t.ownPost owner cell.val o.start || n == old then none
    else some (s.resolve r o { s := [(d, zx n)], p := [(tp, false)] })
  | _ => none

/-- smp.bar: joins the barrier in progress, or starts the next epoch (R192). -/
def execSmpBar (d b : SReg) (tp : PReg) (la : BitVec 4) (s : State) : Out :=
  .next (s.issue (.smpBar d b tp la) true fun s =>
    let tile := s.cur.tile
    let s := if (s.copyUnit tile).bar.isSome then s else s.barrierStart tile
    let s := s.waitFor (some la) [.s d, .p tp] (.bar d tp) 0 4 (some (timeoutOf (s.th.getS b)))
    .next (s.barrierRun tile 17))

end Sys2Proof.Machine
end

