-- ==== Sys2Proof/Machine/Shape.lean ====
section
/-!
DEFINITION. What the copy unit and the engines share: accesses of their own tile's memory (spec/07 R200, R208), tensor shape
records and their cache (R209 to R212), scale streams (spec/02 R49 to R51), failure records (R206).
-/
namespace Sys2Proof.Machine

/-! ## Accesses of a unit (R200, R208) -/

/-- Why an access of a unit is refused. -/
inductive UErr where
  /-- A translation fault at an address, which is held pending (R225, R392). -/
  | page (va : Word)
  | prot
  | noexport
  | ue
  deriving DecidableEq, Repr, Inhabited

/-- The completion status of a refusal (R207). -/
def UErr.status : UErr → Byte
  | .page _ => 0x0B
  | .prot => 0x02
  | .noexport => 0x03
  | .ue => 0x09

/-- The check of an own-tile or global address of a unit; `kinds` are the window kinds that its table permits (R208). -/
def State.unitCheck (s : State) (tile : Nat) (a : Word) (n : Nat) (kinds : Nat → Bool) : Option UErr :=
  let l := s.launch tile
  if isGlobal a then none
  else if !isTileMap a || !amFormOk a || !kinds (amKind a) then some .prot
  else if amTile a ≠ tile then some .prot
  else if windowSize l (amKind a) < amOff a + n then some .prot
  else none

/-- A command as the source of its stores: its engine (R79), its channel or core, and its identifier tell it from others (R293). -/
def cmdSrc (tile eng unit id : Nat) : StoreSrc := { tile := tile, eng := true, cmd := (64 * eng + unit) * 2 ^ 32 + id }

/-- n bytes within one line of global memory, from the own tile's line cache or the home slice (R200). -/
def State.globalRead (s : State) (tile : Nat) (a : Word) (n : Nat) : State × Except UErr Nat :=
  let l := s.launch tile
  match (s.core tile (homeCore (lineIx a))).lineGet? (lineIx a) with
  | some x => (s, if x.rd then .ok (lineGet x.data (a.toNat % 64) n) else .error .prot)
  | none =>
    match s.translate tile a true false with
    | (s, .ok pa) =>
      let (s, d) := s.sliceFill ((s.part l.part).homeTile (lineIx a)) l.part l.ctx (pa / 64)
      (s, .ok (lineGet d (pa % 64) n))
    | (s, .host pa) =>
      if s.hostBad.has (pa / 64) then ({ s with hostBad := s.hostBad.erase (pa / 64) }, .error .ue) else (s, .ok (s.hostRead pa n))
    | (s, .refused) => (s, .error .prot)
    | (s, .fault _) => (s, .error (.page a))

/-- The own tile's copy of a global line is written back and dropped, and no fill under way brings one: what acts on the line
next acts at its home slice (R200, R214). -/
def State.leaveLine (s : State) (tile : Nat) (a : Word) : State :=
  if !isGlobal a then s
  else (s.lineEvict tile (homeCore (lineIx a)) (lineIx a)).modTile tile fun t =>
    t.forgetMisses (lineIx a) false (homeCore (lineIx a))

/-- A write of n bytes within one line of global memory: the line's home bank writes back and invalidates its copy, then the
home slice takes the bytes (R200). -/
def State.globalWrite (s : State) (tile : Nat) (by_ : Option StoreSrc) (a : Word) (n v : Nat) : State × Option UErr :=
  let l := s.launch tile
  match s.translate tile a false true with
  | (s, .ok pa) =>
    let s := s.leaveLine tile a
    let home := (s.part l.part).homeTile (lineIx a)
    let s := (s.sliceWrite home l.part l.ctx (pa / 64) (pa % 64) n v).noteWrite home l.part (by_.getD (storeSrc tile none))
      (slicePorts a n)
    (s.modTile tile fun t => t.breakResv none fun r =>
      isGlobal r.va && r.va.toNat < a.toNat + n && a.toNat < r.va.toNat + r.size, none)
  | (s, .host pa) => (s.hostWrite pa n v, none)
  | (s, .refused) => (s, some .prot)
  | (s, .fault _) => (s, some (.page a))

/-- n bytes of the own tile at a local-memory or state window. -/
def State.localRead (s : State) (tile : Nat) (a : Word) (n : Nat) : Except UErr Nat :=
  let k := amKind a
  if 8 ≤ k ∧ k ≤ 12 then .ok (bytesToNat (s.portBytes tile (amCore a) k (amOff a) n))
  else
    let p := lmPlace (s.launch tile) a
    if s.lmBad tile p.core p.off n then .error .ue else .ok (s.lmRead tile p.core p.off n)

/-- A write of n bytes to the own tile; words of local memory it touches become full (R171, R200). -/
def State.localWrite (s : State) (tile : Nat) (by_ : Option StoreSrc) (a : Word) (n v : Nat) : State :=
  if amKind a = 11 then s.modTile tile fun t => t.mxPut (amOff a) (natToBytes n v)
  else
    let p := lmPlace (s.launch tile) a
    s.lmWrite tile p.core p.off n v none true by_

/-- A unit has met an uncorrectable error at an address, in local memory at or after it: the word's address is kept (R420). -/
def State.noteUE (s : State) (tile : Nat) (a : Word) : State :=
  if isGlobal a then s.modTile tile fun t => { t with ueAt := a } else
  let p := lmPlace (s.launch tile) a
  let k := ((List.range 4096).find? fun i => (s.core tile p.core).lmUE.has (p.off / 4 + i)).getD 0
  s.modTile tile fun t => { t with ueAt := (a &&& ~~~3) + BitVec.ofNat 64 (4 * k) }

/-- n bytes at an address that has passed `unitCheck`, in pieces of one line; answers the bytes read before an error. -/
def State.unitBytes (s : State) (tile : Nat) : Nat → Word → Nat → List Byte → State × List Byte × Option UErr
  | 0, _, _, acc => (s, acc, none)
  | fuel + 1, a, n, acc =>
    if n = 0 then (s, acc, none)
    else
      let k := if isGlobal a then min n (64 - a.toNat % 64) else n
      let (s, x) := if isGlobal a then s.globalRead tile a k else (s, s.localRead tile a k)
      match x with
      | .error e => (if e = .ue then s.noteUE tile a else s, acc, some e)
      | .ok v => State.unitBytes s tile fuel (a + BitVec.ofNat 64 k) (n - k) (acc ++ natToBytes k v)

/-- A checked read of n bytes by a unit. -/
def State.unitRead (s : State) (tile : Nat) (a : Word) (n : Nat) (kinds : Nat → Bool) : State × Except UErr Nat :=
  match s.unitCheck tile a n kinds with
  | some e => (s, .error e)
  | none =>
    match s.unitBytes tile (n / 64 + 2) a n [] with
    | (s, bs, none) => (s, .ok (bytesToNat bs))
    | (s, _, some e) => (s, .error e)

/-- A write of bytes by a unit at an address that has passed `unitCheck`, in pieces of one line; what it wrote before an
error stays written. `by_` names the command that writes (R293). -/
def State.unitPut (s : State) (tile : Nat) (by_ : Option StoreSrc) : Nat → Word → List Byte → State × Option UErr
  | 0, _, _ => (s, none)
  | fuel + 1, a, bs =>
    if bs.isEmpty then (s, none)
    else
      let k := if isGlobal a then min bs.length (64 - a.toNat % 64) else bs.length
      let v := bytesToNat (bs.take k)
      let (s, e) := if isGlobal a then s.globalWrite tile by_ a k v else (s.localWrite tile by_ a k v, none)
      match e with
      | some e => (s, some e)
      | none => State.unitPut s tile by_ fuel (a + BitVec.ofNat 64 k) (bs.drop k)

/-- A checked write of bytes by a unit. -/
def State.unitWrite (s : State) (tile : Nat) (a : Word) (bs : List Byte) (kinds : Nat → Bool)
    (by_ : Option StoreSrc := none) : State × Option UErr :=
  match s.unitCheck tile a bs.length kinds with
  | some e => (s, some e)
  | none => s.unitPut tile by_ (bs.length / 64 + 2) a bs

/-- A checked read of n bytes at the port that holds them: a local-memory port, or the home slice (R214). -/
def State.homeRead (s : State) (tile : Nat) (a : Word) (n : Nat) (kinds : Nat → Bool) : State × Except UErr Nat :=
  (s.leaveLine tile a).unitRead tile a n kinds

/-- Window kinds of plain local memory (R60, R208). -/
def rawKind (k : Nat) : Bool := k == 0 || k == 7 || k == 14
def kind0or14 (k : Nat) : Bool := k == 0 || k == 14

/-! ## Tensor shape records (R209, R210) -/

/-- A shape record's fields; dimensions at and above the rank have extent 1 and stride 0. -/
structure Shape where
  base : Word
  fmt : Nat
  rank : Nat
  version : Nat
  nc : Bool
  ext : Vector Nat 4
  str : Vector Int 4
  sbase : Word
  deriving DecidableEq, Repr

/-- Reads the fields (R209, R210). -/
def Shape.ofBits (x : BitVec 512) : Shape :=
  let rank := (x.extractLsb' 72 8).toNat
  { base := x.extractLsb' 0 64, fmt := shapeFmt x, rank := rank, version := (x.extractLsb' 96 32).toNat, nc := x.getLsbD 80
    ext := Vector.ofFn fun i : Fin 4 => if i.val < rank then (x.extractLsb' (128 + 32 * i.val) 32).toNat else 1
    str := Vector.ofFn fun i : Fin 4 => if i.val < rank then (x.extractLsb' (256 + 32 * i.val) 32).toInt else 0
    sbase := x.extractLsb' 384 64 }

/-- A format whose elements are nibbles, or have scales (R211). -/
def nibbleFmt (f : Nat) : Bool := f == 2 || f == 6
def scaledFmt (f : Nat) : Bool := f == 5 || f == 6

/-- The checks of R210. -/
def Shape.ok (x : Shape) : Bool :=
  1 ≤ x.rank && x.rank ≤ 4 && x.fmt ≤ 8 && x.version == 1 &&
    !(nibbleFmt x.fmt && (x.str[0] != 1 || x.ext[0] % 2 == 1 ||
      (List.finRange 4).any fun i => i.val != 0 && x.str[i] % 2 != 0)) &&
    !(scaledFmt x.fmt && x.sbase == 0)

/-- Number of elements. -/
def Shape.total (x : Shape) : Nat := x.ext[0] * x.ext[1] * x.ext[2] * x.ext[3]

/-- Nibble address of element i in the order of R210, with i0 fastest. -/
def Shape.nibble (x : Shape) (i : Nat) : Int :=
  let e0 := x.ext[0]
  let e1 := x.ext[1]
  let e2 := x.ext[2]
  let sum := (i % e0 : Nat) * x.str[0] + (i / e0 % e1 : Nat) * x.str[1] + (i / e0 / e1 % e2 : Nat) * x.str[2]
    + (i / e0 / e1 / e2 : Nat) * x.str[3]
  2 * (x.base.toNat : Int) + sum * (fmtBits x.fmt / 4 : Nat)

/-- Byte address of element i; a nibble element also has its half. -/
def Shape.addr (x : Shape) (i : Nat) : Word := BitVec.ofInt 64 (x.nibble i / 2)
def Shape.half (x : Shape) (i : Nat) : Bool := x.nibble i % 2 == 1

/-- Bytes that an element occupies (R211), one for nibbles. -/
def elemBytes (fmt : Nat) : Nat := (fmtBits fmt + 7) / 8

/-- The stored code of element i of a shape (R210, R211). -/
def State.shapeElem (s : State) (tile : Nat) (x : Shape) (i : Nat) (kinds : Nat → Bool) : State × Except UErr Nat :=
  match s.unitRead tile (x.addr i) (elemBytes x.fmt) kinds with
  | (s, .ok v) => (s, .ok (if nibbleFmt x.fmt then (if x.half i then v / 16 else v % 16) else v))
  | r => r

/-! ## Scale streams (R50, R51) -/

/-- The scales of a row from its nibbles: `n` blocks, starting from scale `e` (R50). -/
def scales : Nat → Int → List Nat → List Int
  | 0, _, _ => []
  | n + 1, _, 8 :: a :: b :: rest => let e' := (BitVec.ofNat 8 (a + 16 * b)).toInt; e' :: scales n e' rest
  | n + 1, e, d :: rest => let e' := e + (BitVec.ofNat 4 d).toInt; e' :: scales n e' rest
  | n + 1, e, [] => e :: scales n e []

/-- Nibbles of bytes, the low one first. -/
def nibblesOf (bs : List Byte) : List Nat := bs.flatMap fun b => [b.toNat % 16, b.toNat / 16]

/-- The scales of row j of a shape with block scales (R50). -/
def State.rowScales (s : State) (tile : Nat) (x : Shape) (j : Nat) (kinds : Nat → Bool) : State × Except UErr (List Int) :=
  let nb := (x.ext[0] + 31) / 32
  let sz := (3 * nb + 1) / 2
  match s.unitRead tile (x.sbase + BitVec.ofNat 64 (j * sz)) sz kinds with
  | (s, .ok v) => (s, .ok (scales nb 0 (nibblesOf (natToBytes sz v))))
  | (s, .error e) => (s, .error e)

/-- The scale of a block and whether it is in range (R51). -/
def scaleOk (e : Int) : Bool := -128 ≤ e && e ≤ 120

/-- The value of a scaled element (R49). -/
def scaledVal (fmt code : Nat) (e : Int) : FVal :=
  let q : Int := if fmt = 5 then (BitVec.ofNat 8 code).toInt else (BitVec.ofNat 4 code).toInt
  .fin (q < 0) q.natAbs e

/-! ## The record cache (R175, R212) -/

/-- A tensor shape record as a command reads it (R212). -/
def State.readShape (s : State) (tile : Nat) (a : Word) : State × Except UErr (BitVec 512) :=
  let ctx := (s.launch tile).ctx
  let c := s.copyUnit tile
  match c.recs.find? fun e => e.1 == ctx && e.2.1 == a with
  | some e => (s.modCopy tile fun c => { c with recs := e :: c.recs.filter (· != e) }, .ok e.2.2)
  | none =>
    match s.unitRead tile a 64 kind0or14 with
    | (s, .error e) => (s, .error e)
    | (s, .ok v) =>
      let x : BitVec 512 := BitVec.ofNat 512 v
      let s := if x.getLsbD 80 then s
        else s.modCopy tile fun c => { c with recs := ((ctx, a, x) :: c.recs).take 16 }
      (s, .ok x)

/-! ## Failure records (R206, R228) -/

/-- A failure enters a record: the oldest is kept, later ones are counted up to 255. -/
def FailRec.note (f : FailRec) (st : Byte) (id : Nat) : FailRec :=
  if st = 0 ∨ st = 0x0D then f
  else if f.valid then { f with more := min 255 (f.more + 1) }
  else { valid := true, status := st, id := id, more := 0 }

end Sys2Proof.Machine
end

