-- ==== Sys2Proof/Machine/Strm.lean ====
section
/-!
DEFINITION. The strm major (spec/06 R193 to R195, spec/07 R222) and table loads (spec/05 R152).
-/
namespace Sys2Proof.Machine

/-! ## Stream bindings -/

/-- v0 to v7 are never bound (R193). -/
def streamReg (d : VReg) : Bool := 8 ≤ d.toNat

/-- strm.bind: the fence, then the records and the checks (R194). ALIGN and a register already bound are found at issue. -/
def execStrmBind (d : VReg) (a : SReg) (s : State) : Out :=
  let i : Instr := .strmBind d a
  .next (s.issue i false fun s =>
    let x := s.th.getS a
    if s.th.pending.contains (.v d) then .trap .illegal (wordOf i)
    else if !streamReg d then .trap .stream (wordOf i)
    else if x &&& 31 != 0 then .trap .align x
    else if s.th.binds.has d.toNat then .trap .stream x
    else
      let banks := s.th.touched fun _ => true
      .stay ((s.probe banks).waitFor none [] (.bind banks d x) 0 0 none))

/-- The fields of a binding record (R222). -/
structure BindRec where
  shape : Word
  vreg : Nat
  dir : Nat
  chan : Nat
  starve : PReg
  wait : Nat
  deriving DecidableEq, Repr

def BindRec.ofNat (x : Nat) : BindRec :=
  let b : BitVec 256 := BitVec.ofNat 256 x
  ⟨b.extractLsb' 0 64, (b.extractLsb' 64 8).toNat, (b.extractLsb' 72 8).toNat, (b.extractLsb' 80 6).toNat,
    b.extractLsb' 88 3, (b.extractLsb' 96 16).toNat⟩

/-- A failed read of a record, as the cause that strm.bind raises (R194). -/
def RecRead.cause : RecRead → Cause
  | .precise c => c
  | .deferred c => c
  | .ok _ => .stream

/-- A format suits a direction (R222). -/
def fmtSuits (x : Shape) (out : Bool) : Bool := !(out && scaledFmt x.fmt)

/-- Elements in one datum (R222). -/
def datumElems (fmt : Nat) : Nat := if fmt = 0 then 32 else if fmt = 8 then 2 else 8

/-- The checks of a binding after its fence, in order, and the binding they give (R194). -/
def State.bindCheck (s : State) (r : ThreadRef) (d : VReg) (a : Word) : Except (Cause × Word) StrmBind :=
  let recKind (k : Nat) : Bool := k == 0 || k == 7 || k == 14
  match s.readRecord r.tile a 32 recKind with
  | .ok bs =>
    let b := BindRec.ofNat (bytesToNat bs)
    let ch := (s.copyUnit r.tile).chan b.chan
    if b.vreg ≠ d.toNat ∨ 1 < b.dir ∨ ch.bound then .error (.stream, a)
    else if b.shape &&& 63 != 0 then .error (.stream, a)
    else match s.readRecord r.tile b.shape 64 recKind with
    | .ok sb =>
      let bits : BitVec 512 := lineOfBytes sb
      let x := Shape.ofBits bits
      if !x.ok || !fmtSuits x (b.dir == 1) then .error (.stream, a)
      else .ok { chan := ⟨b.chan % 64, Nat.mod_lt _ (by decide)⟩, out := b.dir == 1, xid := ch.last + 1, shape := bits, record := BitVec.ofNat 256 (bytesToNat bs),
                 starve := b.starve, limit := b.wait, next := 0, total := x.total, frm := (s.thread r).frm, core := r.core }
    | e => .error (e.cause, b.shape)
  | e => .error (e.cause, a)

/-- A precise trap of a waiting form that has no effect: the instruction is no longer outstanding. -/
def State.trapWaiting (s : State) (r : ThreadRef) (o : Outst) (c : Cause) (v : Word) : State :=
  (s.modThread r fun t => { t with outst := t.outst.filter fun x => x.id != o.id, st := .running }).raise r
    ⟨c, v, o.addr, o.addr, false⟩

/-- The bind whose fence is complete makes its checks and the binding; the copy unit begins to fill an input (R194). -/
def State.tryBind (s : State) (r : ThreadRef) (o : Outst) (d : VReg) (a : Word) : State :=
  match s.bindCheck r d a with
  | .error (c, v) => s.trapWaiting r o c v
  | .ok b =>
    let s := s.modChan r.tile b.chan.val fun c => { c with last := c.last + 1, bound := true }
    let s := s.modThread r fun t => { (t.setP b.starve false) with binds := t.binds.set d.toNat b }
    let (k, s) := s.takeFresh
    let s := s.atTile r.tile (1 + Config.freeLatency k) .streamFill r { n := d.toNat, w := zx b.xid }
    s.resolve r o {}

/-- strm.unbind: an output's data go to the copy unit, an input's are discarded; the register reads zero (R194). -/
def execStrmUnbind (d : VReg) (s : State) : Out :=
  let i : Instr := .strmUnbind d
  .next (s.issue i false fun s =>
    if s.th.pending.contains (.v d) then .trap .illegal (wordOf i)
    else match s.th.binds.get? d.toNat with
    | none => .trap .stream (wordOf i)
    | some b => .next ((s.dropBind s.cur b).modTh fun t => { (t.setV d 0) with binds := t.binds.erase d.toNat }))

/-- strm.xid (R194). -/
def execStrmXid (d : SReg) (b : VReg) (s : State) : Out :=
  let i : Instr := .strmXid d b
  .next (s.issue i false fun s =>
    if s.th.pending.contains (.v b) then .trap .illegal (wordOf i)
    else match s.th.binds.get? b.toNat with
    | none => .trap .stream (wordOf i)
    | some x => .next (s.modTh fun t => t.setS d (zx x.xid)))

/-! ## vcvt.tload (R152) -/

/-- Whether the tile's own slice is the home of a line and holds it for the tile's context (R272). -/
def State.ownSliceHas (s : State) (tile : Nat) (a : Word) : Bool :=
  let l := s.launch tile
  (s.part l.part).homeTile (lineIx a) == tile && match s.xlat tile a true false with
    | .ok pa => ((s.tile tile).sliceGet? (pa / 64)).any fun x => x.ctx == l.ctx
    | _ => false

/-- When a load of global memory brings its data, from its issue (R272): from a line that the home core holds, from the own
slice 48 cycles later, from elsewhere after a time the spec does not fix (log 10). -/
def State.lineArrives (s : State) (r : ThreadRef) (a : Word) : Nat × State :=
  let home := homeCore (lineIx a)
  let base := s.portTime r home lineMore
  if ((s.core r.tile home).lineGet? (lineIx a)).isSome then (base, s)
  else if s.ownSliceHas r.tile a then (base + 48, s)
  else
    let (k, s) := s.takeFresh
    (base + 48 + Config.freeLatency k, s)

/-- The X19 entries of a table image (R43, R91): bits [12:0] of each word are ignored. -/
def imageOf (bs : List Byte) (n : Nat) : List (BitVec 19) :=
  (List.range n).map fun i => ofContainer (recWord bs i)

/-- The image becomes the core's table (R46, R152). -/
def Core.install (c : Core) (t4 : Bool) (es : List (BitVec 19)) : Core :=
  let m : KMap (BitVec 19) := (es.zipIdx.filter fun e => e.1 != 0).map fun e => (e.2, e.1)
  if t4 then { c with t4 := m } else { c with t8 := m }

/-- vcvt.tload: the image is read, queues at the core's tload unit, and installs 160 or 24 cycles after its last byte or
after the previous tload (R152). -/
def execVcvtTload (a : SReg) (tb : TblSel) (la : BitVec 4) (s : State) : Out :=
  .next (s.issue (.vcvtTload a tb la) true fun s =>
    let r := s.cur
    let x := s.th.getS a
    let isT4 := tb == .t4
    let n := if isT4 then 16 else 256
    if x &&& 31 != 0 then .trap .align x
    else match s.readRecord r.tile x (4 * n) (· == 0) with
    | .precise c => .trap c x
    | .deferred c =>
      let (lat, s) := s.within 48
      .next (s.deferFault la [.s 0] lat c x)
    | .ok bs =>
      let (arr, s) := if isGlobal x then
          (List.range ((4 * n + 63) / 64)).foldl (fun (m, s) i =>
            let (l, s) := s.lineArrives r (x + BitVec.ofNat 64 (64 * i))
            (max m l, s)) (0, s)
        else (s.portTime r (amCore x) 2, s)
      let op := s.th.nextOp
      let now := s.now r.tile
      let last := (s.core r.tile r.core).tlast
      let done := max (now + arr) last + if isT4 then 24 else 160
      let s := s.modTh fun t => t.addOutst [.s 0] (some la) .tload
      let s := s.modCore r.tile r.core fun c =>
        { c with tlast := done, tloads := c.tloads ++ [⟨r.thr, op, isT4, imageOf bs n, now + arr⟩] }
      .next (s.atTile r.tile (done - now) .tloadComplete r))

/-- TLOAD_COMPLETE: the core cuts over to the oldest queued image (R46, R152). -/
def execTloadComplete (s : State) : Out :=
  let r := s.cur
  .next (match (s.core r.tile r.core).tloads with
    | [] => s
    | t :: rest =>
      let s := s.modCore r.tile r.core fun c => { (c.install t.t4 t.image) with tloads := rest }
      let me : ThreadRef := ⟨r.tile, r.core, t.thr⟩
      ((s.modThread me fun th => th.setCond t.op (.ready {})).arrive me t.op).settleThread me)

end Sys2Proof.Machine
end

