-- ==== Sys2Proof/Machine/Eng.lean ====
section
/-!
DEFINITION. The eng major (spec/07 R201 to R204, spec/03 R81, spec/08 R228).
-/
namespace Sys2Proof.Machine

/-- The engine a T-word names (R79). -/
def wordEngine (w : V256) : Nat := (w.extractLsb' 248 8).toNat
/-- Its channel (R78). -/
def wordChan (w : V256) : Nat := (w.extractLsb' 216 6).toNat

/-- eng.push: the header checks, the fence, then the queue (R81, R202). -/
def execEngPush (d : SReg) (a : VReg) (b : SReg) (tp : PReg) (s : State) : Out :=
  .next (s.issue (.engPush d a b tp) false fun s =>
    let w := s.th.getV a
    match decodeTWord w with
    | .error _ => .trap .illegal (w.extractLsb' 192 64)
    | .ok _ =>
      let banks := s.th.touched fun _ => true
      .stay ((s.probe banks).waitFor none [.s d, .p tp] (.push banks w d tp) 0 0 (some (timeoutOf (s.th.getS b)))))

/-- Room in the queue of a core for an engine (R198, R202, R226). -/
def State.queueRoom (s : State) (tile : Nat) (c : Fin 8) (eng : Nat) : Bool :=
  match eng with
  | 1 => (s.core tile c).copyq.length < 16
  | 2 => (s.core tile c).mxq.length < 8
  | _ => (s.tile tile).ev.cmds.length < 16

/-- A T-word enters its queue and takes its identifier (R196, R202). Answers the value of s[d]. -/
def State.enqueue (s : State) (r : ThreadRef) (addr : Word) (w : V256) : State × Word :=
  let q (id : Nat) : QCmd := ⟨w, r.core, id, r.thr, addr, (s.thread r).picked⟩
  match wordEngine w with
  | 1 =>
    let k := wordChan w
    let x := ((s.copyUnit r.tile).chan k).last + 1
    let s := s.modChan r.tile k fun c => { c with last := x }
    (s.modCore r.tile r.core fun c => { c with copyq := c.copyq ++ [q x.toNat] },
      (BitVec.ofNat 32 k ++ x : BitVec 64))
  | 2 =>
    let j := (s.core r.tile r.core).mxIssued + 1
    (s.modCore r.tile r.core fun c => { c with mxIssued := j, mxq := c.mxq ++ [q j.toNat] },
      zx ((2 : BitVec 2) ++ j))
  | _ =>
    let j := (s.core r.tile r.core).evIssued + 1
    let s := s.modCore r.tile r.core fun c => { c with evIssued := j }
    (s.modTile r.tile fun t => { t with ev := { t.ev with cmds := t.ev.cmds ++ [q j.toNat] } },
      zx ((3 : BitVec 2) ++ j))

/-- A push whose fence is complete finds room (R202). -/
def State.tryPush (s : State) (r : ThreadRef) (o : Outst) (w : V256) (d : SReg) (tp : PReg) : Option State :=
  if !s.queueRoom r.tile r.core (wordEngine w) then none
  else
    let (s, x) := s.enqueue r o.addr w
    some (s.resolve r o { s := [(d, x)], p := [(tp, false)] })

/-- eng.xidwait: tested at the channel from 2 cycles after issue on (R203, R436). -/
def execEngXidwait (d a b : SReg) (tp : PReg) (la : BitVec 4) (s : State) : Out :=
  .next (s.issue (.engXidwait d a b tp la) true fun s =>
    let x := s.th.getS a
    if x.extractLsb' 38 26 != 0 then .trap .illegal x
    else .next (s.waitFor (some la) [.s d, .p tp] (.xid (x.extractLsb' 32 6).toFin (x.extractLsb' 0 32) d tp) 2 4
      (some (timeoutOf (s.th.getS b)))))

/-- A 32-bit identifier has been reached (R197). -/
def reached32 (ct x : W32) : Bool := (ct - x).toNat < 2 ^ 31
/-- A 16-bit job identifier has been reached (R204). -/
def reached16 (c j : BitVec 16) : Bool := (c - j).toNat < 2 ^ 15

/-- The status word of R203 and R228: identifier, further failures, status. -/
def statusWord (f : FailRec) : Word := BitVec.ofNat 64 (f.id % 2 ^ 32 * 2 ^ 32 + f.more % 256 * 256 + f.status.toNat)

/-- An xidwait whose identifier is reached collects the channel's failure record; ATYPE traps (R203). -/
def State.tryXid (s : State) (r : ThreadRef) (o : Outst) (k : Fin 64) (x : W32) (d : SReg) (tp : PReg) : Option State :=
  let c := (s.copyUnit r.tile).chan k.val
  if !reached32 c.ct x then none
  else if c.fail.valid && reached32 x (BitVec.ofNat 32 c.fail.id) then
    let s := s.modChan r.tile k.val fun c => { c with fail := {} }
    if c.fail.status = 0x0A then
      some (s.failOp r o.id o.lag .atype (BitVec.ofNat 64 (k.val * 2 ^ 32 + c.fail.id % 2 ^ 32)))
    else some (s.resolve r o { s := [(d, statusWord c.fail)], p := [(tp, false)] })
  else some (s.resolve r o { s := [(d, 0)], p := [(tp, false)] })

/-- eng.jidwait (R204). -/
def execEngJidwait (d a b : SReg) (tp : PReg) (la : BitVec 4) (s : State) : Out :=
  .next (s.issue (.engJidwait d a b tp la) true fun s =>
    let x := s.th.getS a
    let eng := (x.extractLsb' 16 2).toNat
    if x.extractLsb' 18 46 != 0 || eng < 2 then .trap .illegal x
    else .next (s.waitFor (some la) [.s d, .p tp] (.jid eng (x.extractLsb' 0 16) d tp) 2 4
      (some (timeoutOf (s.th.getS b)))))

/-- A jidwait whose job is reached collects the core's failure record of the engine (R228). -/
def State.tryJid (s : State) (r : ThreadRef) (o : Outst) (eng : Nat) (j : BitVec 16) (d : SReg) (tp : PReg) :
    Option State :=
  let c := s.core r.tile r.core
  let done := if eng = 2 then c.mxDone else c.evDone
  let f := if eng = 2 then c.mxFail else c.evFail
  if !reached16 done j then none
  else if f.valid && reached16 j (BitVec.ofNat 16 f.id) then
    let s := s.modCore r.tile r.core fun c => if eng = 2 then { c with mxFail := {} } else { c with evFail := {} }
    some (s.resolve r o { s := [(d, statusWord f)], p := [(tp, false)] })
  else some (s.resolve r o { s := [(d, 0)], p := [(tp, false)] })

/-- eng.jidrd (R204). -/
def execEngJidrd (d a : SReg) (s : State) : Out :=
  .next (s.issue (.engJidrd d a) false fun s =>
    let x := s.th.getS a
    match (x.extractLsb' 0 2).toNat with
    | 2 => .next (s.modTh fun t => t.setS d (zx (s.core s.cur.tile s.cur.core).mxDone))
    | 3 => .next (s.modTh fun t => t.setS d (zx (s.core s.cur.tile s.cur.core).evDone))
    | _ => .trap .illegal x)

end Sys2Proof.Machine
end

