-- ==== Sys2Proof/Machine/Faults.lean ====
section
/-!
DEFINITION. Translation faults that commands hold, their records and their settling (spec/19 R390 to R392, spec/07 R225, spec/08
R241), and the completion of copy commands (spec/07 R197, R206).
-/
namespace Sys2Proof.Machine

/-! ## Partition physical memory (R385, R391) -/

/-- Writes bytes of partition physical memory through the home slice of each line's physical index (R391). -/
def State.physWrite (s : State) (p c pa : Nat) (bs : List Byte) : State :=
  (bs.zipIdx).foldl (fun s (b, i) =>
    let a := pa + i
    s.sliceWrite ((s.part p).homeTile (a / 64)) p c (a / 64) (a % 64) 1 b.toNat true) s

/-- n bytes of partition physical memory, as the home slices give them. -/
def State.physRead (s : State) (p c pa n : Nat) : List Byte :=
  (List.range n).map fun i =>
    let a := pa + i
    BitVec.ofNat 8 (lineGet (s.sliceView ((s.part p).homeTile (a / 64)) p c (a / 64)) (a % 64) 1)

/-- A number read from partition physical memory. -/
def State.physNat (s : State) (p c pa n : Nat) : Nat := bytesToNat (s.physRead p c pa n)

/-! ## Pending faults (R392) -/

/-- The 32 bytes of a fault record (R392). -/
def PFault.bytes (f : PFault) : List Byte :=
  natToBytes 8 f.va.toNat ++ natToBytes 2 f.tile ++ natToBytes 1 f.who ++ natToBytes 1 f.acc ++ natToBytes 1 f.cause
    ++ natToBytes 1 f.lvl ++ natToBytes 2 0 ++ natToBytes 4 f.id ++ natToBytes 4 f.roff ++ natToBytes 8 (f.seq % 2 ^ 56)

/-- Cause and level of a walk that stopped (R392). -/
def WalkFault.code : WalkFault → Nat × Nat
  | .notPresent l => (1, l)
  | .badEntry l => (2, l)

/-- A command of a tile meets a translation fault: the context gets its record, in the order of the faults (R225, R241,
R392). Answers the pending fault that the command holds. -/
def State.pendFault (s : State) (tile who acc : Nat) (va : Word) (id roff : Nat) : State × FPend :=
  let l := s.launch tile
  let x := s.ctx l.part l.ctx
  let (cause, lvl) := match s.walkAt tile va with
    | .error f => f.code
    | .ok _ => (1, 4)
  let f : PFault := ⟨x.lastFault + 1, va, tile, who, acc, cause, lvl, id, roff⟩
  let s := s.modCtx l.part l.ctx fun c => { c with faults := c.faults ++ [f], records := c.records ++ [f], lastFault := f.seq }
  (s.atRef 0 .faultRecordWrite ⟨tile, 0, 0⟩ { n := l.part, m := l.ctx }, ⟨BitVec.ofNat 56 f.seq, va, none⟩)

/-- FAULT_RECORD_WRITE: the oldest record that waits is written while the queue has room, and vector 0 is signalled; one that finds no
room goes on waiting, whatever becomes of its fault (R392). Operands: partition, context. -/
def execFaultRecordWrite (s : State) : Out :=
  let p := s.arg.n
  let c := s.arg.m
  let x := s.ctx p c
  .next (match x.records with
    | [] => s
    | f :: rest =>
      if x.fqn ≤ (x.fqprod - x.fqcons).toNat then s
      else
        let s := s.physWrite p c (x.fq + 32 * (x.fqprod.toNat % x.fqn)) f.bytes
        let s := s.modCtx p c fun y => { y with fqprod := y.fqprod + 1, records := rest }
        let s := { s with irqs := s.irqs ++ [(x.vf, 0)] }
        if rest.isEmpty then s else s.atRef 0 .faultRecordWrite s.cur s.arg)

/-- The partition and the context slot of a virtual function (R386, R387). -/
def State.ofVf (s : State) (vf : Nat) : Option (Nat × Nat) :=
  (s.parts.flatMap fun p => (p.2.ctxs.filter fun c => c.2.vf == vf && c.2.state != 0x00).map fun c => (p.1, c.1)).head?

/-- A write of a register of a function's control page acts on the function's own context, if it has one (R386, R388). -/
def State.forVf (s : State) (vf : Nat) (f : Nat → Nat → State) : State :=
  match s.ofVf vf with
  | some (p, c) => f p c
  | none => s

/-- A write of fqcons: consumed records make room for a waiting one (R388, R392). -/
def State.putFqcons (s : State) (vf : Nat) (w : Word) : State :=
  s.forVf vf fun p c =>
    (s.modCtx p c fun y => { y with fqcons := w }).atRef 0 .faultRecordWrite default { n := p, m := c }

/-- FQCONS_WRITE (R388, R392). Operands: function, value. -/
def execFqconsWrite (s : State) : Out := .next (s.putFqcons s.arg.n s.arg.w)

/-! ## Fences (R419) -/

/-- A fence of a context is called for: cause and who of R420, the failing address and identifier (R418, R419). -/
def State.fence (s : State) (p c cause who tile : Nat) (addr : Word) (xid : Nat) : State :=
  s.atRef 0 .contextFence ⟨tile, 0, 0⟩ { n := p, m := c, w := addr, d := BitVec.ofNat 512 (cause + 2 ^ 8 * who + 2 ^ 16 * xid) }

/-! ## Completion of a copy command (R197, R206) -/

/-- A command of a channel has ended with a status; its completion follows (R197). -/
def State.finishCopy (s : State) (tile k : Nat) (st : Byte) : State :=
  s.atTile tile 0 .copyCompletion ⟨tile, 0, 0⟩ { n := k, m := st.toNat }

/-- The running command of a channel goes on from where it stands, unless it holds a pending fault or the tile's save has begun
(R225, R394 step 4). -/
def State.rerun (s : State) (tile k : Nat) : State :=
  if ((s.copyUnit tile).chan k).fpend.isSome || (s.tile tile).frozen then s else
  match ((s.copyUnit tile).chan k).run with
  | none => s
  | some r =>
    match decodeTWord r.q.word with
    | .ok i => s.atTile tile 0 i ⟨tile, r.q.core, r.q.thr⟩ { n := k }
    | .error _ => s

/-- A command stops at a refused access: a translation fault is held pending, anything else ends it (R225, R390). -/
def State.copyErr (s : State) (tile k : Nat) (e : UErr) (acc : Nat) (roff : Nat) : State :=
  match e with
  | .page va =>
    let id := match ((s.copyUnit tile).chan k).run with
      | some r => r.q.id
      | none => 0
    let (s, f) := s.pendFault tile k acc va id roff
    s.modChan tile k fun c => { c with fpend := some f }
  | e => s.finishCopy tile k e.status

/-- What runs again, or ends with PAGE, when a fault of a tile is settled (R225, R241). -/
def State.settleFault (s : State) (f : PFault) (abort : Bool) : State :=
  let k := f.who % 64
  match f.who / 64 with
  | 0 =>
    let s := s.modChan f.tile k fun c => { c with fpend := none }
    if abort then s.finishCopy f.tile k 0x0B else s.rerun f.tile k
  | 1 =>
    let c : Fin 8 := ⟨k % 8, Nat.mod_lt _ (by decide)⟩
    let s := s.modTile f.tile fun t => { t with mx := { t.mx with fpend := t.mx.fpend.set c none } }
    if abort then s.atTile f.tile 0 .matrixJobCompletion ⟨f.tile, c, 0⟩ { n := f.id, m := 0x0B, ok := false } else s
  | _ =>
    let s := s.modTile f.tile fun t => { t with ev := { t.ev with fpend := none } }
    if abort then s.atTile f.tile 0 .eventJobCompletion ⟨f.tile, 0, 0⟩ { n := f.id, m := 0x0B } else s

/-- Takes a pending fault of a context away, if its number is pending. -/
def State.takeFault (s : State) (p c seq : Nat) : Option (PFault × State) :=
  match (s.ctx p c).faults.find? fun f => f.seq == seq with
  | none => none
  | some f => some (f, s.modCtx p c fun y => { y with faults := y.faults.filter fun g => g.seq != seq })

/-- The place of the settle mark of a pending fault in its tile's block of the save area (R392, R395; the place within the region that
the spec gives is a DESIGN CHOICE, log 108). -/
def PFault.markOff (f : PFault) : Nat :=
  match f.who / 64 with
  | 0 => 0x2C_0000 + 128 * (f.who % 64) + 71
  | 1 => 0x2B_B87F + 16 * (f.who % 64)
  | _ => 0x2B_B8FF

/-- A pending fault is marked. -/
def FPend.settle (abort : Bool) (f : FPend) : FPend := { f with mark := some abort }

/-- A fault that a channel or an engine of a tile holds is marked as to be resumed or aborted (R392). -/
def Tile.markFault (t : Tile) (f : PFault) (abort : Bool) : Tile :=
  let k := f.who % 64
  match f.who / 64 with
  | 0 =>
    let x := t.copy.chan k
    { t with copy := { t.copy with chans := t.copy.chans.set k { x with fpend := x.fpend.map (FPend.settle abort) } } }
  | 1 =>
    let c : Fin 8 := ⟨k % 8, Nat.mod_lt _ (by decide)⟩
    { t with mx := { t.mx with fpend := t.mx.fpend.set c (t.mx.fpend[c].map (FPend.settle abort)) } }
  | _ => { t with ev := { t.ev with fpend := t.ev.fpend.map (FPend.settle abort) } }

/-- The mark of a fault that a tile holds: ABORT. -/
def Tile.faultAborts (t : Tile) (f : PFault) : Bool :=
  let k := f.who % 64
  let x := match f.who / 64 with
    | 0 => (t.copy.chan k).fpend
    | 1 => t.mx.fpend[(⟨k % 8, Nat.mod_lt _ (by decide)⟩ : Fin 8)]
    | _ => t.ev.fpend
  x.any fun y => y.mark == some true

/-- Offset of block i of a save area (R395). -/
def blockOff (i : Nat) : Nat := 0x1000 + 0x30_0000 * i

/-- A settle for a SAVED context marks the fault where the save area holds it; the header counts the settles and lists the first 256
(R392, R395). -/
def State.listSettle (s : State) (p c : Nat) (f : PFault) (abort : Bool) : State :=
  let x := s.ctx p c
  let n := x.settles.length
  let seq := f.seq
  let s := match (x.saved.zipIdx).find? fun t => t.1.1 == f.tile with
    | some (_, i) => s.physWrite p c (x.save + blockOff i + f.markOff) [if abort then 2 else 1]
    | none => s
  let s := s.physWrite p c (x.save + 24) (natToBytes 8 (n + 1))
  let s := if n < 256 then s.physWrite p c (x.save + 0x800 + 8 * n) (natToBytes 8 (seq * 256 + if abort then 2 else 1)) else s
  s.modCtx p c fun y => { y with
    settles := y.settles ++ [(seq, abort)]
    saved := y.saved.map fun t => (t.1, if t.1 == f.tile then t.2.1.markFault f abort else t.2.1, t.2.2) }

/-- A settle of a pending fault (R392): acted on at once, or at restore when the context is SAVED; one that names no pending fault
is ignored. -/
def State.settle (s : State) (p c seq : Nat) (abort : Bool) : State :=
  match s.takeFault p c seq with
  | some (f, s') => if (s.ctx p c).state = 0x03 then s.listSettle p c f abort else s'.settleFault f abort
  | none => s

/-- A write of the settle register of a function (R388): act 1 resumes and 2 aborts the fault that seq names, 0 and 3 are ignored. -/
def State.putSettle (s : State) (vf : Nat) (w : Word) : State :=
  s.forVf vf fun p c =>
    match w.toNat % 4 with
    | 1 => s.settle p c (w.toNat / 256) false
    | 2 => s.settle p c (w.toNat / 256) true
    | _ => s

/-- FAULT_RESUME and FAULT_ABORT: the settle register is written with act 1 or 2 (R388, R392). Operands: function, the word's seq (w). -/
def execFaultResume (s : State) : Out := .next (s.putSettle s.arg.n ((s.arg.w &&& ~~~3) ||| 1))
def execFaultAbort (s : State) : Out := .next (s.putSettle s.arg.n ((s.arg.w &&& ~~~3) ||| 2))

/-! ## Invalidation of translations (R391) -/

/-- A translation entry matches an invalidation: size 0 to 2 a page, 3 every entry of the ASID. -/
def TLBEnt.inval (e : TLBEnt) (asid size : Nat) (va : Word) : Bool :=
  e.asid == asid && (size == 3 || (e.lvl == 4 - size && va.toNat % 2 ^ 56 / 2 ^ lvlShift e.lvl == e.vpn))

/-- The accesses under way in a partition whose translation is known: misses of its tiles, as 2·(8192·tag + tile), and reads of host
memory, as 2·(8192·(128·number + 16·core + thread) + tile) + 1. -/
def State.underWay (s : State) (p : Nat) : List Nat :=
  ((s.tiles.filter fun t => (s.part p).hasTile t.1).flatMap fun (t : Nat × Tile) =>
    ((t.2.misses.filter fun m => !m.walking).map fun m => 2 * (8192 * m.tag + t.1)) ++
    (List.finRange 8).flatMap fun (c : Fin 8) => (List.finRange 16).flatMap fun (h : Fin 16) =>
      t.2.cores[c].threads[h].outst.filterMap fun o => match o.cond with
        | .host _ _ _ => some (2 * (8192 * (128 * o.id + 16 * c.val + h.val) + t.1) + 1)
        | _ => none)

/-- A kept non-leaf entry matches an invalidation: it lies on the way to the page. -/
def NonLeaf.inval (e : NonLeaf) (p asid size : Nat) (va : Word) : Bool :=
  e.part == p && e.asid == asid && (size == 3 || va.toNat % 2 ^ 56 / 2 ^ lvlShift e.lvl == e.vpn)

/-- A write of tbinv by a function: every matching entry of the partition's translation buffers and of the walkers' caches is dropped
(R388, R391). -/
def State.putTbinv (s : State) (vf : Nat) (w : Word) : State :=
  s.forVf vf fun p c =>
    let x := s.part p
    if !w.getLsbD 0 then s
    else
      let size := (w.extractLsb' 1 2).toNat
      let va : Word := w &&& 0x00FF_FFFF_FFFF_0000
      let before := s.underWay p
      let drop (t : Tile) : Tile := { t with tlb := t.tlb.filter fun e => !e.inval (x.ctx c).asid size va }
      let s : State := { s with
        tiles := s.tiles.map fun t => (t.1, if x.hasTile t.1 then drop t.2 else t.2)
        decks := s.decks.map fun d => { d with nonleaf := d.nonleaf.filter fun e => !e.inval p (x.ctx c).asid size va } }
      let (k, s) := s.takeFresh
      s.atRef (1 + Config.freeLatency k) .tbinvDone default { n := p, m := c, l := before }

/-- TBINV (R388, R391). Operands: function, the value written. -/
def execTbinv (s : State) : Out := .next (s.putTbinv s.arg.n s.arg.w)

/-- TBINV_DONE: the invalidation is complete once the accesses that were under way have performed (R391). Operands: partition,
context, those accesses. -/
def execTbinvDone (s : State) : Out :=
  let a := s.arg
  .next (if (s.underWay a.n).any a.l.contains then s.atRef 1 .tbinvDone s.cur a
    else s.modCtx a.n a.m fun y => { y with tbdone := y.tbdone + 1 })

/-- A way mask written in a reference tick keeps what fills of that tick follow: the mask before it (R399). -/
def Ctx.maskFrom (y x : Ctx) (now : Nat) : Ctx :=
  { y with wmaskWas := if x.wmaskAt = now + 1 then x.wmaskWas else x.wmask, wmaskAt := now + 1 }

/-- A write of a way mask (R388, R399). -/
def State.putMask (s : State) (p c : Nat) (m : BitVec 16) : State :=
  s.modCtx p c fun x => { x with wmask := m }.maskFrom x s.clock

/-- WMASK_WRITE (R388, R399). Operands: function, value. -/
def execWmaskWrite (s : State) : Out := .next (s.forVf s.arg.n fun p c => s.putMask p c (s.arg.w.setWidth 16))

end Sys2Proof.Machine
end

