-- ==== Sys2Proof/Machine/Pull.lean ====
section
/-!
DEFINITION. The pull protocol: the sender's side, the request table, grants and their expiry (spec/17 R359 to R366, R437, spec/07
R215, R216), and additions to W128 regions (spec/02 R52 to R54, spec/07 R214).
-/
namespace Sys2Proof.Machine

/-! ## W128 regions (R52, R53, R214) -/

/-- Bytes of an addend type (R214). -/
def addendSize (ty : Nat) : Nat := if ty = 3 then 8 else 4

/-- The value of an addend (R53, R214): f32, x19 in its container, i32, i64. -/
def addendVal (ty x : Nat) : FVal :=
  match ty with
  | 0 => unpackF f32F x
  | 1 => entryVal (ofContainer (BitVec.ofNat 32 x))
  | 2 => intVal (BitVec.ofNat 32 x).toInt
  | _ => intVal (BitVec.ofNat 64 x).toInt

/-- A region exponent and whether it is valid (R52). -/
def regionExp (h : Nat) : Int := (BitVec.ofNat 16 h).toInt
def regionOk (h : Nat) : Bool := -256 ≤ regionExp h && regionExp h ≤ 255

/-- The sticky bits of a region header's byte 2 (R52). -/
def WFlags.bits (f : WFlags) : Nat := (if f.ov then 1 else 0) + (if f.nv then 2 else 0) + (if f.nx then 4 else 0)

/-- One addition at the port that holds the region (R53, R214). Answers whether the exponent was valid, or the error. -/
def State.addendAt (s : State) (tile : Nat) (region : Word) (ix ty x : Nat) (by_ : Option StoreSrc := none) :
    State × Except UErr Bool :=
  let acc := region + BitVec.ofNat 64 (16 + 16 * ix)
  match s.homeRead tile region 4 rawKind with
  | (s, .error e) => (s, .error e)
  | (s, .ok h) =>
    if !regionOk (h % 2 ^ 16) then (s, .ok false)
    else match s.homeRead tile acc 16 rawKind with
    | (s, .error e) => (s, .error e)
    | (s, .ok i) =>
      let (v, f) := w128Add (BitVec.ofNat 128 i).toInt (addendVal ty x) (regionExp (h % 2 ^ 16))
      match s.unitWrite tile acc (natToBytes 16 (BitVec.ofInt 128 v).toNat) rawKind by_ with
      | (s, some e) => (s, .error e)
      | (s, none) =>
        if f.bits = 0 then (s, .ok true)
        else
          let b : Byte := BitVec.ofNat 8 (h / 2 ^ 16) ||| BitVec.ofNat 8 f.bits
          match s.unitWrite tile (region + 2) [b] rawKind by_ with
          | (s, some e) => (s, .error e)
          | (s, none) => (s, .ok true)

/-- The contribution is counted (R54). -/
def State.countContribution (s : State) (tile : Nat) (region : Word) (by_ : Option StoreSrc := none) : State × Option UErr :=
  match s.homeRead tile (region + 8) 8 rawKind with
  | (s, .error e) => (s, some e)
  | (s, .ok n) => s.unitWrite tile (region + 8) (natToBytes 8 (n + 1)) rawKind by_

/-- The addends of a contribution are added in order and the contribution is counted, all at once, so that a region holds nothing of
one that is not counted (R54, R214, R374). Answers whether every addend met a valid exponent. -/
def State.addAll (s : State) (tile : Nat) (region : Word) (ty first : Nat) (xs : List Nat) (by_ : Option StoreSrc) :
    State × Except UErr Bool :=
  let (s, res) := (xs.zipIdx).foldl (fun (s, (res : Except UErr Bool)) (x, i) =>
    match res with
    | .error _ => (s, res)
    | .ok good =>
      match s.addendAt tile region (first + i) ty x by_ with
      | (s, .ok b) => (s, .ok (good && b))
      | (s, .error e) => (s, .error e)) (s, .ok true)
  match res with
  | .ok true =>
    match s.countContribution tile region by_ with
    | (s, none) => (s, .ok true)
    | (s, some e) => (s, .error e)
  | res => (s, res)

/-- The pages of n bytes of global memory that a unit will read and write are there; what refuses them otherwise (R225, R389). -/
def State.reachAll (s : State) (tile : Nat) (a : Word) (n : Nat) : State × Option UErr :=
  if !isGlobal a then (s, none)
  else (List.range (n / 65536 + 2)).foldl (fun (s, e) i =>
    -- the first byte, then the beginning of each later page
    let va := if i = 0 then a else (a &&& ~~~(65535 : Word)) + BitVec.ofNat 64 (65536 * i)
    if e.isSome || a.toNat + n ≤ va.toNat then (s, e)
    else match s.translate tile va true true with
    | (s, .ok _) => (s, none)
    | (s, .host _) => (s, none)
    | (s, .refused) => (s, some .prot)
    | (s, .fault _) => (s, some (.page va))) (s, none)

/-! ## The flit buffers of the channels (R199) -/

/-- Shared buffers that flits hold, of all channels or of one. -/
def CopyUnit.sharedUsed (c : CopyUnit) : Nat := (c.inj.filter fun x => x.chan.isSome && !x.res).length
def CopyUnit.sharedOf (c : CopyUnit) (k : Nat) : Nat := (c.inj.filter fun x => x.chan == some k && !x.res).length

/-- The buffer that a channel's next flit takes: a shared one (false) while one of the 448 is free and the channel holds fewer
than 64, else its reserved one (true), else none (R199). -/
def CopyUnit.buffer (c : CopyUnit) (k : Nat) : Option Bool :=
  if c.sharedOf k < 64 && c.sharedUsed < 448 then some false
  else if c.inj.any fun x => x.chan == some k && x.res then none else some true

/-- A flit of a channel's command enters a buffer, or the channel waits for one (R199). Answers whether it did. -/
def State.chanFlit (s : State) (tile k : Nat) (q : QCmd) (f : Flit) : State × Bool :=
  match (s.copyUnit tile).buffer k with
  | some res =>
    (s.sendFlit tile { flit := f, chan := some k, res := res, prio := (q.word.extractLsb' 210 2).toNat, core := some q.core }, true)
  | none => (s.modChan tile k fun c => { c with run := c.run.map fun r => { r with stalled := true } }, false)

/-! ## Tokens (R216) -/

/-- Token kinds (R216). -/
def tokTOKEN : Nat := 1
def tokRETRY : Nat := 2
def tokDONE : Nat := 3

/-- The 32-byte value of a grant cell or channel register (R216). -/
def tokenValue (recv : Nat) (r : Req) (kind off len entry expiry gseq dst : Nat) : V256 :=
  BitVec.ofNat 256 (recv % 2 ^ 16 + r.chan % 64 * 2 ^ 16 + r.cls % 4 * 2 ^ 22 + kind * 2 ^ 24 + r.xid.toNat * 2 ^ 32
    + off % 2 ^ 32 * 2 ^ 64 + len % 2 ^ 16 * 2 ^ 96 + entry % 2 ^ 16 * 2 ^ 112 + expiry % 2 ^ 64 * 2 ^ 128
    + gseq % 2 ^ 32 * 2 ^ 192 + dst % 2 ^ 8 * 2 ^ 224)

/-- Posts a token to the sender: into its grant cell for copy.pull, else into its channel's register (R359). -/
def State.postToken (s : State) (tile : Nat) (r : Req) (v : V256) (ack : AckFor) : State :=
  match r.kind with
  | .pull => s.unitPost tile r.src r.gcell v ack
  | _ =>
    let (ref, s) := s.takeRef tile
    let s := s.modCopy tile fun c => { c with acks := c.acks.set ref ack }
    s.sendFlit tile { flit := s.mkFlit tile 0 r.src ref (.chanReg r.chan v) }

/-! ## The sender (R215, R359) -/

/-- Byte count as 64-byte flits. -/
def flitsOf (n : Nat) : Nat := (n + 63) / 64

/-- 64 data bytes of a list at an offset. -/
def flitAt (bs : List Byte) (o : Nat) : BitVec 512 := lineOfBytes ((bs.drop o).take 64)

/-- A prefix tag that has carried no PFX in the last 2^15 reference ticks (R359). -/
def State.freeTag (s : State) (tile : Nat) : Option Nat :=
  (List.range 64).find? fun t => match (s.copyUnit tile).tags.get? t with
    | none => true
    | some last => last + 2 ^ 15 ≤ s.clock

/-- The service priority of a channel's command (R198). -/
def cmdPrio (w : V256) : Nat := (w.extractLsb' 210 2).toNat
def cmdClass (w : V256) : Nat := (w.extractLsb' 208 2).toNat
def cmdFlags (w : V256) : BitVec 16 := w.extractLsb' 224 16

/-- Starts a transfer of a channel's command, from one of its bytes on: its request and its prefix are sent next (R359). -/
def State.startPull (s : State) (tile k : Nat) (q : QCmd) (dest : Word) (base len : Nat) (kind : XferKind) (pfx gcell : Nat) :
    State :=
  let tag := s.freeTag tile
  let n := match tag with
    | none => 0
    | some _ => min pfx (flitsOf len)
  let r : Req := { src := tile, chan := k, xid := BitVec.ofNat 32 q.id, dest := dest, len := len, pfx := n,
                   tag := tag.getD 0, cls := cmdClass q.word, gcell := gcell, kind := kind }
  let s := if n = 0 then s else s.modCopy tile fun c => { c with tags := c.tags.set r.tag s.clock }
  let seen := match kind with
    | .pull => ((s.tile tile).cell gcell).count
    | _ => ((s.copyUnit tile).chan k).regCount
  let p : Pull := { req := r, dst := amTile dest, base := base, seen := seen, changed := s.now tile,
                    send := if n = 0 then none else some { next := 0, stop := min len (64 * n) } }
  ((s.modChan tile k fun c => { c with run := c.run.map fun x => { x with pull := some p, acc := [] } }).atTile tile 65536
    .silentCellResend ⟨tile, 0, 0⟩ { n := k, m := q.id }).rerun tile k

/-- The transfer of a channel's command has ended with the receiver's status; the command goes on or completes (R215,
R437). -/
def State.pullDone (s : State) (tile k : Nat) (run : ChanRun) (p : Pull) (st : Nat) : State :=
  let s := s.modChan tile k fun c => { c with run := some { run with pull := none, acc := [], off := p.base + p.req.len } }
  if st ≠ 0 then s.finishCopy tile k (BitVec.ofNat 8 st)
  else match p.req.kind with
  | .aff => s.rerun tile k
  | _ => s.finishCopy tile k 0

/-- PULL_TOKEN_SAMPLE: the sender acts on the token in its cell or register (R215). Operand: the channel. -/
def execPullTokenSample (s : State) : Out :=
  let tile := s.cur.tile
  let k := s.arg.n
  let ch := (s.copyUnit tile).chan k
  .next (match ch.run with
    | none => s
    | some run =>
      match run.pull with
      | none => s
      | some p =>
        let (v, n) := match p.req.kind with
          | .pull => (((s.tile tile).cell p.req.gcell).value, ((s.tile tile).cell p.req.gcell).count)
          | _ => (ch.reg, ch.regCount)
        if n = p.seen then s
        else
          let p := { p with seen := n, changed := s.now tile }
          let run := { run with pull := some p }
          let s := s.modChan tile k fun c => { c with run := some run }
          let kind := valBytes v 3 1
          if !(valBytes v 2 1 % 64 == k && valBytes v 4 4 == p.req.xid.toNat) then s
          else if kind = tokTOKEN then
            let off := valBytes v 8 4
            let x : Send := { next := off, stop := min p.req.len (off + valBytes v 12 2),
                              tok := some (valBytes v 14 2, valBytes v 24 4) }
            (s.modChan tile k fun c => { c with run := some { run with pull := some { p with send := some x }, acc := [] } }).rerun
              tile k
          else if kind = tokRETRY then s.atTile tile 2048 .retryResend ⟨tile, 0, 0⟩ { n := k, m := run.q.id }
          else if kind = tokDONE then s.pullDone tile k run p (valBytes v 28 1)
          else s)

/-- Sends a transfer's request again, without prefix. -/
def State.resendReq (s : State) (tile k : Nat) (p : Pull) : State :=
  let p := { p with req := { p.req with pfx := 0 }, ask := true, changed := s.now tile }
  (s.modChan tile k fun c => { c with run := c.run.map fun x => { x with pull := some p } }).rerun tile k

/-- The transfer of a channel that still carries an identifier. -/
def State.pullOf (s : State) (tile k id : Nat) : Option Pull :=
  match ((s.copyUnit tile).chan k).run with
  | some run => if run.q.id = id then run.pull else none
  | none => none

/-- RETRY_RESEND: 2,048 cycles after a RETRY (R215). Operands: channel, identifier. -/
def execRetryResend (s : State) : Out :=
  .next (match s.pullOf s.cur.tile s.arg.n s.arg.m with
    | some p => s.resendReq s.cur.tile s.arg.n p
    | none => s)

/-- SILENT_CELL_RESEND: the cell has not changed for 65,536 cycles (R364). Operands: channel, identifier. -/
def execSilentCellResend (s : State) : Out :=
  let tile := s.cur.tile
  .next (match s.pullOf tile s.arg.n s.arg.m with
    | none => s
    | some p =>
      let quiet := s.now tile - p.changed
      if quiet < 65536 then s.atTile tile (65536 - quiet) .silentCellResend s.cur s.arg
      else (s.resendReq tile s.arg.n p).atTile tile 65536 .silentCellResend s.cur s.arg)

/-! ## The receiver (R360 to R364) -/

/-- Takes the oldest accepted flit whose message a test picks. -/
def State.takeAccepted (s : State) (tile : Nat) (f : FlitMsg → Bool) : Option (Flit × State) :=
  match takeFirst (fun x => f x.msg) (s.copyUnit tile).accepted with
  | some (x, rest) => some (x, s.modCopy tile fun c => { c with accepted := rest })
  | none => none

/-- The check of a transfer's whole destination range; the failing status, or 0 (R437). -/
def State.destCheck (s : State) (tile : Nat) (r : Req) : Nat :=
  let l := s.launch tile
  let k := amKind r.dest
  let kinds : Nat → Bool := match r.kind with
    | .pull => kind0or14
    | .aff => fun k => rawKind k || k == 11
    | .red _ _ => rawKind
    | .ev _ => fun k => k == 10
  let last := match r.kind with
    | .red ty first => amOff r.dest + 16 + 16 * (first + r.len / addendSize ty)
    | .ev _ => 1
    | _ => amOff r.dest + r.len
  if !(isTileMap r.dest && amFormOk r.dest && kinds k && last ≤ windowSize l k) then 0x02
  else if amTile r.dest ≠ tile ∨ !(s.part l.part).hasTile r.src then 0x03
  else if !l.exports k then 0x03
  else match r.kind with
  | .red _ _ =>
    let p := lmPlace l r.dest
    if regionOk (s.lmRead tile p.core p.off 2) then 0 else 0x08
  | _ => 0

def CopyUnit.modReq (c : CopyUnit) (e : Nat) (f : ReqEnt → ReqEnt) : CopyUnit :=
  match c.reqs.get? e with
  | some x => { c with reqs := c.reqs.set e (f x) }
  | none => c

/-- Sectors of the live token accepted without a gap. -/
def ReqEnt.lead (x : ReqEnt) : Nat := ((List.range x.tlen).takeWhile fun i => x.tmap.getLsbD i).length

/-- The command that an entry's transfer belongs to, as the source of its writes (R293). -/
def Req.source (r : Req) : StoreSrc := cmdSrc r.src 1 r.chan r.xid.toNat

/-- The addends of a transfer are added, in order, and the contribution is counted (R54, R214, R374). Answers the status:
BADREGION where an addend met a bad exponent, UE where an addition met an uncorrectable error, which fences the context
(R207, R437). -/
def State.takeAddends (s : State) (tile : Nat) (x : ReqEnt) (ty first : Nat) : State × Nat :=
  let sz := addendSize ty
  let xs := (List.range (x.req.len / sz)).map fun i => x.buf.readNat (sz * i) sz
  let (s, st) := match s.addAll tile x.req.dest ty first xs (some x.req.source) with
    | (s, .ok true) => (s, 0)
    | (s, .ok false) => (s, 0x08)
    | (s, .error e) => (s, if e = UErr.ue then 0x09 else 0x08)
  let l := s.launch tile
  if st = 0x09 then (s.fence l.part l.ctx 0x01 (64 + x.req.chan) x.req.src (s.tile tile).ueAt x.req.xid.toNat, st) else (s, st)

/-- The events of a transfer reach the event engine in array order (R219). -/
def State.takeEvents (s : State) (tile : Nat) (x : ReqEnt) (num : W32) : State :=
  (List.range (x.req.len / 8)).foldl (fun s i =>
    s.atTile tile 0 .eventIntake ⟨tile, 0, 0⟩
      { w := BitVec.ofNat 64 (x.buf.readNat (8 * i) 8), n := x.req.src, m := (num.toNat + i) % 2 ^ 32 }) s

/-- Every byte of a transfer has been accepted: addends and events are taken, and DONE is posted (R363, R437). -/
def State.postDone (s : State) (tile e : Nat) (x : ReqEnt) : State :=
  let (s, st) := match x.req.kind with
    | .red ty first => s.takeAddends tile x ty first
    | .ev num => (s.takeEvents tile x num, 0)
    | _ => (s, 0)
  let s := s.postToken tile x.req (tokenValue tile x.req tokDONE 0 0 e 0 x.gseq st) (.grant e x.stamp)
  s.modCopy tile fun c => c.modReq e fun y => { y with posted := true, done := true }

/-- DONE follows the last byte, once it has been written and no earlier post of the entry awaits its acknowledgement (R362, R363). -/
def State.tryDone (s : State) (tile e : Nat) : State :=
  match (s.copyUnit tile).reqs.get? e with
  | none => s
  | some x =>
    if x.req.len ≤ x.next && !x.posted && !x.done && !((s.copyUnit tile).late.any (·.entry == e)) then s.postDone tile e x else s

/-- A fully accepted token is retired (R363). -/
def State.retireFull (s : State) (tile e : Nat) : State :=
  match (s.copyUnit tile).reqs.get? e with
  | none => s
  | some x =>
    if x.tlen = 0 ∨ x.lead < x.tlen then s
    else
      let next := min x.req.len (x.next + 64 * x.tlen)
      (s.modCopy tile fun c =>
        let c := c.modReq e fun y => { y with next := next, miss := 0, tlen := 0, tmap := 0 }
        if x.pre then c else { c with g := c.g - x.tlen }).tryDone tile e

/-- An accepted flit is written (R200, R363): a sector of global memory in one action at its home slice, words of local memory each at
its own port and in no order (R289, FRAME1 of R295): the words before or from a free place on perform in a later cycle. -/
def State.putFlit (s : State) (tile e : Nat) (by_ : StoreSrc) (a : Word) (bs : List Byte) : State :=
  if isGlobal a then (s.unitPut tile (some by_) 2 a bs).1
  else
    let (k, s) := s.takeFresh
    let cut := 4 * (Config.freeNat k % 17) - a.toNat % 4
    let low := (a, bs.take cut)
    let high := (a + BitVec.ofNat 64 (bs.take cut).length, bs.drop cut)
    let (first, last) := if Config.freeBool k then (low, high) else (high, low)
    let s := (s.unitPut tile (some by_) 2 first.1 first.2).1
    if last.2.isEmpty then s
    else s.modCopy tile fun c => { c with
      late := c.late ++ [⟨e, s.now tile + 1 + Config.freeLatency k, last.1, last.2, by_⟩] }

/-- A flit of the live token is accepted: written at its place, or kept until the transfer is whole (R363). -/
def State.acceptFlit (s : State) (tile e : Nat) (x : ReqEnt) (ix : Nat) (d : BitVec 512) : State :=
  let o := x.next + 64 * ix
  let bs := (lineBytes d).take (min 64 (x.req.len - o))
  let inOrder := match x.req.kind with
    | .ev _ => true
    | .red _ _ => true
    | _ => false
  let s := if inOrder then s else s.putFlit tile e x.req.source (x.req.dest + BitVec.ofNat 64 o) bs
  let x := { x with tmap := x.tmap ||| (1 : BitVec 8) <<< ix, buf := if inOrder then x.buf.writeBytes o bs else x.buf }
  (s.modCopy tile fun c => c.modReq e fun _ => x).retireFull tile e

/-- A prefix flit of a source with a tag. -/
def poolOf (src tag : Nat) (p : Nat × Nat × Nat × BitVec 512 × Nat) : Bool := p.1 == src && p.2.1 == tag

/-- A request gets no entry: its prefix is discarded, what has come of it and what will come (R364, R437). -/
def State.refusePrefix (s : State) (tile : Nat) (r : Req) : State :=
  if r.pfx = 0 then s
  else s.modCopy tile fun c => { c with
    pool := c.pool.filter fun p => !poolOf r.src r.tag p
    refused := (r.src, r.tag, s.clock) :: c.refused.filter fun x => s.clock < x.2.2 + 2 ^ 15 }

/-- A request makes an entry, whose token 0 is its prefix (R361). -/
def State.newEntry (s : State) (tile e : Nat) (r : Req) : State :=
  let c := s.copyUnit tile
  let live := if r.pfx = 0 then 0 else min r.pfx (flitsOf r.len)
  let x : ReqEnt := { req := r, stamp := c.arrived, tlen := live, pre := live != 0, exp := s.now tile + 2048, came := s.clock }
  let s := s.modCopy tile fun c => { c with reqs := c.reqs.set e x, arrived := c.arrived + 1 }
  if live = 0 then s
  else
    let s := s.atTile tile 2048 .tokenExpiry ⟨tile, 0, 0⟩ { n := e, m := 0, w := BitVec.ofNat 64 x.stamp } true
    -- prefix flits that came before their request
    let mine := c.pool.filter (poolOf r.src r.tag)
    let s := s.modCopy tile fun c => { c with pool := c.pool.filter fun p => !poolOf r.src r.tag p }
    mine.foldl (fun s p => match (s.copyUnit tile).reqs.get? e with
      | some x => if p.2.2.1 < x.tlen && x.pre then s.acceptFlit tile e x p.2.2.1 p.2.2.2.1 else s
      | none => s) s

/-- PULL_REQ: a REQ makes an entry, meets its own entry, or is answered RETRY or a refusal (R361, R364, R437). -/
def execPullReq (s : State) : Out :=
  let tile := s.cur.tile
  .next (match s.takeAccepted tile (fun m => match m with
      | .req _ => true
      | _ => false) with
    | none => s
    | some (f, s) =>
      match f.msg with
      | .req r =>
        let c := s.copyUnit tile
        match c.reqs.find? fun e => e.2.req.src == r.src && e.2.req.chan == r.chan && e.2.req.xid == r.xid with
        | some (e, _) => s.modCopy tile fun c => c.modReq e fun y => { y with miss := 0 }
        | none =>
          let st := s.destCheck tile r
          if st ≠ 0 then (s.refusePrefix tile r).postToken tile r (tokenValue tile r tokDONE 0 0 0 0 0 st) .none
          else match (List.range 256).find? fun e => !c.reqs.has e with
          | none => (s.refusePrefix tile r).postToken tile r (tokenValue tile r tokRETRY 0 0 0 0 0 0) .none
          | some e => s.newEntry tile e r
      | _ => s)

/-- The newest entry whose transfer a prefix tag of a source belongs to. An entry whose token 0 has closed keeps its tag for the
2^15 ticks in which no other transfer can have it (R359, R361; log 89). -/
def CopyUnit.prefixEntry (c : CopyUnit) (clock src tag : Nat) : Option (Nat × ReqEnt) :=
  (c.reqs.filter fun e => e.2.req.src == src && e.2.req.tag == tag && e.2.req.pfx != 0 &&
      ((e.2.pre && e.2.tlen != 0) || clock < e.2.came + 2 ^ 15)).foldl (fun best e =>
    match best with
    | some b => if b.2.stamp < e.2.stamp then some e else best
    | none => some e) none

/-- A prefix flit is dropped and counted (R361). -/
def CopyUnit.dropPfx (c : CopyUnit) : CopyUnit := { c with pfxdrop := c.pfxdrop + 1 }

/-- PULL_PFX: a prefix flit is accepted while token 0 lives, waits in the pool, is discarded, or is dropped and counted (R361,
R364, R437). -/
def execPullPfx (s : State) : Out :=
  let tile := s.cur.tile
  .next (match s.takeAccepted tile (fun m => match m with
      | .pfx _ _ _ => true
      | _ => false) with
    | none => s
    | some (f, s) =>
      match f.msg with
      | .pfx tag ix d =>
        let c := s.copyUnit tile
        -- an age grows at the boundaries of 64 reference ticks (R350)
        let left := (s.clock / 64 + (0x100 - f.age)) * 64 - s.clock
        if 0x100 ≤ f.age then s.modCopy tile CopyUnit.dropPfx
        else match c.prefixEntry s.clock f.src tag with
        | some (e, x) => if x.pre ∧ ix < x.tlen then s.acceptFlit tile e x ix d else s
        | none =>
          if c.refused.any fun x => x.1 == f.src && x.2.1 == tag && s.clock < x.2.2 + 2 ^ 15 then s
          else if 64 ≤ c.pool.length then s.modCopy tile CopyUnit.dropPfx
          else
            let s := s.modCopy tile fun c =>
              { c with pool := c.pool ++ [(f.src, tag, ix, d, c.arrived)], arrived := c.arrived + 1 }
            let arg : Args := { n := c.arrived }
            (s.atTile tile 8192 .pfxPoolExpiry ⟨tile, 0, 0⟩ arg).atRef left .pfxPoolExpiry ⟨tile, 0, 0⟩ arg
      | _ => s)

/-- PFX_POOL_EXPIRY: a flit has waited 8,192 tile cycles in the pool, or has reached age 0x0100 (R361). Operand: its number. -/
def execPfxPoolExpiry (s : State) : Out :=
  let tile := s.cur.tile
  .next (if (s.copyUnit tile).pool.any fun p => p.2.2.2.2 == s.arg.n then
      s.modCopy tile fun c => { c with pool := c.pool.filter fun p => p.2.2.2.2 != s.arg.n }.dropPfx
    else s)

/-- The entry that the grant scheduler serves next: the lowest class, the oldest of it (R362). -/
def CopyUnit.nextGrant (c : CopyUnit) : Option (Nat × ReqEnt) :=
  if 16 ≤ c.g then none
  else
    (c.reqs.filter fun e => e.2.tlen == 0 && !e.2.posted && e.2.next < e.2.req.len).foldl (fun best e =>
      match best with
      | none => some e
      | some b =>
        if e.2.req.cls < b.2.req.cls || (e.2.req.cls == b.2.req.cls && e.2.stamp < b.2.stamp) then some e else best) none

/-- GRANT: one TOKEN is posted (R362). -/
def execGrant (s : State) : Out :=
  let tile := s.cur.tile
  let c := s.copyUnit tile
  .next (match c.nextGrant with
    | none => s
    | some (e, x) =>
      let left := x.req.len - x.next
      let n := min 8 (min (16 - c.g) (flitsOf left))
      let exp := s.now tile + 8192
      let x := { x with gseq := (x.gseq + 1) % 2 ^ 16, pre := false, tlen := n, tmap := 0, exp := exp, posted := true }
      let s := s.modCopy tile fun c => { (c.modReq e fun _ => x) with g := c.g + n }
      let s := s.postToken tile x.req (tokenValue tile x.req tokTOKEN x.next (min (64 * n) left) e exp x.gseq 0) (.grant e x.stamp)
      s.atTile tile 8192 .tokenExpiry ⟨tile, 0, 0⟩ { n := e, m := x.gseq, w := BitVec.ofNat 64 x.stamp } true)

/-- PULL_DATA: a DATA flit is accepted against the live token, or discarded (R363). -/
def execPullData (s : State) : Out :=
  let tile := s.cur.tile
  .next (match s.takeAccepted tile (fun m => match m with
      | .data _ _ _ _ => true
      | _ => false) with
    | none => s
    | some (f, s) =>
      match f.msg with
      | .data e gseq ix d =>
        match (s.copyUnit tile).reqs.get? e with
        | some x =>
          if x.tlen ≠ 0 ∧ x.gseq % 16 = gseq % 16 ∧ ix < x.tlen then s.acceptFlit tile e x ix d
          else s
        | none => s
      | _ => s)

/-- TOKEN_EXPIRY: the live token ends; what it left is granted again; three unused expiries in turn free the entry (R363,
R364). Operands: entry, grant number, the entry's stamp. -/
def execTokenExpiry (s : State) : Out :=
  let tile := s.cur.tile
  let e := s.arg.n
  .next (match (s.copyUnit tile).reqs.get? e with
    | none => s
    | some x =>
      if x.stamp ≠ s.arg.w.toNat ∨ x.gseq ≠ s.arg.m ∨ x.tlen = 0 then s
      else
        let miss := if x.pre then x.miss else if x.tmap = 0 then x.miss + 1 else 0
        let s := if x.pre then s else s.modCopy tile fun c => { c with g := c.g - x.tlen }
        if 3 ≤ miss then s.modCopy tile fun c => { c with reqs := c.reqs.erase e, orphan := c.orphan + 1 }
        else (s.modCopy tile fun c => c.modReq e fun y =>
          { y with next := min x.req.len (x.next + 64 * x.lead), tlen := 0, tmap := 0, miss := miss }).tryDone tile e)

/-- A post of an entry has been acknowledged; after DONE the entry is freed (R362, R363). -/
def State.grantAcked (s : State) (tile e stamp : Nat) : State :=
  match (s.copyUnit tile).reqs.get? e with
  | none => s
  | some x =>
    if x.stamp ≠ stamp then s
    else if x.done then s.modCopy tile fun c => { c with reqs := c.reqs.erase e }
    else (s.modCopy tile fun c => c.modReq e fun y => { y with posted := false }).tryDone tile e

/-- Words of accepted flits whose cycle has come perform; a transfer that waited for them is done (R289, R363). -/
def State.pollLate (s : State) (tile : Nat) : State × Bool :=
  let due := (s.copyUnit tile).late.filter fun x => x.at_ ≤ s.now tile
  let s := s.modCopy tile fun c => { c with late := c.late.filter fun x => !(x.at_ ≤ s.now tile) }
  (due.foldl (fun s x => (s.unitPut tile (some x.by_) 2 x.addr x.bytes).1.tryDone tile x.entry) s, !due.isEmpty)

/-- What the copy unit does of itself in a cycle for transfers: grants, and looks at changed cells (R215, R362). -/
def State.pollPull (s : State) (tile : Nat) : State × Bool :=
  let c := s.copyUnit tile
  let changed := c.chans.filter fun k => match k.2.run with
    | some r => match r.pull with
      | some p => match p.req.kind with
        | .pull => ((s.tile tile).cell p.req.gcell).count != p.seen
        | _ => k.2.regCount != p.seen
      | none => false
    | none => false
  let s := changed.foldl (fun s k => s.atTile tile 0 .pullTokenSample ⟨tile, 0, 0⟩ { n := k.1 }) s
  if c.nextGrant.isSome && !(s.tile tile).frozen then (s.atTile tile 0 .grant, true) else (s, !changed.isEmpty)

end Sys2Proof.Machine
end

