-- ==== Sys2Proof/Machine/Replies.lean ====
section
/-!
DEFINITION. Replies and acknowledgements that reach a tile, and the steps of its caches (spec/09 R270, R274, spec/06 R191, spec/07 R213,
spec/17 R349, spec/19 R391).
-/
namespace Sys2Proof.Machine

/-- The misses of a deck's tiles that wait for a walk of a page (R391). -/
def State.walkedMisses (s : State) (d : Fin 8) (p c : Nat) (va : Word) : List (Nat × Miss) :=
  s.tiles.flatMap fun (t : Nat × Tile) =>
    let l := t.2.launch.getD {}
    if deckOf t.1 = d && s.sameAsid p c l.part l.ctx then
      (t.2.misses.filter fun m => m.walking && pageOf m.va == pageOf va).map fun m => (t.1, m)
    else []

/-- TRANSLATION_WALK: the walk of a page is done. Every miss of the deck's tiles that waits for it goes on, and the slices hold the
table lines it read (R391). Operands: the deck's tile that asked first, the partition, the context, an address of the page. -/
def execTranslationWalk (s : State) : Out :=
  let d := deckOf s.cur.tile
  let a := s.arg
  let s := ((s.walkedMisses d a.n a.m a.w).foldl (fun s x => s.missGo x.1 x.2) s).endWalk d a.n a.m a.w
  .next (s.walked d a.n a.m a.w)

/-- Answers a read of a slice whose line it now has (R272, R274). -/
def State.answerLine (s : State) (home : Nat) (q : SReq) (d : BitVec 512) : State :=
  if home = q.tile then s.atTile home 48 .readReply ⟨q.tile, 0, 0⟩ { n := q.tag, d := d }
  else
    let f := s.mkFlit home 1 q.tile q.tag (.rdata 0 d)
    s.sendFlit home { flit := { f with part := q.part, slot := q.ctx % 16, epoch := (s.ctx q.part q.ctx).epoch.toNat % 16 } }

/-- HBM_FILL: the fill of a line ends; the reads that wait for it are answered (R274, R401). An uncorrectable error fences the
context instead (R418). Operands: the line, whether it is sound. -/
def execHbmFill (s : State) : Out :=
  let home := s.cur.tile
  let mine := (s.tile home).sreqs.filter fun q => q.pl == s.arg.n
  let s := s.modTile home fun t => { t with sreqs := t.sreqs.filter fun q => q.pl != s.arg.n }
  .next (mine.foldl (fun s q =>
    if s.arg.ok then
      let (s, d) := s.sliceFillIn home q.part q.ctx q.pl q.rule
      s.answerLine home q d
    else
      let tag := if home = q.tile then some q.tag else (s.copyUnit q.tile).refs.get? q.tag
      let va := match (s.tile q.tile).misses.find? fun m => some m.tag == tag with
        | some m => m.va
        | none => BitVec.ofNat 64 (64 * q.pl)
      s.fence q.part q.ctx 0x04 0 q.tile va 0) s)

/-- READ_REPLY: a line or a remote source has come back (R270, R213). Operands: tag, status, data. -/
def execReadReply (s : State) : Out :=
  let tile := s.cur.tile
  .next (match (s.tile tile).misses.find? fun m => m.tag == s.arg.n with
    | none => s
    | some m =>
      match m.what with
      | .line _ _ _ => s.lineReply tile m s.arg.d
      | .chan k n =>
        let s := (s.dropMiss tile m.tag).modTile tile fun t => { t with ueAt := m.va }
        if s.arg.m ≠ 0 then s.finishCopy tile k (BitVec.ofNat 8 s.arg.m)
        else (s.modChan tile k fun c => { c with run := c.run.map fun r => { r with got := (lineBytes s.arg.d).take n, wait := false } }).rerun
          tile k)

/-- HOST_READ_COMPLETION: a load of host memory completes, or its data are poisoned (R270, R418). Operands: the
instruction, whether the data are sound. -/
def execHostReadCompletion (s : State) : Out :=
  let r := s.cur
  .next (match (s.thread r).op? s.arg.n with
    | none => s
    | some o =>
      match o.cond with
      | .host va pa f =>
        if s.arg.ok then s.resolveIn r o.id 0 (f.writes (s.hostRead pa f.size)) else s.failOp r o.id 0 .ue va
      | _ => s)

/-- REMOTE_READ_REQUEST: a copy unit answers a read of its own tile's source at once; a slice answers a line request when
it has the line (R213, R274). -/
def execRemoteReadRequest (s : State) : Out :=
  let tile := s.cur.tile
  .next (match s.takeAccepted tile (fun m => match m with
      | .readReq _ _ => true
      | .lineReq _ => true
      | _ => false) with
    | none => s
    | some (f, s) =>
      match f.msg with
      | .lineReq pl => s.serveLine tile { pl := pl, tile := f.src, tag := f.ref, part := f.part, ctx := f.slot }
      | .readReq a n =>
        let kinds (k : Nat) : Bool := rawKind k || k == 11 || k == 12
        let (st, d) : Byte × BitVec 512 := match s.unitCheck tile a n kinds with
          | some e => (e.status, 0)
          | none =>
            if !(s.launch tile).exports (amKind a) then (0x03, 0)
            else match s.localRead tile a n with
            | .ok v => (0, BitVec.ofNat 512 v)
            | .error e => (e.status, 0)
        s.sendFlit tile { flit := s.mkFlit tile 1 f.src f.ref (.rdata st d) }
      | _ => s)

/-- ACK_RECEIVED: a post, a writeback or a write has been acknowledged or refused (R165, R190, R362, R254). Operands:
reference, status (1: refused). -/
def execAckReceived (s : State) : Out :=
  let tile := s.cur.tile
  .next (match (s.copyUnit tile).acks.get? s.arg.n with
    | none => s
    | some a =>
      let s := s.modCopy tile fun c =>
        { c with acks := c.acks.erase s.arg.n, rpost := if s.arg.m = 1 then c.rpost + 1 else c.rpost }
      match a with
      | .post _ => s
      | .grant e stamp => s.grantAcked tile e stamp
      | .fan => s.modTile tile fun t => { t with ev := { t.ev with
          remote := t.ev.remote - 1, fanref := if s.arg.m = 2 then t.ev.fanref + 1 else t.ev.fanref } }
      | .none => s)

/-- LINE_EVICTION: a line leaves a line cache, written back if dirty (R270). Operand: the line index. -/
def execLineEviction (s : State) : Out := .next (s.lineEvict s.cur.tile s.cur.core s.arg.n)

/-- SLICE_EVICTION: a line leaves a slice, encrypted to HBM if dirty (R274, R401). Operands: the line, the partition. -/
def execSliceEviction (s : State) : Out := .next (s.sliceEvict s.cur.tile s.arg.m s.arg.n)

end Sys2Proof.Machine
end

