-- ==== Sys2Proof/Machine/Copy.lean ====
section
/-!
DEFINITION. The copy commands: their starts, checks, effects and completion (spec/07 R197, R198, R200, R206 to R208, R213 to R215,
R217, R219 to R225).
-/
namespace Sys2Proof.Machine

/-! ## Starts (R197, R198) -/

/-- A queued command can start: its channel is idle and its identifier is the next one. -/
def CopyUnit.canStart (c : CopyUnit) (q : QCmd) : Bool :=
  let ch := c.chan (wordChan q.word)
  ch.run.isNone && BitVec.ofNat 32 q.id == ch.ct + 1

/-- The command that starts next: the highest prio, then the cores in rotation after the one served last (R198). -/
def Tile.nextStart (t : Tile) : Option (Fin 8 × QCmd) :=
  let order := (List.finRange 8).map fun i : Fin 8 => t.copy.rot + 1 + i
  let ready := order.flatMap fun c => (t.cores[c].copyq.filter t.copy.canStart).map fun q => (c, q)
  ready.foldl (fun best x =>
    match best with
    | none => some x
    | some b => if cmdPrio b.2.word < cmdPrio x.2.word then some x else best) none

/-- A command of a kind that sets the work bit: aff, red, pull, mcast, ev (R221). -/
def workCmd (w : V256) : Bool := let c := (w.extractLsb' 240 8).toNat; 1 ≤ c && c ≤ 5

/-- A channel that waited for a flit buffer goes on when it can have one (R199). -/
def State.pollStalled (s : State) (tile : Nat) : State × Bool :=
  let c := s.copyUnit tile
  match c.chans.find? fun k => (c.buffer k.1).isSome && k.2.fpend.isNone && k.2.run.any ChanRun.stalled with
  | some (k, _) => ((s.modChan tile k fun ch => { ch with run := ch.run.map fun r => { r with stalled := false } }).rerun tile k, true)
  | none => (s, false)

/-- At most one command starts per tile cycle (R198). -/
def State.pollStarts (s : State) (tile : Nat) : State × Bool :=
  if s.now tile < (s.copyUnit tile).started then (s, false)
  else match (s.tile tile).nextStart with
  | none => (s, false)
  | some (c, q) =>
    let s := s.modCore tile c fun co => { co with copyq := eraseOne q co.copyq }
    let s := s.modCopy tile fun u => { u with started := s.now tile + 1, rot := c, work := u.work || workCmd q.word }
    let k := wordChan q.word
    ((s.modChan tile k fun ch => { ch with run := some { q := q } }).rerun tile k, true)

/-! ## Operands (R208, R213) -/

/-- A copy command of a channel, if the channel runs one. -/
def State.runOf (s : State) (tile k : Nat) : Option ChanRun := ((s.copyUnit tile).chan k).run
def State.modRun (s : State) (tile k : Nat) (f : ChanRun → ChanRun) : State :=
  s.modChan tile k fun c => { c with run := c.run.map f }

/-- An address in another tile. -/
def remoteTo (tile : Nat) (a : Word) : Bool := isTileMap a && amTile a != tile

/-- The check of an address that may lie in another tile of the partition (R57, R208): the window and its offsets, the
partition, the export by the launch that the other tile runs (log 26). -/
def State.sideCheck (s : State) (tile : Nat) (a : Word) (n : Nat) (kinds : Nat → Bool) : Option UErr :=
  if remoteTo tile a then
    let l := s.launch (amTile a)
    let k := amKind a
    if !amFormOk a || !kinds k || (k != 14 && windowSize l k < amOff a + n) then some .prot
    else if !(s.part (s.launch tile).part).hasTile (amTile a) || (s.tile (amTile a)).launch.isNone then some .noexport
    else if windowSize l k < amOff a + n then some .prot
    else if !l.exports k then some .noexport
    else none
  else s.unitCheck tile a n kinds

/-- One side of copy.aff: a contiguous range, or the elements of a shape in order (R213). -/
structure Side where
  base : Word
  shape : Option Shape
  deriving Repr

/-- The address of byte j of a side. -/
def Side.byteAt (x : Side) (j : Nat) : Word :=
  match x.shape with
  | none => x.base + BitVec.ofNat 64 j
  | some t =>
    let u := elemBytes t.fmt
    let k := if nibbleFmt t.fmt then 2 else 1
    t.addr (k * (j / u)) + BitVec.ofNat 64 (j % u)

/-- Bytes of a shape's elements. -/
def Shape.bytes (x : Shape) : Nat := x.total * fmtBits x.fmt / 8

/-- The alignment of kind 7 and kind 11 sides (R213). -/
def sideAlign (a : Word) : Nat := if !isTileMap a then 1 else if amKind a = 7 then 16 else if amKind a = 11 then 4 else 1
def sideAligned (a : Word) (n : Nat) : Bool := a.toNat % sideAlign a == 0 && n % sideAlign a == 0

/-- What a check of a command found: nothing, a status, or a refused access with its kind of access. -/
inductive Chk (α : Type) where
  | ok (x : α)
  | bad (st : Byte)
  | err (e : UErr) (acc : Nat)

/-- The kinds of a source and of a destination of copy.aff (R213). -/
def affSrc (k : Nat) : Bool := rawKind k || k == 11 || k == 12
def affDst (k : Nat) : Bool := rawKind k || k == 11

/-- One operand of copy.aff: its record, if it names one, and its checks (R208 to R213). The record is read once. -/
def State.affSide (s : State) (tile : Nat) (a : Word) (rec : Bool) (held : Option (BitVec 512)) (len : Nat)
    (kinds : Nat → Bool) : State × Chk (Side × Option (BitVec 512)) :=
  -- n: the bytes at the base; whole: the bytes of the side
  let fin (s : State) (x : Side) (r : Option (BitVec 512)) (n whole : Nat) : State × Chk (Side × Option (BitVec 512)) :=
    match s.sideCheck tile x.base n kinds with
    | some e => (s, .err e 0)
    | none => if sideAligned x.base whole then (s, .ok (x, r)) else (s, .bad 0x04)
  if !rec then fin s ⟨a, none⟩ none len len
  else if a &&& 63 != 0 then (s, .bad 0x06)
  else
    let (s, got) : State × Except UErr (BitVec 512) := match held with
      | some x => (s, .ok x)
      | none => s.readShape tile a
    match got with
    | .error e => (s, .err e 2)
    | .ok bits =>
      let x := Shape.ofBits bits
      if !x.ok then (s, .bad 0x05) else fin s ⟨x.base, some x⟩ (some bits) (if x.total = 0 then 0 else 1) x.bytes

/-! ## Moving bytes (R200, R213, R225) -/

/-- The bytes from byte o on that are contiguous on the given sides and lie in one 64-byte line of each, at most 64. -/
def pieceLen (sides : List Side) (o len : Nat) : Nat :=
  let same (x : Side) (j : Nat) : Bool :=
    x.byteAt (o + j) == x.byteAt o + BitVec.ofNat 64 j && (x.byteAt (o + j)).toNat / 64 == (x.byteAt o).toNat / 64
  1 + ((List.range 63).takeWhile fun i => o + i + 1 < len && sides.all fun x => same x (i + 1)).length

/-- Bytes from byte o on that are contiguous at a side: one transfer (log 14). -/
def Side.runLen (x : Side) (o len : Nat) : Nat :=
  match x.shape with
  | none => len - o
  | some _ => ((List.range (len - o)).takeWhile fun i => x.byteAt (o + i) == x.byteAt o + BitVec.ofNat 64 i).length

/-- Brings n source bytes, from the command's byte `at_` on, into the channel's run: read from the own tile or the home slice,
or asked of the tile that holds them, which takes a flit and a reply (R200, R213). Answers whether they are there. -/
def State.fetchPiece (s : State) (tile k : Nat) (a : Word) (n at_ : Nat) (kinds : Nat → Bool) : State × Bool :=
  if remoteTo tile a then
    match s.runOf tile k with
    | none => (s, false)
    | some r =>
      let (tag, s) := s.takeRef tile
      match s.chanFlit tile k r.q (s.mkFlit tile 1 (amTile a) tag (.readReq a n)) with
      | (s, false) => (s, false)
      | (s, true) =>
        let s := s.modTile tile fun t => { t with misses := t.misses ++ [{ tag := tag, what := .chan k n, va := a }] }
        (s.modRun tile k fun r => { r with wait := true, got := [], gotAt := at_ }, false)
  else
    match s.unitRead tile a n kinds with
    | (s, .ok v) => (s.modRun tile k fun r => { r with got := natToBytes n v, gotAt := at_ }, true)
    | (s, .error e) => (s.copyErr tile k e 0 at_, false)

/-- Source bytes at hand that begin at a byte of the command, at most n. -/
def ChanRun.bytesAt (r : ChanRun) (at_ n : Nat) : List Byte := if r.gotAt = at_ then r.got.take n else []

/-- Uses up the source bytes before a byte of the command. -/
def ChanRun.used (r : ChanRun) (n : Nat) : ChanRun := { r with got := r.got.drop n, gotAt := r.gotAt + n }

/-- The sender of a transfer goes on: its request, then the flits of its prefix or of the token in hand, each read from the
source and sent once it has a buffer (R199, R215, R225, R359). -/
def State.sendOn (s : State) (tile k : Nat) (src : Side) (kinds : Nat → Bool) : Nat → State
  | 0 => s
  | fuel + 1 =>
    match s.runOf tile k with
    | none => s
    | some r =>
      match r.pull with
      | none => s
      | some p =>
        let setP (s : State) (q : Pull) : State := s.modRun tile k fun r => { r with pull := some q }
        if p.ask then
          match s.chanFlit tile k r.q (s.mkFlit tile 0 p.dst (k * 8) (.req p.req)) with
          | (s, false) => s
          | (s, true) => State.sendOn (setP s { p with ask := false }) tile k src kinds fuel
        else if r.wait then s
        else match p.send with
        | none => s
        | some x =>
          let n := min 64 (x.stop - x.next)
          let at_ := p.base + x.next + r.acc.length
          if x.stop ≤ x.next then setP s { p with send := none }
          else if r.acc.length < n then
            let bs := r.bytesAt at_ (n - r.acc.length)
            if bs.isEmpty then
              match s.fetchPiece tile k (src.byteAt at_) (pieceLen [src] at_ (p.base + x.next + n)) at_ kinds with
              | (s, true) => State.sendOn s tile k src kinds fuel
              | (s, false) => s
            else State.sendOn (s.modRun tile k fun r => { r.used bs.length with acc := r.acc ++ bs }) tile k src kinds fuel
          else
            let d := flitAt r.acc 0
            let f := match x.tok with
              | none => s.mkFlit tile p.req.cls p.dst (p.req.tag * 8 + x.ix) (.pfx p.req.tag x.ix d)
              | some (e, g) => s.mkFlit tile p.req.cls p.dst 0 (.data e g x.ix d)
            match s.chanFlit tile k r.q f with
            | (s, false) => s
            | (s, true) =>
              State.sendOn (s.modRun tile k fun r =>
                { r with acc := [], pull := some { p with send := some { x with next := x.next + n, ix := x.ix + 1 } } })
                tile k src kinds fuel

/-- Turns enough for the flits of a token, each gathered byte by byte. -/
def sendFuel : Nat := 2048

/-- The bytes of a copy.aff from where the command stands: a local destination takes each piece; a contiguous run in another
tile is a transfer (R213, R225, R359; log 14). -/
def State.affRun (s : State) (tile k : Nat) (src dst : Side) (len : Nat) : Nat → State
  | 0 => s
  | fuel + 1 =>
    match s.runOf tile k with
    | none => s
    | some r =>
      let o := r.off
      let d := dst.byteAt o
      if r.wait || r.pull.isSome then s
      else if len ≤ o then s.finishCopy tile k 0
      else if remoteTo tile d then s.startPull tile k r.q d o (dst.runLen o len) .aff 8 0
      else
        let n := pieceLen [src, dst] o len
        let bs := r.bytesAt o n
        if bs.isEmpty then
          match s.fetchPiece tile k (src.byteAt o) n o affSrc with
          | (s, true) => State.affRun s tile k src dst len fuel
          | (s, false) => s
        else
          match s.unitWrite tile d bs affDst (some (cmdSrc tile 1 k r.q.id)) with
          | (s, some e) => s.copyErr tile k e 1 o
          | (s, none) =>
            State.affRun (s.modRun tile k fun r => { r.used bs.length with off := o + bs.length }) tile k src dst len fuel

/-- copy.aff (R213). -/
def execCopyAff (h : CopyHdr) (ops : BitVec 192) (s : State) : Out :=
  let tile := s.cur.tile
  let k := h.chan.toNat
  let ss := h.flags.getLsbD 0
  let ds := h.flags.getLsbD 1
  let len := (ops.extractLsb' 128 32).toNat
  .next (match s.runOf tile k with
    | none => s
    | some r =>
      let size (x : Side) : Nat := match x.shape with
        | none => len
        | some t => t.bytes
      if r.pull.isSome then
        let src : Side := match r.srec with
          | some bits => ⟨(Shape.ofBits bits).base, some (Shape.ofBits bits)⟩
          | none => ⟨ops.extractLsb' 0 64, none⟩
        s.sendOn tile k src affSrc sendFuel
      else match s.affSide tile (ops.extractLsb' 0 64) ss r.srec (if ds then 0 else len) affSrc with
      | (s, .bad st) => s.finishCopy tile k st
      | (s, .err e acc) => s.copyErr tile k e acc r.off
      | (s, .ok (src, sr)) =>
        let s := s.modRun tile k fun r => { r with srec := sr }
        match s.affSide tile (ops.extractLsb' 64 64) ds r.drec (if ss then size src else len) affDst with
        | (s, .bad st) => s.finishCopy tile k st
        | (s, .err e acc) => s.copyErr tile k e acc r.off
        | (s, .ok (dst, dr)) =>
          let s := s.modRun tile k fun r => { r with drec := dr }
          let n := if ss then size src else size dst
          if (match src.shape, dst.shape with
              | some x, some y => x.fmt != y.fmt || x.total != y.total
              | _, _ => false) then s.finishCopy tile k 0x05
          else if (ss || ds) && len != 0 then s.finishCopy tile k 0x02
          else if !(ss || ds) && len == 0 then s.finishCopy tile k 0x11
          else if !sideAligned src.base n || !sideAligned dst.base n then s.finishCopy tile k 0x04
          else if ops.extractLsb' 160 32 != 0 then s.finishCopy tile k 0x02
          else s.affRun tile k src dst n (3 * n + 3))

/-! ## copy.red and copy.pull (R214, R215) -/

/-- Groups bytes into numbers of a size. -/
def numsOf (size : Nat) : Nat → List Byte → List Nat
  | 0, _ => []
  | n + 1, bs => bytesToNat (bs.take size) :: numsOf size n (bs.drop size)

/-- A copy.red into a region of the own tile or of global memory: its addends are gathered first, then added and counted at once
(R214, R374). -/
def State.redRun (s : State) (tile k : Nat) (src : Side) (region : Word) (ty first n : Nat) : Nat → State
  | 0 => s
  | fuel + 1 =>
    match s.runOf tile k with
    | none => s
    | some r =>
      let sz := addendSize ty
      let at_ := r.acc.length
      if r.wait then s
      else if at_ < n * sz then
        let bs := r.bytesAt at_ (n * sz - at_)
        if bs.isEmpty then
          match s.fetchPiece tile k (src.byteAt at_) (pieceLen [src] at_ (n * sz)) at_ rawKind with
          | (s, true) => State.redRun s tile k src region ty first n fuel
          | (s, false) => s
        else
          State.redRun (s.modRun tile k fun r => { r.used bs.length with acc := r.acc ++ bs }) tile k src region ty first n fuel
      else match s.reachAll tile region (16 + 16 * (first + n)) with
        | (s, some e) => s.copyErr tile k e 1 at_
        | (s, none) =>
          match s.addAll tile region ty first (numsOf sz n r.acc) (some (cmdSrc tile 1 k r.q.id)) with
          | (s, .error e) => s.copyErr tile k e 1 at_
          | (s, .ok good) => s.finishCopy tile k (if good then 0 else 0x08)

/-- copy.red (R214). -/
def execCopyRed (h : CopyHdr) (ops : BitVec 192) (s : State) : Out :=
  let tile := s.cur.tile
  let k := h.chan.toNat
  let ty := h.flags.toNat % 4
  let from_ := ops.extractLsb' 0 64
  let region := ops.extractLsb' 64 64
  let first := (ops.extractLsb' 128 32).toNat
  let n := (ops.extractLsb' 160 32).toNat
  let sz := addendSize ty
  let badLen : Bool := n == 0 || 2 ^ 20 < n
  let m := if badLen then 1 else n
  .next (match s.runOf tile k with
    | none => s
    | some r =>
      if r.pull.isSome then s.sendOn tile k ⟨from_, none⟩ rawKind sendFuel
      else match s.sideCheck tile from_ (m * sz) rawKind with
      | some e => s.copyErr tile k e 0 r.off
      | none =>
        if from_.toNat % sz ≠ 0 then s.finishCopy tile k 0x04
        else match s.sideCheck tile region (16 + 16 * (first + m)) rawKind with
        | some e => s.copyErr tile k e 1 r.off
        | none =>
          if region &&& 15 != 0 then s.finishCopy tile k 0x04
          else if badLen then s.finishCopy tile k 0x11
          else if remoteTo tile region then s.startPull tile k r.q region 0 (n * sz) (.red ty first) 8 0
          else s.redRun tile k ⟨from_, none⟩ region ty first n (2 * n * sz + 2))

/-- Another running pull of the tile names a grant cell (R215). -/
def CopyUnit.cellBusy (c : CopyUnit) (k gcell : Nat) : Bool :=
  c.chans.any fun x => x.1 != k && (match x.2.run with
    | some r => (r.q.word.extractLsb' 240 8).toNat == 3 && (r.q.word.extractLsb' 160 8).toNat == gcell
    | none => false)

/-- copy.pull (R215). -/
def execCopyPull (h : CopyHdr) (ops : BitVec 192) (s : State) : Out :=
  let tile := s.cur.tile
  let k := h.chan.toNat
  let from_ := ops.extractLsb' 0 64
  let dest := ops.extractLsb' 64 64
  let len := (ops.extractLsb' 128 32).toNat
  let gcell := (ops.extractLsb' 160 8).toNat
  let pfx := (ops.extractLsb' 168 8).toNat
  let badLen : Bool := len == 0 || 0x100_0000 < len
  -- a length outside its range gives no range to check: the addresses alone are checked before it (log 26)
  let n := if badLen then 1 else len
  .next (match s.runOf tile k with
    | none => s
    | some r =>
      if r.pull.isSome then s.sendOn tile k ⟨from_, none⟩ kind0or14 sendFuel
      else match s.unitCheck tile from_ n kind0or14 with
      | some e => s.copyErr tile k e 0 r.off
      | none =>
        if !remoteTo tile dest then s.finishCopy tile k 0x02
        else match s.sideCheck tile dest n kind0or14 with
        | some e => s.copyErr tile k e 1 r.off
        | none =>
          if badLen then s.finishCopy tile k 0x11
          else if (s.copyUnit tile).cellBusy k gcell then s.finishCopy tile k 0x0E
          else if 8 < pfx then s.finishCopy tile k 0x11
          else if ops.extractLsb' 176 16 != 0 then s.finishCopy tile k 0x02
          else s.startPull tile k r.q dest 0 len .pull pfx gcell)

/-! ## copy.mcast and copy.ev (R217, R219, R220) -/

/-- An own-tile local-memory operand of an alignment; the failing status, or 0 (R208). -/
def State.ownOperand (s : State) (tile : Nat) (a : Word) (n align : Nat) : Byte :=
  if isGlobal a then 0x02
  else match s.unitCheck tile a n kind0or14 with
  | some e => e.status
  | none => if a.toNat % align ≠ 0 then 0x04 else 0

/-- The members of a group, as the group table of the partition gives them (R370). -/
def State.groupBits (s : State) (p c group : Nat) : Nat := s.physNat p c ((s.part p).groupBase + 4096 * group) 64

/-- The tile whose cache-plane router holds a tile's strip's gateway port (R367). -/
def gatewayTile (tile : Nat) : Nat := tileAt (4 * (gxOf tile / 4)) (20 * (gyOf tile / 20))

/-- The flits of a copy.mcast from where the command stands, its head and then its lines, each once it has a buffer (R199,
R372); then the command awaits its record. -/
def State.mcastSend (s : State) (tile k : Nat) (h : CopyHdr) (group offset flits : Nat) : Nat → State
  | 0 => s
  | fuel + 1 =>
    match s.runOf tile k with
    | none => s
    | some r =>
      if flits < r.off then s.modRun tile k fun r => { r with wait := true, acc := [] }
      else
        let m : FlitMsg := if r.off = 0 then .mcastHead k r.q.id group offset flits
          else .mcastLine k (r.off - 1) (flitAt r.acc (64 * (r.off - 1)))
        match s.chanFlit tile k r.q (s.mkFlit tile h.cls.toNat (gatewayTile tile) 0 m) with
        | (s, false) => s
        | (s, true) => State.mcastSend (s.modRun tile k fun r => { r with off := r.off + 1 }) tile k h group offset flits fuel

/-- copy.mcast: the lines go to the strip's gateway; the acknowledgement record ends the command (R217, R372). -/
def execCopyMcast (h : CopyHdr) (ops : BitVec 192) (s : State) : Out :=
  let tile := s.cur.tile
  let k := h.chan.toNat
  let l := s.launch tile
  let from_ := ops.extractLsb' 0 64
  let group := (ops.extractLsb' 64 8).toNat
  let flits := (ops.extractLsb' 72 8).toNat
  let offset := (ops.extractLsb' 80 48).toNat
  let ack := ops.extractLsb' 128 64
  .next (match s.runOf tile k with
    | none => s
    | some r =>
      if r.wait then s
      else if !r.acc.isEmpty then s.mcastSend tile k h group offset flits 6
      else
        let st := s.ownOperand tile from_ (64 * min flits 4) 64
        if st ≠ 0 then s.finishCopy tile k st
        else if s.groupBits l.part l.ctx group = 0 then s.finishCopy tile k 0x10
        else if flits = 0 ∨ 4 < flits then s.finishCopy tile k 0x11
        else if offset % 64 ≠ 0 then s.finishCopy tile k 0x04
        else
          let st := s.ownOperand tile ack 64 64
          if st ≠ 0 then s.finishCopy tile k st
          else match s.unitRead tile from_ (64 * flits) kind0or14 with
          | (s, .error e) => s.copyErr tile k e 0 0
          | (s, .ok v) =>
            (s.modRun tile k fun r => { r with acc := natToBytes (64 * flits) v }).mcastSend tile k h group offset flits 6)

/-- The number of the next event that a tile sends to a destination, and n numbers taken (R220). -/
def State.takeEventNumbers (s : State) (tile dst n : Nat) : State × W32 :=
  let i := (s.part (s.launch tile).part).posOf dst
  let c := (s.copyUnit tile).sent.getD i 0
  (s.modCopy tile fun u => { u with sent := u.sent.set i (c + BitVec.ofNat 32 n) }, c + 1)

/-- copy.ev (R219). -/
def execCopyEv (h : CopyHdr) (ops : BitVec 192) (s : State) : Out :=
  let tile := s.cur.tile
  let k := h.chan.toNat
  let from_ := ops.extractLsb' 0 64
  let dest := ops.extractLsb' 64 64
  let n := (ops.extractLsb' 128 16).toNat
  .next (match s.runOf tile k with
    | none => s
    | some r =>
      if r.pull.isSome then s.sendOn tile k ⟨from_, none⟩ kind0or14 sendFuel
      else
        let st := s.ownOperand tile from_ (8 * min n 4096) 8
        if st ≠ 0 then s.finishCopy tile k st
        else if !isTileMap dest || amOff dest != 0 then s.finishCopy tile k 0x02
        else match s.sideCheck tile dest 1 (· == 10) with
        | some e => s.finishCopy tile k e.status
        | none =>
          if n = 0 ∨ 4096 < n then s.finishCopy tile k 0x11
          else if ops.extractLsb' 144 48 != 0 then s.finishCopy tile k 0x02
          else match s.unitRead tile from_ (8 * n) kind0or14 with
          | (s, .error e) => s.copyErr tile k e 0 0
          | (s, .ok v) =>
            let bs := natToBytes (8 * n) v
            let (s, num) := match r.num with
              | some x => (s, x)
              | none => s.takeEventNumbers tile (amTile dest) n
            let s := s.modRun tile k fun r => { r with num := some num }
            if remoteTo tile dest then s.startPull tile k r.q dest 0 (8 * n) (.ev num) 8 0
            else
              let s := (List.range n).foldl (fun s i =>
                s.atTile tile 0 .eventIntake ⟨tile, 0, 0⟩
                  { w := BitVec.ofNat 64 (bytesToNat ((bs.drop (8 * i)).take 8)), n := tile,
                    m := (num + BitVec.ofNat 32 i).toNat }) s
            s.finishCopy tile k 0)

/-! ## copy.bar and copy.probe (R221) -/

/-- copy.bar: starts the next barrier or joins the one in progress (R221). -/
def execCopyBar (h : CopyHdr) (ops : BitVec 192) (s : State) : Out :=
  let tile := s.cur.tile
  let k := h.chan.toNat
  let epoch : W32 := ops.extractLsb' 0 32
  let timeout := (ops.extractLsb' 32 32).toNat
  .next (match s.runOf tile k with
    | none => s
    | some r =>
      let c := s.copyUnit tile
      let good := match c.bar with
        | none => epoch == c.bepoch + 1
        | some b => epoch == b.epoch
      if !good then s.finishCopy tile k 0x0F
      else if ops.extractLsb' 64 128 != 0 then s.finishCopy tile k 0x02
      else
        let s := if c.bar.isSome then s else s.barrierStart tile
        let s := s.modCopy tile fun u => { u with
          bar := u.bar.map fun b => { b with chans := if b.chans.contains k then b.chans else b.chans ++ [k] } }
        let s := if timeout = 0 then s
          else s.atTile tile timeout .copyBarTimeout ⟨tile, 0, 0⟩ { n := k, m := r.q.id } true
        s.barrierRun tile 17)

/-- COPY_BAR_TIMEOUT: the command ends with TIMEOUT and the rounds go on (R221). Operands: channel, identifier. -/
def execCopyBarTimeout (s : State) : Out :=
  let tile := s.cur.tile
  let k := s.arg.n
  let waits := match (s.copyUnit tile).bar, s.runOf tile k with
    | some b, some r => b.chans.contains k && r.q.id == s.arg.m
    | _, _ => false
  .next (if waits then
      (s.modCopy tile fun u => { u with bar := u.bar.map fun b => { b with chans := b.chans.filter (· != k) } }).finishCopy tile k 0x0C
    else s)

/-- copy.probe: clears the work bit and sends the token round (R221). -/
def execCopyProbe (h : CopyHdr) (ops : BitVec 192) (s : State) : Out :=
  let tile := s.cur.tile
  let k := h.chan.toNat
  let round : W32 := ops.extractLsb' 0 32
  let l := s.launch tile
  .next (match s.runOf tile k with
    | none => s
    | some _ =>
      if ops.extractLsb' 32 160 != 0 then s.finishCopy tile k 0x02
      else if (s.copyUnit tile).probes.any fun x => x.1 == k then s
      else
        let s := s.modCopy tile fun u => { u with work := false, probes := u.probes ++ [(k, round)] }
        s.unitPost tile (l.tileAt ((l.order tile + 1) % l.size)) probeCell (probeValue round false (tile % 0x2000)))

/-! ## copy.hatom (R223) -/

/-- The new value of a host word (R223): FetchAdd, Swap, CAS. -/
def hatomNew (op size old x cmp : Nat) : Nat :=
  match op with
  | 0 => (old + x) % 2 ^ (8 * size)
  | 1 => x
  | _ => if old = cmp then x else old

/-- The host performs the AtomicOp of a request, on the operands that it carried; answers the old value (R223). -/
def State.hostAtomic (s : State) (w : V256) (pa x cmp : Nat) : State × Nat :=
  let size := if (cmdFlags w).getLsbD 2 then 8 else 4
  let old := s.hostRead pa size
  (s.hostWrite pa size (hatomNew ((cmdFlags w).toNat % 4) size old x cmp), old)

/-- Sends the request of a channel's copy.hatom to the host, whose answer, or silence, is free (R223, log 18). -/
def State.askHost (s : State) (tile k pa x cmp : Nat) : State :=
  let (f, s) := s.takeFresh
  let (g, s) := s.takeFresh
  let s := s.modRun tile k fun r => { r with wait := true, host := some (g, pa, x, cmp) }
  -- a completion timeout that system software has not set yet never ends a wait (log 28)
  let s := if s.hostTimeout = 0 then s
    else s.atRef s.hostTimeout .hostCompletionTimeout ⟨tile, 0, 0⟩ { n := k, w := BitVec.ofNat 64 g }
  s.atRef (1 + Config.freeLatency f) .hostAtomicCompletion ⟨tile, 0, 0⟩ { n := k, m := Config.freeNat g % 3, w := BitVec.ofNat 64 g }

/-- copy.hatom (R223). -/
def execCopyHatom (h : CopyHdr) (ops : BitVec 192) (s : State) : Out :=
  let tile := s.cur.tile
  let k := h.chan.toNat
  let size := if h.flags.getLsbD 2 then 8 else 4
  let dest := ops.extractLsb' 0 64
  let opnd := ops.extractLsb' 64 64
  let res := ops.extractLsb' 128 64
  .next (match s.runOf tile k with
    | none => s
    | some r =>
      if r.wait then s
      else if !isGlobal dest then s.finishCopy tile k 0x02
      else if dest.toNat % size ≠ 0 then s.finishCopy tile k 0x04
      else match s.translate tile dest true true with
      | (s, .fault _) => s.copyErr tile k (.page dest) 1 0
      | (s, .host pa) =>
        let st := s.ownOperand tile opnd 16 8
        if st ≠ 0 then s.finishCopy tile k st
        else
          let st := s.ownOperand tile res 8 8
          if st ≠ 0 then s.finishCopy tile k st
          else if h.flags.getLsbD 3 || h.flags.toNat % 4 == 3 then s.finishCopy tile k 0x0A
          else match s.unitRead tile opnd 16 kind0or14 with
          | (s, .error e) => s.copyErr tile k e 0 0
          | (s, .ok v) => s.askHost tile k pa (v % 2 ^ (8 * size)) (v / 2 ^ 64 % 2 ^ (8 * size))
      | (s, _) => s.finishCopy tile k 0x02)

/-- The command of a channel whose request to the host has a number, and the request. -/
def State.hatomRun (s : State) (tile k : Nat) (num : Word) : Option (ChanRun × Nat × Nat × Nat) :=
  match s.runOf tile k with
  | some r => match r.host with
    | some (g, x) => if BitVec.ofNat 64 g = num then some (r, x) else none
    | none => none
  | none => none

/-- The command ends HOSTFAIL; the host may or may not have performed the operation (R223). -/
def State.hostLost (s : State) (tile k : Nat) (r : ChanRun) (pa x cmp : Nat) : State :=
  let (f, s) := s.takeFresh
  ((if Config.freeBool f then (s.hostAtomic r.q.word pa x cmp).1 else s).modRun tile k fun r => { r with host := none }).finishCopy
    tile k 0x14

/-- HOST_ATOMIC_COMPLETION (R223). Operands: channel; 0 successful, 1 Unsupported Request or Completer Abort, 2 poisoned; the
request's number. -/
def execHostAtomicCompletion (s : State) : Out :=
  let tile := s.cur.tile
  let k := s.arg.n
  .next (match s.hatomRun tile k s.arg.w with
    | none => s
    | some (r, pa, x, cmp) =>
      match s.arg.m with
      | 0 =>
        let (s, old) := s.hostAtomic r.q.word pa x cmp
        let s := s.modRun tile k fun r => { r with host := none }
        match s.unitWrite tile (r.q.word.extractLsb' 128 64) (natToBytes 8 old) kind0or14 (some (cmdSrc tile 1 k r.q.id)) with
        | (s, some e) => s.finishCopy tile k e.status
        | (s, none) => s.finishCopy tile k 0
      | 1 => (s.modRun tile k fun r => { r with host := none }).finishCopy tile k 0x0A
      | _ => s.hostLost tile k r pa x cmp)

/-- HOST_COMPLETION_TIMEOUT: no completion came in time (R223). Operands: channel, the request's number. -/
def execHostCompletionTimeout (s : State) : Out :=
  .next (match s.hatomRun s.cur.tile s.arg.n s.arg.w with
    | none => s
    | some (r, pa, x, cmp) => s.hostLost s.cur.tile s.arg.n r pa x cmp)

/-! ## copy.wb and copy.inv (R224) -/

/-- The lines of a byte range that the own tile's line caches hold: core and line index. -/
def Tile.linesIn (t : Tile) (a : Word) (len : Nat) : List (Fin 8 × Line) :=
  (List.finRange 8).flatMap fun c =>
    ((t.cores[c].lines.flatMap (·.2)).filter fun x => a.toNat / 64 ≤ x.tag && x.tag ≤ (a.toNat + len - 1) / 64).map fun x => (c, x)

/-- copy.wb and copy.inv: every line of the range that the line caches hold is written back, and dropped; then no fill under way
brings a dropped line in again (R176, R224, R286). The lines present are acted on without a translation of the range's addresses:
R224 names the lines of the range in the caches, which were translated when they were filled, and gives the commands no refused
page (DEDUCED, log 101). -/
def State.lineCmd (s : State) (h : CopyHdr) (ops : BitVec 192) (drop : Bool) : State :=
  let tile := s.cur.tile
  let k := h.chan.toNat
  let a := ops.extractLsb' 0 64
  let len := (ops.extractLsb' 128 32).toNat
  match s.runOf tile k with
  | none => s
  | some r =>
    if !isGlobal a || ops.extractLsb' 64 64 != 0 then s.finishCopy tile k 0x02
    else if len = 0 then s.finishCopy tile k 0x11
    else if ops.extractLsb' 160 32 != 0 then s.finishCopy tile k 0x02
    else
      let s := ((s.tile tile).linesIn a len).foldl (fun s (c, x) =>
        let s := s.lineClean tile c x false (some (cmdSrc tile 1 k r.q.id))
        if drop then s.modCore tile c fun co => co.lineDrop x.tag else s) s
      let s := if drop then s.modTile tile fun t => t.forgetRange (a.toNat / 64) ((a.toNat + len - 1) / 64) else s
      s.finishCopy tile k 0

def execCopyWb (h : CopyHdr) (ops : BitVec 192) (s : State) : Out := .next (s.lineCmd h ops false)
def execCopyInv (h : CopyHdr) (ops : BitVec 192) (s : State) : Out := .next (s.lineCmd h ops true)

/-! ## Streams (R194, R222, R275) -/

/-- The window kinds of a stream's elements (R58, R60). -/
def streamKinds (fmt : Nat) (k : Nat) : Bool := rawKind k || (fmt == 5 && k == 5) || (fmt == 6 && k == 6)

/-- One element as it stands in a datum, with its flags, or the failing status (R51, R58, R222). -/
def State.streamElem (s : State) (tile : Nat) (tabs : KMap (BitVec 19) × KMap (BitVec 19)) (x : Shape) (i : Nat) :
    State × Except UErr (Option (Nat × BitVec 5)) :=
  match s.shapeElem tile x i (streamKinds x.fmt) with
  | (s, .error e) => (s, .error e)
  | (s, .ok v) =>
    match x.fmt with
    | 1 => (s, .ok (some ((container (tabEntry tabs.1 v)).toNat, 0)))
    | 2 => (s, .ok (some ((container (tabEntry tabs.2 v)).toNat, 0)))
    | 3 => (s, .ok (some (toF32 f16F v)))
    | 4 => (s, .ok (some (toF32 b16F v)))
    | 5 | 6 =>
      match s.rowScales tile x (i / x.ext[0]) rawKind with
      | (s, .error e) => (s, .error e)
      | (s, .ok es) =>
        -- no element of a row with a scale out of range is delivered (R51)
        if es.all scaleOk then (s, .ok (some (convF f32F .rne (scaledVal x.fmt v (es.getD (i % x.ext[0] / 32) 0)))))
        else (s, .ok none)
    | _ => (s, .ok (some (v, 0)))

/-- The next datum of an input stream: its value and flags; none when a scale is out of range; or the refused access. -/
def State.streamDatum (s : State) (tile : Nat) (b : StrmBind) : State × Except UErr (Option (V256 × BitVec 5)) :=
  let x := Shape.ofBits b.shape
  let per := datumElems x.fmt
  let w := 256 / per
  (List.range (min per (b.total - b.next))).foldl (fun (s, acc) i =>
    match acc with
    | .ok (some (v, f)) =>
      match s.streamElem tile (b.tabs.getD ([], [])) x (b.next + i) with
      | (s, .ok (some (y, g))) => (s, .ok (some (v ||| BitVec.ofNat 256 (y * 2 ^ (w * i)), f ||| g)))
      | (s, .ok none) => (s, .ok none)
      | (s, .error e) => (s, .error e)
    | r => (s, r)) (s, .ok (some (0, 0)))

/-- Writes one element; a nibble keeps the other nibble of its byte (R211). -/
def State.putElem (s : State) (tile : Nat) (x : Shape) (i v : Nat) (kinds : Nat → Bool) (by_ : Option StoreSrc := none) :
    State × Option UErr :=
  let a := x.addr i
  if nibbleFmt x.fmt then
    match s.unitRead tile a 1 kinds with
    | (s, .error e) => (s, some e)
    | (s, .ok old) =>
      let y := if x.half i then old % 16 + 16 * (v % 16) else old / 16 * 16 + v % 16
      s.unitWrite tile a [BitVec.ofNat 8 y] kinds by_
  else s.unitWrite tile a (natToBytes (elemBytes x.fmt) v) kinds by_

/-- Stores the oldest datum of an output stream; data beyond the shape are dropped (log 19). -/
def State.storeDatum (s : State) (tile : Nat) (b : StrmBind) (v : V256) : State × Option UErr :=
  let x := Shape.ofBits b.shape
  let w := fmtBits x.fmt
  (List.range (min (datumElems x.fmt) (b.total - b.next))).foldl (fun (s, e) i =>
    match e with
    | some e => (s, some e)
    | none =>
      match s.putElem tile x (b.next + i) (v.toNat / 2 ^ (w * i) % 2 ^ w) rawKind
          (some (cmdSrc tile 1 b.chan.val b.xid.toNat)) with
      | (s, some e) => (s, some e)
      | (s, none) => (s, none)) (s, none)

/-- A stream meets a refused access: a translation fault is held pending on its channel; anything else ends it with its
status (R225, R206). Answers the status. -/
def State.streamErr (s : State) (tile : Nat) (b : StrmBind) (e : UErr) (acc : Nat) : State × Byte :=
  match e with
  | .page va =>
    let (s, f) := s.pendFault tile b.chan.val acc va b.xid.toNat (b.next * fmtBits (Shape.ofBits b.shape).fmt / 8)
    (s.modChan tile b.chan.val fun c => { c with fpend := some f }, 0)
  | e => (s, e.status)

/-- The elements one datum moves on. -/
def StrmBind.advance (b : StrmBind) : Nat := min (datumElems (Shape.ofBits b.shape).fmt) (b.total - b.next)

/-- A binding that will deliver or take no more. -/
def StrmBind.stop (b : StrmBind) (st : Byte) : StrmBind := { b with status := st, total := b.next }

/-- The tile cycles until what a fill reads at an address has arrived: those of a load of the same place, which the spec fixes
for local memory, for a line in the tile's line cache and for one in the tile's own slice (R162, R272, R275). -/
def State.fetchLat (s : State) (r : ThreadRef) (a : Word) : Option Nat :=
  if !isGlobal a then some (s.portTime r (amCore a) 0)
  else
    let home := homeCore (lineIx a)
    let near := s.portTime r home lineMore
    if ((s.core r.tile home).lineGet? (lineIx a)).isSome then some near
    else if s.ownSliceHas r.tile a then some (near + 48) else none

/-- The cycles until the last element of a datum has arrived; free where some element's are. -/
def State.datumLat (s : State) (r : ThreadRef) (b : StrmBind) : State × Nat :=
  let x := Shape.ofBits b.shape
  let lats := (List.range b.advance).map fun i => s.fetchLat r (x.addr (b.next + i))
  if lats.all Option.isSome then (s, lats.foldl (fun m o => max m (o.getD 0)) 1)
  else
    let (k, s) := s.takeFresh
    (s, 1 + Config.freeLatency k)

/-- An input binding after its datum on the way has arrived (R275). -/
def StrmBind.arrived (b : StrmBind) : StrmBind :=
  match b.coming with
  | some x => { b with buf := b.buf ++ [x], next := b.next + b.advance, coming := none }
  | none => b

/-- STREAM_FILL: the copy unit delivers the datum that has arrived and fetches the next of an input stream, with the core's
tables as they stood at its first fetch, or stores the oldest of an output stream (R46, R194, R222, R275). Operands: the
register, the binding's identifier. -/
def execStreamFill (s : State) : Out :=
  let r := s.cur
  let d := s.arg.n
  let again (s : State) (n : Nat) : State := s.atTile r.tile n .streamFill r s.arg
  let setB (s : State) (b : StrmBind) : State := s.modThread r fun t => { t with binds := t.binds.set d b }
  .next (match (s.thread r).binds.get? d with
    | none => s
    | some b0 =>
      let ch := (s.copyUnit r.tile).chan b0.chan.val
      let b := b0.arrived
      let s := setB s b
      if zx b.xid ≠ s.arg.w ∨ b.status ≠ 0 then s
      else if ch.fpend.isSome ∨ b.xid ≠ ch.ct + 1 then again s 1
      else if b.out then
        match b.buf with
        | [] => again s 1
        | (v, _) :: rest =>
          match s.storeDatum r.tile b v with
          | (s, none) => again (setB s { b with buf := rest, next := b.next + b.advance }) 1
          | (s, some e) =>
            let (s, st) := s.streamErr r.tile b e 1
            if st = 0 then again s 1 else setB s (b.stop st)
      else if b.total ≤ b.next then s
      else if 4 ≤ b.buf.length then again s 1
      else
        let c := s.core r.tile b.core
        let b := { b with tabs := b.tabs.or (some (c.t8, c.t4)) }
        let (s, lat) := s.datumLat r b
        match s.streamDatum r.tile b with
        | (s, .ok (some x)) => again (setB s { b with coming := some x }) lat
        | (s, .ok none) => setB s (b.stop 0x07)
        | (s, .error e) =>
          let (s, st) := s.streamErr r.tile b e 0
          if st = 0 then again (setB s b) 1 else setB s (b.stop st))

/-! ## Completion (R197, R206) -/

/-- A channel's command or binding completes: ct takes its identifier, a failure enters the record; an uncorrectable error
fences the context (R197, R206, R207). -/
def State.copyDone (s : State) (tile k : Nat) (st : Byte) (id : Nat) : State :=
  let s := s.modChan tile k fun c =>
    { c with ct := BitVec.ofNat 32 id, fail := c.fail.note st id, run := none, fpend := none }
  let s := s.modTile tile fun t => { t with watchdog := 0 }
  let l := s.launch tile
  if st = 0x09 then s.fence l.part l.ctx 0x01 (64 + k) tile (s.tile tile).ueAt id else s

/-- An ended binding's remaining data are stored; answers the binding and whether it is through (R194, R195). -/
def State.drainAll (s : State) (tile : Nat) (b : StrmBind) : Nat → State × StrmBind × Bool
  | 0 => (s, b, true)
  | fuel + 1 =>
    match b.buf with
    | [] => (s, b, true)
    | (v, _) :: rest =>
      if b.status ≠ 0 then (s, b, true)
      else match s.storeDatum tile b v with
      | (s, none) => State.drainAll s tile { b with buf := rest, next := b.next + b.advance } fuel
      | (s, some e) =>
        let (s, st) := s.streamErr tile b e 1
        if st = 0 then (s, b, false) else (s, b.stop st, true)

/-- The threads' bindings of a tile on a channel. -/
def State.bindOf (s : State) (tile k : Nat) : Option (ThreadRef × Nat × StrmBind) :=
  ((tileThreads tile).flatMap fun r => ((s.thread r).binds.filter fun b => b.2.chan.val == k).map fun b => (r, b.1, b.2)).head?

/-- An ended binding completes once it is its channel's turn and its data are in memory (R194). -/
def State.drainDone (s : State) (tile k : Nat) (st : Byte) (b : StrmBind) : State :=
  let ch := (s.copyUnit tile).chan k
  let others (s : State) (b' : Option StrmBind) : State := s.modTile tile fun t => { t with
    drains := (t.drains.filter fun x => !(x.chan == b.chan && x.xid == b.xid)) ++ b'.toList }
  let again (s : State) : State := s.atTile tile 1 .copyCompletion ⟨tile, 0, 0⟩ { n := k, w := zx b.xid, ok := false }
  if st ≠ 0 then (others s none).copyDone tile k st b.xid.toNat
  else if ch.fpend.isSome ∨ b.xid ≠ ch.ct + 1 then again s
  else
    let (s, b', through) := s.drainAll tile b (b.buf.length + 1)
    if through then (others s none).copyDone tile k b'.status b.xid.toNat else again (others s (some b'))

/-- COPY_COMPLETION: a command of a channel, or an ended binding, completes (R197, R206). Operands: channel, status; for a
binding its identifier. -/
def execCopyCompletion (s : State) : Out :=
  let tile := s.cur.tile
  let k := s.arg.n
  let st : Byte := BitVec.ofNat 8 s.arg.m
  let ended (x : W32) : Option StrmBind := (s.tile tile).drains.find? fun b => b.chan.val == k && b.xid == x
  .next (
    if !s.arg.ok then
      match ended (s.arg.w.setWidth 32) with
      | some b => s.drainDone tile k st b
      | none => s
    else match s.runOf tile k with
    | some r => s.copyDone tile k st r.q.id
    | none =>
      match ended (((s.copyUnit tile).chan k).ct + 1) with
      | some b => s.drainDone tile k st b
      | none =>
        match s.bindOf tile k with
        | some (r, d, b) =>
          (s.modThread r fun t => { t with binds := t.binds.set d (b.stop st) }).modChan tile k fun c => { c with fpend := none }
        | none => s)

end Sys2Proof.Machine
end

