-- ==== Sys2Proof/Machine/Matrix.lean ====
section
/-!
DEFINITION. The matrix engine: sides, the K-group rule, services and their arbitration, commands and completion (spec/08 R226 to
R241), and ENGFAULT (R241).
-/
namespace Sys2Proof.Machine

def Tile.modMx (t : Tile) (f : Matrix → Matrix) : Tile := { t with mx := f t.mx }
def State.modMx (s : State) (tile : Nat) (f : Matrix → Matrix) : State := s.modTile tile fun t => t.modMx f

/-! ## ENGFAULT (R18, R20, R241) -/

/-- A handler entered for ENGFAULT runs (R242). -/
def Thread.inEngFault (t : Thread) : Bool := t.ih && t.engf

/-- The thread that pushed a command takes ENGFAULT, if its slot still runs the unit that pushed it (R241): an
asynchronous trap, held while a handler runs or another entry waits (R20). -/
def State.engFault (s : State) (tile : Nat) (q : QCmd) (va : Word) : State :=
  let r : ThreadRef := ⟨tile, q.core, q.thr⟩
  let t := s.thread r
  let p : PendTrap := ⟨.engfault, va, q.addr, t.pc, false⟩
  if t.picked ≠ q.run ∨ t.st = .empty ∨ t.st = .stopped ∨ t.susp = some .cancelEnd then s
  else match t.trap with
  | some x => if x.cause = .engfault then s else s.modThread r fun t => { t with heldAsync := t.heldAsync ++ [p] }
  | none =>
    if t.ih then s.modThread r fun t => { t with heldAsync := t.heldAsync ++ [p] }
    else
      let s := if t.susp = some .displace then s.modCore tile r.core fun c => { c with displacing := none } else s
      (s.modThread r fun t => { t with susp := none }).raise r p

/-! ## Completion of jobs (R204, R226, R228) -/

/-- The greatest completed identifier moves on over jobs that completed early (R204). -/
def advanceDone (done : BitVec 16) (late : List Nat) : Nat → BitVec 16 × List Nat
  | 0 => (done, late)
  | fuel + 1 =>
    let next := (done + 1).toNat
    if late.contains next then advanceDone (done + 1) (late.filter (· != next)) fuel else (done, late)

/-- A matrix job has ended with a status and its rows are written: its identifier counts, a failure enters the core's
record (R204, R227, R228). -/
def State.mxDone (s : State) (tile : Nat) (c : Fin 8) (job : Nat) (st : Byte) : State :=
  let s := s.modCore tile c fun co =>
    let (d, late) := advanceDone co.mxDone (co.mxLate ++ [job]) (co.mxLate.length + 1)
    { co with mxDone := d, mxLate := late, mxFail := co.mxFail.note st job }
  let s := s.modTile tile fun t => { t with watchdog := 0 }
  let l := s.launch tile
  if st = 0x09 then s.fence l.part l.ctx 0x01 (128 + c.val) tile (s.tile tile).ueAt job else s

/-- The head command of a core leaves its queue; the job completes after its rows, or after some cycles of the engine. -/
def State.mxEnd (s : State) (tile : Nat) (c : Fin 8) (st : Byte) (after : Nat := 0) : State :=
  match (s.core tile c).mxq with
  | [] => s
  | q :: rest =>
    let s := s.modCore tile c fun co => { co with mxq := rest }
    let s := s.modMx tile fun m => { m with
      done := m.done.set c 0, recs := m.recs.set c none, tabs := m.tabs.set c none, fpend := m.fpend.set c none
      load := m.load.filter fun l => !(l.core == c && l.job == q.id) }
    if (s.tile tile).mx.rows.any fun r => r.core == c && r.job == q.id then
      s.modMx tile fun m => { m with open_ := m.open_ ++ [(c, q.id, st)] }
    else s.atTile tile after .matrixJobCompletion ⟨tile, c, q.thr⟩ { n := q.id, m := st.toNat }

/-- MATRIX_JOB_COMPLETION (R204, R226). Operands: job, status; whether it has left its queue. -/
def execMatrixJobCompletion (s : State) : Out :=
  let tile := s.cur.tile
  let c := s.cur.core
  let st : Byte := BitVec.ofNat 8 s.arg.m
  .next (if s.arg.ok then s.mxDone tile c s.arg.n st
    else match (s.core tile c).mxq with
    | q :: _ => if q.id = s.arg.n then s.mxEnd tile c st else s
    | [] => s)

/-- A command stops at row r of its operand: a translation fault holds it at the head of its queue, reports it and raises
ENGFAULT; anything else ends it (R241). -/
def State.mxErr (s : State) (tile : Nat) (c : Fin 8) (e : UErr) (acc : Nat) (row : Nat) : State :=
  match e, (s.core tile c).mxq with
  | .page va, q :: _ =>
    let (s, f) := s.pendFault tile (64 + c.val) acc va q.id row
    (s.modMx tile fun m => { m with fpend := m.fpend.set c (some f) }).engFault tile q va
  | e, _ => s.mxEnd tile c e.status

/-! ## Sides (R229) -/

/-- A side in memory: format, nibble address of element 0 of row 0, strides in elements, extents, scales. -/
structure MxSide where
  fmt : Nat
  nib0 : Int
  str0 : Int := 1
  str1 : Int
  ext0 : Nat := 32
  ext1 : Nat := 0
  sbase : Word := 0
  deriving DecidableEq, Repr

/-- The window kinds of a side (R229). -/
def mxKinds (fmt k : Nat) : Bool := kind0or14 k || (fmt == 5 && k == 5) || (fmt == 6 && k == 6)

/-- Nibble address, byte address and half of element i of row r. -/
def MxSide.nib (x : MxSide) (r i : Nat) : Int := x.nib0 + ((i : Int) * x.str0 + (r : Int) * x.str1) * (fmtBits x.fmt / 4 : Nat)
def MxSide.addr (x : MxSide) (r i : Nat) : Word := BitVec.ofInt 64 (x.nib r i / 2)
def MxSide.half (x : MxSide) (r i : Nat) : Bool := x.nib r i % 2 == 1

/-- An address misaligned to a 2- or 4-byte element (R229). -/
def misaligned (fmt : Nat) (a : Word) : Bool := (fmtBits fmt == 16 || fmtBits fmt == 32) && a.toNat % (fmtBits fmt / 8) != 0

/-- The side that a command's address names, with the checks of the address (R227, R229); the checks of a format and a stride
field follow in their operand's place. A record is read once. -/
def State.mxSide (s : State) (tile : Nat) (c : Fin 8) (a : Word) (ts : Bool) (fmt stride : Nat) : State × Chk MxSide :=
  if ts then
    if a &&& 63 != 0 then (s, .bad 0x06)
    else match s.unitCheck tile a 64 kind0or14 with
    | some e => (s, .err e 2)
    | none =>
      let (s, got) : State × Except UErr (BitVec 512) := match (s.tile tile).mx.recs[c] with
        | some x => (s, .ok x)
        | none => s.readShape tile a
      match got with
      | .error e => (s, .err e 2)
      | .ok bits =>
        let s := s.modMx tile fun m => { m with recs := m.recs.set c (some bits) }
        let x := Shape.ofBits bits
        if !x.ok || x.ext[2] != 1 || x.ext[3] != 1 then (s, .bad 0x05)
        else match s.unitCheck tile x.base 0 (mxKinds x.fmt) with
        | some e => (s, .err e 0)
        | none =>
          match (if scaledFmt x.fmt then s.unitCheck tile x.sbase 0 kind0or14 else none) with
          | some e => (s, .err e 0)
          | none =>
            if misaligned x.fmt x.base then (s, .bad 0x04)
            else (s, .ok { fmt := x.fmt, nib0 := 2 * (x.base.toNat : Int), str0 := x.str[0], str1 := x.str[1],
                           ext0 := x.ext[0], ext1 := x.ext[1], sbase := x.sbase })
  else if isTileMap a && amTile a != tile then (s, .bad 0x02)
  else if fmt = 0 then
    let k := amKind a
    let j := amOff a / 4
    let bits := fmtBits k
    if !isTileMap a || !amFormOk a || k = 0 || 4 < k then (s, .bad 0x05)
    else if amOff a % 4 ≠ 0 then (s, .bad 0x04)
    else if windowSize (s.launch tile) k < amOff a + 4 then (s, .bad 0x02)
    else (s, .ok { fmt := k, nib0 := 2 * ((amAddr tile (amCore a) 0 0).toNat : Int) + (j * bits / 4 : Nat), str1 := stride })
  else match s.unitCheck tile a 0 kind0or14 with
  | some e => (s, .err e 0)
  | none =>
    if misaligned fmt a then (s, .bad 0x04)
    else (s, .ok { fmt := fmt, nib0 := 2 * (a.toNat : Int), str1 := stride })

/-- An explicit format field that no side has without a record (R229). -/
def fieldFmtOk (fmt : Nat) : Bool := fmt ≤ 8 && !scaledFmt fmt
/-- A t4 side with an odd stride field (R229). -/
def oddStride (ts : Bool) (fmt stride : Nat) : Bool := !ts && fmt == 2 && stride % 2 == 1

/-- A fetched element as an X19 pattern, with the flags of its conversion (R229). -/
def toX19 (tabs : KMap (BitVec 19) × KMap (BitVec 19)) (fmt v : Nat) (e : Int) : BitVec 19 × BitVec 5 :=
  let conv (x : FVal) : BitVec 19 × BitVec 5 := let y := convF x19F .rne x; (BitVec.ofNat 19 y.1, y.2)
  match fmt with
  | 1 => (tabEntry tabs.1 v, 0)
  | 2 => (tabEntry tabs.2 v, 0)
  | 3 => conv (unpackF f16F v)
  | 4 => conv (unpackF b16F v)
  | 7 => conv (unpackF f32F v)
  | _ => conv (scaledVal fmt v e)

/-- What a row fetch gives: its 32 weights or activations with their flags, nothing when a scale is out of range (R51), or
the refused access. -/
abbrev RowRead := Except UErr (Option (List (BitVec 19) × BitVec 5))

/-- Row r of a side; elements from ext0 on are +0 (R229, R234, R236). -/
def State.mxRow (s : State) (tile : Nat) (x : MxSide) (tabs : KMap (BitVec 19) × KMap (BitVec 19)) (r : Nat) : State × RowRead :=
  let nb := (x.ext0 + 31) / 32
  let sz := (3 * nb + 1) / 2
  let sa := x.sbase + BitVec.ofNat 64 (r * sz)
  let (s, es) : State × Except UErr (List Int) :=
    if scaledFmt x.fmt && x.ext0 != 0 then
      match s.unitRead tile sa sz kind0or14 with
      | (s, .ok v) => (s, .ok (scales nb 0 (nibblesOf (natToBytes sz v))))
      | (s, .error e) => (s, .error e)
    else (s, .ok [])
  match es with
  | .error e => (s, .error e)
  | .ok es =>
    if !es.all scaleOk then (s, .ok none)
    else
      let (s, row) := (List.range (min 32 x.ext0)).foldl (fun (s, (acc : RowRead)) i =>
        match acc with
        | .ok (some (xs, f)) =>
          match s.unitRead tile (x.addr r i) (elemBytes x.fmt) (mxKinds x.fmt) with
          | (s, .ok v) =>
            let v := if nibbleFmt x.fmt then (if x.half r i then v / 16 else v % 16) else v
            let y := toX19 tabs x.fmt v (es.getD (i / 32) 0)
            (s, .ok (some (xs ++ [y.1], f ||| y.2)))
          | (s, .error e) => (s, .error e)
        | acc => (s, acc)) (s, .ok (some ([], 0)))
      match row with
      | .ok (some (xs, f)) => (s, .ok (some (xs ++ List.replicate (32 - xs.length) 0, f)))
      | row => (s, row)

/-! ## The K-group rule (R233) -/

/-- The exact result of a K group, its NV and NX, and whether an operand was a signalling NaN. -/
structure KRes where
  val : FVal
  nv : Bool := false
  nx : Bool := false
  sig : Bool := false
  deriving DecidableEq, Repr

/-- floor(log2 |p|) of a finite nonzero value. -/
def floorLog2 (m : Nat) (e : Int) : Int := e + m.log2

/-- KGroup(a, w) of R233 for one column. -/
def kgroup (a w : List FVal) : KRes :=
  let pairs := a.zip w
  let sig := (a ++ w).any FVal.isSig
  let ps := pairs.map fun (x, y) => mulV x y
  if (a ++ w).any FVal.isNan then { val := .nan false, nv := sig, sig := sig }
  else if ps.any (·.isNone) || (ps.contains (some (.inf true)) && ps.contains (some (.inf false))) then
    { val := .nan false, nv := true }
  else if ps.contains (some (.inf true)) then { val := .inf true }
  else if ps.contains (some (.inf false)) then { val := .inf false }
  else
    let fs : List (Bool × Nat × Int) := ps.filterMap fun p => match p with
      | some (.fin n m e) => if m = 0 then none else some (n, m, e)
      | _ => none
    match fs with
    | [] => { val := .fin false 0 0 }
    | f :: rest =>
      let top := rest.foldl (fun t x => max t (floorLog2 x.2.1 x.2.2)) (floorLog2 f.2.1 f.2.2)
      let g := top - 40
      let q (x : Bool × Nat × Int) : Int × Bool :=
        let k := x.2.2 - g
        let mag := if 0 ≤ k then x.2.1 * 2 ^ k.toNat else x.2.1 / 2 ^ (-k).toNat
        let lost := if 0 ≤ k then false else x.2.1 % 2 ^ (-k).toNat != 0
        (if x.1 then -(mag : Int) else mag, lost)
      let qs := fs.map q
      let sum := qs.foldl (fun (t : Int) x => t + x.1) 0
      { val := .fin (sum < 0) sum.natAbs g, nx := qs.any (·.2) }

/-- The weights of column j of a plane. -/
def column (p : KMap (BitVec 19)) (j : Nat) : List FVal := (List.range 32).map fun k => entryVal (p.getD (32 * k + j) 0)

/-! ## Rows (R231, R233) -/

def State.mxFlags (s : State) (tile : Nat) (c : Fin 8) (f : BitVec 5) : State :=
  s.modCore tile c fun co => { co with mxflags := co.mxflags ||| f }

/-- ORs into the flag byte of a quad (R230). -/
def Matrix.quadFlags (m : Matrix) (q : Nat) (b : Byte) : Matrix :=
  { m with acc := m.acc.writeByte (0x8000 + q) (m.acc.readByte (0x8000 + q) ||| b) }

def b2f (b : Bool) (f : BitVec 5) : BitVec 5 := if b then f else 0

/-- A row is written: every column's K group, replacing FP32 accumulators or added into W128 accumulators (R233, R236). -/
def State.writeRow (s : State) (tile : Nat) (r : MxRow) : State :=
  let m := (s.tile tile).mx
  let plane := if r.plane then m.plane1 else m.plane0
  let a := r.a.map entryVal
  (List.range 32).foldl (fun s j =>
    let k := kgroup a (column plane j)
    if r.wm then
      let o := 512 * r.dst + 16 * j
      let i := (BitVec.ofNat 128 ((s.tile tile).mx.acc.readNat o 16)).toInt
      let (v, f) := w128Add i k.val r.ex
      let f := f.or ⟨false, k.nv, k.nx⟩
      (s.modMx tile fun m => ({ m with acc := m.acc.writeNat o 16 (BitVec.ofInt 128 v).toNat }).quadFlags r.dst (BitVec.ofNat 8 f.bits)).mxFlags
        tile r.core (b2f k.sig flagNV)
    else
      let (x, f) := convF f32F .rne k.val
      (s.modMx tile fun m => { m with acc := m.acc.writeNat (128 * r.dst + 4 * j) 4 x }).mxFlags tile r.core
        (f ||| b2f k.nv flagNV ||| b2f k.nx flagNX)) s

/-- MATRIX_ROW_WRITE: the oldest row whose time has come is written (R231); the last row of a job that has been admitted whole
lets it complete. -/
def execMatrixRowWrite (s : State) : Out :=
  let tile := s.cur.tile
  .next (match takeFirst (fun r => r.due ≤ s.now tile) (s.tile tile).mx.rows with
    | none => s
    | some (r, rest) =>
      let s := (s.modMx tile fun m => { m with
        rows := rest, justAt := s.now tile, just := (if m.justAt = s.now tile then m.just else []) ++ [r] }).writeRow tile r
      if rest.any fun x => x.core == r.core && x.job == r.job then s
      else match (s.tile tile).mx.open_.find? fun o => o.1 == r.core && o.2.1 == r.job with
      | none => s
      | some o =>
        (s.modMx tile fun m => { m with open_ := m.open_.filter (· != o) }).atTile tile 0 .matrixJobCompletion ⟨tile, r.core, 0⟩
          { n := r.job, m := o.2.2.toNat })

/-! ## Arbitration (R31, R226, R231, R232) -/

/-- A command code that reads or writes accumulators (R226). -/
def accCmd (c : Nat) : Bool := 4 ≤ c && c ≤ 7

/-- Rows in flight in a cycle: a row written in it still is one (R231, R232). -/
def Matrix.inFlight (m : Matrix) (now : Nat) : List MxRow := m.rows ++ if m.justAt = now then m.just else []

/-- A weight load of another command is in progress (R232). -/
def Matrix.loading (m : Matrix) (c : Fin 8) (job : Nat) : Bool := m.load.any fun l => !(l.core == c && l.job == job)

/-- The head command of a core can proceed (R231). -/
def Tile.mxCan (t : Tile) (now : Nat) (c : Fin 8) : Bool :=
  match t.cores[c].mxq with
  | [] => false
  | q :: _ =>
    let code := (q.word.extractLsb' 240 8).toNat
    t.mx.fpend[c].isNone &&
      (if code = 1 then !t.mx.loading c q.id &&
          (t.mx.load.isSome || !((t.mx.inFlight now).any fun r => r.plane != t.mx.active))
       else if code = 2 then t.mx.load.isNone
       else if accCmd code then !((t.mx.inFlight now).any fun r => r.core == c)
       else true)

/-- Turns of a core in a round: w + 1 (R31). -/
def Tile.mxTurns (t : Tile) (c : Fin 8) : Nat := (t.kmxw.toNat / 16 ^ c.val) % 16 + 1

/-- The core served next, with its services so far in its round (R31): the core in turn while it has turns left, then the
others in ascending order, and itself again in the next round. -/
def Tile.mxPick (t : Tile) (now : Nat) : Option (Fin 8 × Nat) :=
  if t.mxCan now t.mx.turn && t.mx.used < t.mxTurns t.mx.turn then some (t.mx.turn, t.mx.used)
  else (((List.finRange 8).map fun i : Fin 8 => t.mx.turn + 1 + i).find? (t.mxCan now)).map fun c => (c, 0)

/-- The core in turn loses the rest of its turns when the engine is free and it cannot proceed (R231). -/
def Tile.mxLose (t : Tile) (now : Nat) : Tile :=
  if t.mx.busy ≤ now && !t.mxCan now t.mx.turn then { t with mx := { t.mx with used := 16 } } else t

/-- MATRIX_SERVICE: one service for the core in turn; its head command's step follows (R231). -/
def execMatrixService (s : State) : Out :=
  let tile := s.cur.tile
  let t := s.tile tile
  .next (if s.now tile < t.mx.busy then s
    else match t.mxPick (s.now tile) with
    | none => s
    | some (c, n) =>
      let s := s.modMx tile fun m => { m with turn := c, used := n + 1, busy := s.now tile + 1 }
      match t.cores[c].mxq with
      | [] => s
      | q :: _ =>
        match decodeTWord q.word with
        | .ok i => s.atTile tile 0 i ⟨tile, c, q.thr⟩
        | .error _ => s)

/-- The engine is free and some core's head command can proceed, unless the tile's save has begun (R394 step 2); rows and loads whose
time has come. -/
def State.pollMx (s : State) (tile : Nat) : State × Bool :=
  let now := s.now tile
  let s := s.modTile tile fun t => t.mxLose now
  let t := s.tile tile
  let rows := t.mx.rows.filter fun r => r.due ≤ now
  if !rows.isEmpty then (rows.foldl (fun s _ => s.atTile tile 0 .matrixRowWrite) s, true)
  else if !t.frozen && t.mx.busy ≤ now && (t.mxPick now).isSome then (s.atTile tile 0 .matrixService, true)
  else (s, false)

/-- The engine is busy with the service that has just started for some cycles in all. -/
def State.mxBusy (s : State) (tile n : Nat) : State := s.modMx tile fun m => { m with busy := s.now tile + n }

/-! ## The commands (R234 to R240) -/

/-- Ends the head command of a core with what a check found (R227, R241). -/
def State.mxStop (s : State) (tile : Nat) (c : Fin 8) : Chk Unit → State
  | .ok _ => s
  | .bad st => s.mxEnd tile c st
  | .err e acc => s.mxErr tile c e acc (s.tile tile).mx.done[c]

/-- The tables of the pushing core as they stand at the command's first operand fetch (R46). -/
def State.mxTabs (s : State) (tile : Nat) (c : Fin 8) : State × (KMap (BitVec 19) × KMap (BitVec 19)) :=
  match (s.tile tile).mx.tabs[c] with
  | some x => (s, x)
  | none =>
    let x := ((s.core tile c).t8, (s.core tile c).t4)
    (s.modMx tile fun m => { m with tabs := m.tabs.set c (some x) }, x)

/-- Formats that mx.ldw and mx.run accept (R234, R236). -/
def fetchFmt (f : Nat) : Bool := 1 ≤ f && f ≤ 7
/-- Formats that mx.st accepts (R238). -/
def storeFmt (f : Nat) (wm : Bool) : Bool := (1 ≤ f && f ≤ 4) || f == 7 || (f == 8 && wm)

def State.setPlane (s : State) (tile : Nat) (plane : Bool) (f : KMap (BitVec 19) → KMap (BitVec 19)) : State :=
  s.modMx tile fun m => if plane then { m with plane1 := f m.plane1 } else { m with plane0 := f m.plane0 }

/-- Row k of a plane takes 32 weights. -/
def putWeights (p : KMap (BitVec 19)) (k : Nat) (xs : List (BitVec 19)) : KMap (BitVec 19) :=
  (xs.zipIdx).foldl (fun p (x, j) => if x = 0 then p.erase (32 * k + j) else p.set (32 * k + j) x) p

/-- The weight rows of a mx.ldw from row k on (R234). Answers how many are written, and the failure, if any. -/
def State.ldwRows (s : State) (tile : Nat) (c : Fin 8) (x : MxSide) (tabs : KMap (BitVec 19) × KMap (BitVec 19)) (plane : Bool) (k : Nat) :
    Nat → State × Nat × Chk Unit
  | 0 => (s, k, .ok ())
  | fuel + 1 =>
    if 32 ≤ k then (s, k, .ok ())
    else
      let (s, row) := if k < x.ext1 then s.mxRow tile x tabs k else (s, .ok (some (List.replicate 32 0, 0)))
      match row with
      | .ok (some (xs, f)) =>
        State.ldwRows ((s.setPlane tile plane fun p => putWeights p k xs).mxFlags tile c f) tile c x tabs plane (k + 1) fuel
      | .ok none => (s, k, .bad 0x07)
      | .error e => (s, k, .err e 0)

/-- mx.ldw: the shadow plane takes one row per cycle after the dispatch (R231, R232, R234). With ts = 1 the fmt and stride fields are
ignored (DESIGN CHOICE, log 104). -/
def execMxLdw (flags : BitVec 16) (ops : BitVec 192) (s : State) : Out :=
  let tile := s.cur.tile
  let c := s.cur.core
  let ts := flags.getLsbD 0
  .next (match (s.core tile c).mxq with
    | [] => s
    | q :: _ =>
      match s.mxSide tile c (ops.extractLsb' 0 64) ts (ops.extractLsb' 96 8).toNat (ops.extractLsb' 128 32).toNat with
      | (s, .bad st) => s.mxEnd tile c st
      | (s, .err e acc) => s.mxErr tile c e acc 0
      | (s, .ok x) =>
        let fmt := (ops.extractLsb' 96 8).toNat
        let x := if ts then x else { x with ext1 := 32 }
        if ts && (!fetchFmt x.fmt || 32 < x.ext0 || 32 < x.ext1) then s.mxEnd tile c 0x05
        else if ops.extractLsb' 64 32 != 0 then s.mxEnd tile c 0x02
        else if !ts && (!fieldFmtOk fmt || !fetchFmt x.fmt) then s.mxEnd tile c 0x05
        else if ops.extractLsb' 104 24 != 0 then s.mxEnd tile c 0x02
        else if oddStride ts x.fmt (ops.extractLsb' 128 32).toNat then s.mxEnd tile c 0x05
        else if ops.extractLsb' 160 32 != 0 then s.mxEnd tile c 0x02
        else
          let (s, tabs) := s.mxTabs tile c
          let m := (s.tile tile).mx
          let plane := (m.load.map MxLoad.plane).getD !m.active
          let k0 := m.done[c]
          let nib := nibbleFmt x.fmt
          let s := s.modMx tile fun m => if plane then { m with t4p1 := nib } else { m with t4p0 := nib }
          let s := s.modMx tile fun m => { m with load := some ⟨c, q.id, plane⟩ }
          let (s, k, r) := s.ldwRows tile c x tabs plane k0 33
          match r with
          | .ok _ =>
            let n := k - k0
            let s := s.modCore tile c fun co => { co with mxq := co.mxq.drop 1 }
            let s := s.modMx tile fun m => { m with done := m.done.set c 0, recs := m.recs.set c none, tabs := m.tabs.set c none }
            s.atTile tile (n + 1) .weightLoadDone ⟨tile, c, q.thr⟩ { n := q.id }
          | r => (s.modMx tile fun m => { m with done := m.done.set c k }).mxStop tile c r)

/-- WEIGHT_LOAD_DONE: the plane is loaded and its job completes (R232, R234). -/
def execWeightLoadDone (s : State) : Out :=
  let tile := s.cur.tile
  .next (match (s.tile tile).mx.load with
    | none => s
    | some x => (s.modMx tile fun m => { m with load := none }).atTile tile 0 .matrixJobCompletion ⟨tile, x.core, 0⟩ { n := x.job })

/-- mx.swap (R235). -/
def execMxSwap (flags : BitVec 16) (ops : BitVec 192) (s : State) : Out :=
  let tile := s.cur.tile
  let c := s.cur.core
  .next (if (s.core tile c).mxq.isEmpty then s
    else if ops != 0 || flags != 0 then s.mxEnd tile c 0x02
    else (s.modMx tile fun m => { m with active := !m.active }).mxEnd tile c 0)

/-- The rows that a service of mx.run admits: `n` rows from row r on, the first in this cycle (R231, R232). Answers what
stopped it. -/
def State.runRows (s : State) (tile : Nat) (c : Fin 8) (q : QCmd) (x : MxSide) (tabs : KMap (BitVec 19) × KMap (BitVec 19)) (wm : Bool)
    (ex : Int) (dst r : Nat) (adm : Nat → Nat) : Nat → Nat → State × Chk Unit
  | 0, _ => (s, .ok ())
  | n + 1, i =>
    match s.mxRow tile x tabs (r + i) with
    | (s, .ok (some (xs, f))) =>
      let row : MxRow := ⟨s.now tile + adm i + 40, c, q.id, dst + r + i, wm, ex, (s.tile tile).mx.active, xs⟩
      let s := (s.modMx tile fun m => { m with rows := m.rows ++ [row], done := m.done.set c (r + i + 1) }).mxFlags tile c f
      State.runRows s tile c q x tabs wm ex dst r adm n (i + 1)
    | (s, .ok none) => (s, .bad 0x07)
    | (s, .error e) => (s, .err e 0)

/-- mx.run: one service of up to 32 rows (R231, R236). With ts = 1 the fmt and stride fields are ignored (DESIGN CHOICE, log 104). -/
def execMxRun (flags : BitVec 16) (ops : BitVec 192) (s : State) : Out :=
  let tile := s.cur.tile
  let c := s.cur.core
  let ts := flags.getLsbD 0
  let wm := flags.getLsbD 1
  let m0 := (ops.extractLsb' 160 16).toNat
  let dst := (ops.extractLsb' 152 8).toNat
  let ex := (ops.extractLsb' 128 16).toInt
  .next (match (s.core tile c).mxq with
    | [] => s
    | q :: _ =>
      match s.mxSide tile c (ops.extractLsb' 0 64) ts (ops.extractLsb' 144 8).toNat (ops.extractLsb' 96 32).toNat with
      | (s, .bad st) => s.mxEnd tile c st
      | (s, .err e acc) => s.mxErr tile c e acc 0
      | (s, .ok x) =>
        let m := if ts then x.ext1 else m0
        if ts && (32 < x.ext0 || !fetchFmt x.fmt) then s.mxEnd tile c 0x05
        else if ops.extractLsb' 64 32 != 0 then s.mxEnd tile c 0x02
        else if oddStride ts x.fmt (ops.extractLsb' 96 32).toNat then s.mxEnd tile c 0x05
        else if !wm && ex != 0 then s.mxEnd tile c 0x02
        else if wm && (ex < -256 || 255 < ex) then s.mxEnd tile c 0x08
        else if !ts && (!fieldFmtOk (ops.extractLsb' 144 8).toNat || !fetchFmt x.fmt) then s.mxEnd tile c 0x05
        else if ts && m0 != 0 then s.mxEnd tile c 0x02
        else if (!ts && m = 0) || (if wm then 64 else 256) < dst + m then s.mxEnd tile c 0x11
        else if ops.extractLsb' 176 16 != 0 then s.mxEnd tile c 0x02
        else
          let (s, tabs) := s.mxTabs tile c
          let mx := (s.tile tile).mx
          let r := mx.done[c]
          let n := min 32 (m - r)
          let fast := nibbleFmt x.fmt && (if mx.active then mx.t4p1 else mx.t4p0)
          let adm (i : Nat) : Nat := if fast then i / 2 else if x.fmt = 7 then 2 * i else i
          let cyc := max 1 (if fast then (n + 1) / 2 else if x.fmt = 7 then 2 * n else n)
          let (s, res) := s.runRows tile c q x tabs wm ex dst r adm n 0
          let s := s.mxBusy tile cyc
          match res with
          | .ok _ => if m ≤ r + n then s.mxEnd tile c 0 else s
          | res => s.mxStop tile c res)

/-- One service of a command over rows or quads: `body i` acts on the i-th of n, up to 32 rows or 8 quads; the job completes
after the last service's eight cycles (R231). -/
def State.mxChunk (s : State) (tile : Nat) (c : Fin 8) (n per : Nat) (body : State → Nat → State × Chk Unit) : State :=
  let r := (s.tile tile).mx.done[c]
  let k := min per (n - r)
  let (s, res) := (List.range k).foldl (fun (s, (res : Chk Unit)) i =>
    match res with
    | .ok _ =>
      match body s (r + i) with
      | (s, .ok _) => (s.modMx tile fun m => { m with done := m.done.set c (r + i + 1) }, .ok ())
      | bad => bad
    | res => (s, res)) (s, .ok ())
  let s := s.mxBusy tile 8
  match res with
  | .ok _ => if n ≤ r + k then s.mxEnd tile c 0 8 else s
  | res => s.mxStop tile c res

/-- Row accumulators and quad accumulators (R230). -/
def Matrix.row (m : Matrix) (r j : Nat) : Nat := m.acc.readNat (128 * r + 4 * j) 4
def Matrix.quad (m : Matrix) (q j : Nat) : Int := (BitVec.ofNat 128 (m.acc.readNat (512 * q + 16 * j) 16)).toInt
def Matrix.putRow (m : Matrix) (r : Nat) (xs : List Nat) : Matrix :=
  { m with acc := m.acc.writeBytes (128 * r) (xs.flatMap (natToBytes 4)) }
def Matrix.putQuad (m : Matrix) (q : Nat) (xs : List Int) : Matrix :=
  { m with acc := m.acc.writeBytes (512 * q) (xs.flatMap fun x => natToBytes 16 (BitVec.ofInt 128 x).toNat) }

/-- Greatest row or quad count (R237 to R240). -/
def fileSize (wm : Bool) : Nat := if wm then 64 else 256
def perService (wm : Bool) : Nat := if wm then 8 else 32

/-- mx.acc on one row or quad (R237). -/
def State.accOne (s : State) (tile : Nat) (c : Fin 8) (wm : Bool) (src dst : Nat) : State :=
  let m := (s.tile tile).mx
  if wm then
    let xs := (List.range 32).map fun j => m.quad dst j + m.quad src j
    let f : Byte := m.acc.readByte (0x8000 + src) ||| if xs.any fun x => sat128 x != x then 1 else 0
    s.modMx tile fun m => (m.putQuad dst (xs.map sat128)).quadFlags dst f
  else
    let xs := (List.range 32).map fun j => fadd .rne (m.row dst j) (m.row src j)
    (s.modMx tile fun m => m.putRow dst (xs.map (·.1))).mxFlags tile c (xs.foldl (fun f x => f ||| x.2) 0)

/-- mx.acc (R237). -/
def execMxAcc (flags : BitVec 16) (ops : BitVec 192) (s : State) : Out :=
  let tile := s.cur.tile
  let c := s.cur.core
  let wm := flags.getLsbD 1
  let n := (ops.extractLsb' 160 16).toNat
  let src := (ops.extractLsb' 152 8).toNat
  let dst := (ops.extractLsb' 144 8).toNat
  .next (if (s.core tile c).mxq.isEmpty then s
    else if ops.extractLsb' 0 144 != 0 then s.mxEnd tile c 0x02
    else if n = 0 ∨ fileSize wm < src + n ∨ fileSize wm < dst + n then s.mxEnd tile c 0x11
    else if ops.extractLsb' 176 16 != 0 then s.mxEnd tile c 0x02
    else s.mxChunk tile c n (perService wm) fun s i => (s.accOne tile c wm (src + i) (dst + i), .ok ()))

/-- The value that mx.st writes for one accumulator, with its flags (R238). A t8 or t4 store encodes with the pushing core's table as it
stands in the store's service (DESIGN CHOICE: R46 names the commands that decode and says nothing of one that encodes; log 99). -/
def State.stValue (s : State) (tile : Nat) (c : Fin 8) (wm : Bool) (fmt : Nat) (rm : RM) (ex : Int) (i j : Nat) : Nat × BitVec 5 :=
  let m := (s.tile tile).mx
  let co := s.core tile c
  if wm then
    let x := m.quad i j
    let v : FVal := .fin (x < 0) x.natAbs ex
    match fmt with
    | 1 => encodeVal co.t8 256 rm v (-256)
    | 2 => encodeVal co.t4 16 rm v (-256)
    | 3 => w128Read f16F rm x ex
    | 4 => w128Read b16F rm x ex
    | 7 => w128Read f32F rm x ex
    | _ => ((BitVec.ofInt 128 x).toNat, 0)
  else match fmt with
  | 7 => convF f32F rm (unpackF f32F (m.row i j))
  | f => storeElem co.t8 co.t4 f rm (m.row i j)

/-- Writes element j of row r of a side; a nibble keeps its neighbour (R238). -/
def State.mxPutElem (s : State) (tile : Nat) (x : MxSide) (r j v : Nat) (by_ : Option StoreSrc) : State × Option UErr :=
  let a := x.addr r j
  if nibbleFmt x.fmt then
    match s.unitRead tile a 1 kind0or14 with
    | (s, .error e) => (s, some e)
    | (s, .ok old) =>
      let y := if x.half r j then old % 16 + 16 * (v % 16) else old / 16 * 16 + v % 16
      s.unitWrite tile a [BitVec.ofNat 8 y] kind0or14 by_
  else s.unitWrite tile a (natToBytes (elemBytes x.fmt) v) kind0or14 by_

/-- mx.st on one row or quad (R238). -/
def State.stOne (s : State) (tile : Nat) (c : Fin 8) (x : MxSide) (wm : Bool) (rm : RM) (ex : Int) (src i : Nat) : State × Chk Unit :=
  let by_ := (s.core tile c).mxq.head?.map fun q => cmdSrc tile 2 c.val q.id
  (List.range (min 32 x.ext0)).foldl (fun (s, (res : Chk Unit)) j =>
    match res with
    | .ok _ =>
      let (v, f) := s.stValue tile c wm x.fmt rm ex (src + i) j
      match s.mxPutElem tile x i j v by_ with
      | (s, none) => (s.mxFlags tile c f, .ok ())
      | (s, some e) => (s, .err e 1)
    | res => (s, res)) (s, .ok ())

/-- mx.st (R238). With ts = 1 the fmt and stride fields, which R238 defines for ts = 0 only, and the columns from 32 on of a TSR with a
larger ext0, which no accumulator has, are left alone (DESIGN CHOICE, log 104). -/
def execMxSt (flags : BitVec 16) (ops : BitVec 192) (s : State) : Out :=
  let tile := s.cur.tile
  let c := s.cur.core
  let ts := flags.getLsbD 0
  let wm := flags.getLsbD 1
  let rm := RM.ofBits (flags.extractLsb' 2 2)
  let n0 := (ops.extractLsb' 160 16).toNat
  let src := (ops.extractLsb' 152 8).toNat
  let ex := (ops.extractLsb' 128 16).toInt
  .next (if (s.core tile c).mxq.isEmpty then s
    else match s.mxSide tile c (ops.extractLsb' 0 64) ts (ops.extractLsb' 144 8).toNat (ops.extractLsb' 96 32).toNat with
    | (s, .bad st) => s.mxEnd tile c st
    | (s, .err e acc) => s.mxErr tile c e acc 0
    | (s, .ok x) =>
      let n := if ts then x.ext1 else n0
      if ts && !storeFmt x.fmt wm then s.mxEnd tile c 0x05
      else if ops.extractLsb' 64 32 != 0 then s.mxEnd tile c 0x02
      else if oddStride ts x.fmt (ops.extractLsb' 96 32).toNat then s.mxEnd tile c 0x05
      else if !wm && ex != 0 then s.mxEnd tile c 0x02
      else if wm && (ex < -256 || 255 < ex) then s.mxEnd tile c 0x08
      else if !ts && (!fieldFmtOk (ops.extractLsb' 144 8).toNat || !storeFmt x.fmt wm) then s.mxEnd tile c 0x05
      else if ts && n0 != 0 then s.mxEnd tile c 0x02
      else if (!ts && n = 0) || fileSize wm < src + n then s.mxEnd tile c 0x11
      else if ops.extractLsb' 176 16 != 0 then s.mxEnd tile c 0x02
      else s.mxChunk tile c n (perService wm) fun s i => s.stOne tile c x wm rm ex src i)

/-- mx.zero on one row or quad of a range that starts at `first` (R239). -/
def Matrix.zeroOne (m : Matrix) (wm : Bool) (first i : Nat) : Matrix :=
  let r := first + i
  if wm then
    let m := m.putQuad r (List.replicate 32 0)
    { m with acc := m.acc.writeByte (0x8000 + r) 0 }
  else
    let m := m.putRow r (List.replicate 32 0)
    if r % 4 = 3 ∧ first + 3 ≤ r then { m with acc := m.acc.writeByte (0x8000 + r / 4) 0 } else m

/-- mx.zero (R239). A range of no row or quad ends with BADLEN, as those of mx.acc and mx.st do (DESIGN CHOICE, log 104). -/
def execMxZero (flags : BitVec 16) (ops : BitVec 192) (s : State) : Out :=
  let tile := s.cur.tile
  let c := s.cur.core
  let wm := flags.getLsbD 1
  let n := (ops.extractLsb' 160 16).toNat
  let first := (ops.extractLsb' 152 8).toNat
  .next (if (s.core tile c).mxq.isEmpty then s
    else if ops.extractLsb' 0 152 != 0 then s.mxEnd tile c 0x02
    else if n = 0 ∨ fileSize wm < first + n then s.mxEnd tile c 0x11
    else if ops.extractLsb' 176 16 != 0 then s.mxEnd tile c 0x02
    else s.mxChunk tile c n (perService wm) fun s i => (s.modMx tile fun m => m.zeroOne wm first i, .ok ()))

/-- x × 2^e rounded (R240, R39 to R42). -/
def scaleF32 (x : Nat) (e : Int) : Nat × BitVec 5 :=
  match unpackF f32F x with
  | .fin n m e0 => roundF f32F .rne n m (e0 + e)
  | v => convF f32F .rne v

/-- mx.scale (R240). A range of no row ends with BADLEN; the operand that flags [0] leaves unused is ignored (DESIGN CHOICE, log 104). -/
def execMxScale (flags : BitVec 16) (ops : BitVec 192) (s : State) : Out :=
  let tile := s.cur.tile
  let c := s.cur.core
  let per := flags.getLsbD 0
  let a := ops.extractLsb' 0 64
  let n := (ops.extractLsb' 160 16).toNat
  let first := (ops.extractLsb' 152 8).toNat
  .next (if (s.core tile c).mxq.isEmpty then s
    else
      let st := if per then s.ownOperand tile a (min n 256) 1 else 0
      if st ≠ 0 then s.mxEnd tile c st
      else if ops.extractLsb' 64 64 != 0 || ops.extractLsb' 144 8 != 0 then s.mxEnd tile c 0x02
      else if n = 0 ∨ 256 < first + n then s.mxEnd tile c 0x11
      else if ops.extractLsb' 176 16 != 0 then s.mxEnd tile c 0x02
      else s.mxChunk tile c n 32 fun s i =>
        let (s, ex) : State × Except UErr Int :=
          if per then match s.unitRead tile (a + BitVec.ofNat 64 i) 1 kind0or14 with
            | (s, .ok v) => (s, .ok (BitVec.ofNat 8 v).toInt)
            | (s, .error e) => (s, .error e)
          else (s, .ok (ops.extractLsb' 128 16).toInt)
        match ex with
        | .error e => (s, .err e 0)
        | .ok ex =>
          let xs := (List.range 32).map fun j => scaleF32 ((s.tile tile).mx.row (first + i) j) ex
          ((s.modMx tile fun m => m.putRow (first + i) (xs.map (·.1))).mxFlags tile c (xs.foldl (fun f x => f ||| x.2) 0), .ok ()))

end Sys2Proof.Machine
end

