-- ==== Sys2Proof/Machine/Event.lean ====
section
/-!
DEFINITION. The event engine: its queue, deliveries, sweeps, commands and completion (spec/08 R226, R243 to R257, spec/07 R219, R220),
and the arrival of sample replies (spec/06 R191).
-/
namespace Sys2Proof.Machine

def State.modEv (s : State) (tile : Nat) (f : EvEngine → EvEngine) : State := s.modTile tile fun t => { t with ev := f t.ev }
def State.evOf (s : State) (tile : Nat) : EvEngine := (s.tile tile).ev

/-! ## The queue (R250, R253) -/

/-- The timestamp of an event word (R243). -/
def evTs (w : Word) : Nat := (w.extractLsb' 40 24).toNat

/-- Delivery order: timestamp, source tile, sequence (R250). -/
def EvEnt.before (a b : EvEnt) : Bool :=
  evTs a.word < evTs b.word || (evTs a.word == evTs b.word &&
    (a.src < b.src || (a.src == b.src && a.seq < b.seq)))

/-- Inserts an event at its place in delivery order. -/
def insertEvent (e : EvEnt) : List EvEnt → List EvEnt
  | [] => [e]
  | x :: xs => if e.before x then e :: x :: xs else x :: insertEvent e xs

/-- Counts a drop for a source and posts it on its loss cell (R253): `ix` is the cell's position in the declaration. -/
def State.countDrop (s : State) (tile src ix key : Nat) : State :=
  let n := (s.evOf tile).drops.getD key 0 + 1
  let s := s.modEv tile fun e => { e with drops := e.drops.set key n }
  match (s.evOf tile).decl with
  | none => s
  | some d => s.unitPost tile tile (d.lossbase + ix) (BitVec.ofNat 256 (n % 2 ^ 64 + src % 2 ^ 16 * 2 ^ 64))

/-- An event of another source, or of a copy.ev, enters the queue or is dropped (R250, R253). -/
def State.queueEvent (s : State) (tile : Nat) (word : Word) (src seq : Nat) : State :=
  let e := s.evOf tile
  if e.queue.length < 4096 then s.modEv tile fun e => { e with queue := insertEvent ⟨word, src, seq⟩ e.queue }
  else match (match e.decl with
    | some d => d.srcs.findIdx? fun x => x.1 == src
    | none => none) with
  | some ix => s.countDrop tile src ix src
  | none => s.modEv tile fun e => { e with undecl := e.undecl + 1 }

/-- An event of ev.inj or of local fan-out: stamped with the own tile and the next local sequence (R250). -/
def State.queueLocal (s : State) (tile : Nat) (word : Word) : State :=
  let s := s.modEv tile fun e => { e with seq := e.seq + 1 }
  let e := s.evOf tile
  if e.queue.length < 4096 then
    s.modEv tile fun e => { e with queue := insertEvent ⟨word, tile, e.seq.toNat⟩ e.queue }
  else
    let s := s.modEv tile fun e => { e with ldrop := e.ldrop + 1 }
    match e.decl with
    | none => s
    | some d => s.countDrop tile tile d.srcs.length 65536

/-- EVENT_INTAKE: an event of another tile, or of a copy.ev, is queued, dropped or refused; a fan-out event is answered
(R219, R248). Operands: the word, its source and number; whether it came in a transfer, else the reference to answer. -/
def execEventIntake (s : State) : Out :=
  let tile := s.cur.tile
  .next (if s.arg.ok then s.queueEvent tile s.arg.w s.arg.n s.arg.m
    else
      let good := (s.launch tile).exports 10
      let s := if good then s.queueEvent tile s.arg.w s.arg.n s.arg.m else s
      s.sendFlit tile { flit := s.mkFlit tile 0 s.arg.n s.arg.d.toNat (.ack (if good then 0 else 2)) })

/-! ## Neurons (R244, R247, R249) -/

/-- A neuron state's fields (R244). -/
structure Neuron where
  v : Int
  last : Nat
  ref : Nat
  spk : Bool
  sat : Bool
  settled : Bool
  deriving DecidableEq, Repr

def Neuron.ofWord (x : Word) : Neuron :=
  { v := (x.extractLsb' 0 32).toInt, last := (x.extractLsb' 32 16).toNat, ref := (x.extractLsb' 48 8).toNat
    spk := x.getLsbD 56, sat := x.getLsbD 57, settled := x.getLsbD 58 }

def Neuron.word (n : Neuron) : Word :=
  BitVec.ofNat 64 ((BitVec.ofInt 32 n.v).toNat + n.last % 2 ^ 16 * 2 ^ 32 + n.ref % 2 ^ 8 * 2 ^ 48
    + (if n.spk then 2 ^ 56 else 0) + (if n.sat then 2 ^ 57 else 0) + if n.settled then 2 ^ 58 else 0)

/-- The leak applied a number of times: v ← v − ASR(v, k) (R247). -/
def leak (k : Nat) (v : Int) : Nat → Int
  | 0 => v
  | n + 1 => leak k (if k = 0 then v else v - v / 2 ^ k) n

def EvEngine.neuron (e : EvEngine) (b n : Nat) : Word := e.neurons.getD (8192 * b + n) 0
def EvEngine.setNeuron (e : EvEngine) (b n : Nat) (x : Word) : EvEngine :=
  { e with neurons := if x = 0 then e.neurons.erase (8192 * b + n) else e.neurons.set (8192 * b + n) x }

def EvEngine.bank (e : EvEngine) (b : Nat) : EvBank := e.banks[b % 4]'(Nat.mod_lt _ (by decide))

/-- One sweep at M for one neuron (R249). -/
def Neuron.sweep (n : Neuron) (k m : Nat) : Neuron :=
  if n.settled || (m % 2 ^ 16 + 2 ^ 16 - n.last) % 2 ^ 16 < 1023 then n
  else { n with v := leak k n.v 1023, ref := 0, settled := true }

/-- A function of every neuron from number i on, for a count of neurons; `ns` lists the states from i on that are not 0. -/
def neuronsMap (f : Nat → Word → Word) : Nat → Nat → KMap Word → KMap Word
  | 0, _, ns => ns
  | c + 1, i, ns =>
    let (x, rest) : Word × KMap Word := match ns with
      | [] => (0, [])
      | (j, y) :: ns' => if j = i then (y, ns') else (0, ns)
    let z := f i x
    if z = 0 then neuronsMap f c (i + 1) rest else (i, z) :: neuronsMap f c (i + 1) rest

/-- The sweep at M over every neuron (R249). -/
def EvEngine.sweepAt (e : EvEngine) (m : Nat) : EvEngine :=
  { e with neurons := neuronsMap (fun i x => ((Neuron.ofWord x).sweep (e.bank (i / 8192)).k m).word) 32768 0 e.neurons }

/-- T moves on to t, with a sweep at each multiple of 16,384 that it passes (R249). -/
def EvEngine.moveT (e : EvEngine) (t : Nat) : EvEngine :=
  let first := e.t / 16384 + 1
  let e := (List.range (t / 16384 + 1 - first)).foldl (fun e i => e.sweepAt (16384 * (first + i))) e
  { e with t := max e.t t }

/-- n bytes of the tile's local memory at an offset from a table base, or nothing outside the named core's 256 KiB; `bad`
tells an uncorrectable error (R123, R246). -/
def State.tableRead (s : State) (tile : Nat) (base off n : Nat) : Option (Nat × Bool) :=
  let c := ctrCore base
  let o := ctrOff base + off
  if 0x4_0000 < o + n then none else some (s.lmRead tile c o n, s.lmBad tile c o n)

/-- A table word has an uncorrectable error: its address is kept (R420). -/
def State.tableUE (s : State) (tile base off : Nat) : State :=
  s.noteUE tile (amAddr tile (ctrCore base) 0 (ctrOff base + off))

/-- Events wait in the copy unit's fan-out buffer of 64 flits (R219). -/
def CopyUnit.fanRoom (c : CopyUnit) : Bool := (c.inj.filter (·.fan)).length < 64

/-- A fan-out event for another tile is sent, or counted when its target lies outside the partition (R219, R220, R248). -/
def State.sendEvent (s : State) (tile target : Nat) (w : Word) : State :=
  if !(s.part (s.launch tile).part).hasTile target then s.modEv tile fun e => { e with fanref := e.fanref + 1 }
  else
    let (s, num) := s.takeEventNumbers tile target 1
    let (ref, s) := s.takeRef tile
    let s := s.modCopy tile fun c => { c with acks := c.acks.set ref .fan }
    let s := s.modEv tile fun e => { e with remote := e.remote + 1 }
    s.sendFlit tile { flit := s.mkFlit tile 2 target ref (.fanout w num), fan := true }

/-- Events of a firing that wait for the fan-out buffer are handed over while it has room (R219). -/
def State.flushFan (s : State) (tile : Nat) : Nat → State
  | 0 => s
  | fuel + 1 =>
    match (s.evOf tile).pendingFan with
    | [] => s
    | (t, w) :: rest =>
      if (s.copyUnit tile).fanRoom then
        State.flushFan ((s.modEv tile fun e => { e with pendingFan := rest }).sendEvent tile t w) tile fuel
      else s

/-- One fan-out entry of a firing at tick t (R246 to R248). Answers whether it met an uncorrectable error. -/
def State.fanOne (s : State) (tile fbase e t : Nat) : State × Bool :=
  match s.tableRead tile fbase (0x8000 + 8 * e) 8 with
  | none => (s.modEv tile fun x => { x with badfan := x.badfan + 1 }, false)
  | some (x, bad) =>
    let delay := x / 2 ^ 40 % 256
    let ts := t + delay
    let w : Word := BitVec.ofNat 64 (x % 2 ^ 40 + ts * 2 ^ 40)
    if bad then (s.tableUE tile fbase (0x8000 + 8 * e), true)
    else if delay = 0 then (s.modEv tile fun x => { x with badfan := x.badfan + 1 }, false)
    else if 2 ^ 24 - 1 < ts then (s.modEv tile fun x => { x with overflow := x.overflow + 1 }, false)
    else if x / 2 ^ 48 = tile then (s.queueLocal tile w, false)
    else (s.modEv tile fun e => { e with pendingFan := e.pendingFan ++ [(x / 2 ^ 48, w)] }, false)

/-- The fan-out of a firing of neuron n of a bank, in entry order (R246, R247). -/
def State.fanOut (s : State) (tile n t : Nat) (b : EvBank) : State × Bool :=
  let fbase := b.fbase.toNat
  if fbase = 0 then (s, false)
  else match s.tableRead tile fbase (4 * n) 4 with
  | none => (s.modEv tile fun x => { x with badfan := x.badfan + 1 }, false)
  | some (ix, bad) =>
    if bad then (s.tableUE tile fbase (4 * n), true)
    else (List.range (ix / 2 ^ 16)).foldl (fun (s, ue) i =>
      if ue then (s, true) else s.fanOne tile fbase (ix % 2 ^ 16 + i) t) (s, false)

/-- The weight of an event, or nothing when it cannot be read (R243, R246); `true` tells an uncorrectable error. -/
def State.evWeight (s : State) (tile : Nat) (b : EvBank) (kind payload : Nat) : Option Int × Bool :=
  match kind with
  | 1 => (some ((BitVec.ofNat 16 payload).toInt * 2 ^ b.wshift), false)
  | 2 =>
    if b.wbase = 0 ∨ b.wcount ≤ payload then (none, false)
    else match s.tableRead tile b.wbase.toNat (4 * payload) 4 with
    | some (x, bad) => (some (BitVec.ofNat 32 x).toInt, bad)
    | none => (none, false)
  | _ => (some 0, false)

/-- Sat(v, −2^31, 2^31 − 1) and whether it clipped. -/
def sat32 (v : Int) : Int × Bool :=
  if v < -(2 ^ 31) then (-(2 ^ 31), true) else if 2 ^ 31 - 1 < v then (2 ^ 31 - 1, true) else (v, false)

/-- Delivery of an event at T to its neuron (R247). Answers whether it met an uncorrectable error. -/
def State.deliverAt (s : State) (tile : Nat) (w : Word) (t : Nat) : State × Bool :=
  let bi := (w.extractLsb' 38 2).toNat
  let n := (w.extractLsb' 25 13).toNat
  let kind := (w.extractLsb' 16 9).toNat
  let b := (s.evOf tile).bank bi
  if kind = 0 ∨ 3 < kind then (s.modEv tile fun e => { e with badkind := e.badkind + 1 }, false)
  else match s.evWeight tile b kind (w.extractLsb' 0 16).toNat with
  | (none, _) => (s.modEv tile fun e => { e with badidx := e.badidx + 1 }, false)
  | (some _, true) => (s.tableUE tile b.wbase.toNat (4 * (w.extractLsb' 0 16).toNat), true)
  | (some wt, false) =>
    let x := Neuron.ofWord ((s.evOf tile).neuron bi n)
    let d := if x.settled then 0 else (t % 2 ^ 16 + 2 ^ 16 - x.last) % 2 ^ 16
    let x := { x with v := leak b.k x.v (min d 1023), ref := x.ref - d, last := t % 2 ^ 16, settled := false }
    if 0 < x.ref then (s.modEv tile fun e => e.setNeuron bi n x.word, false)
    else
      let (v, clip) := if kind = 3 then (x.v, false) else sat32 (x.v + wt)
      let x := { x with v := v, sat := x.sat || clip }
      if !(kind = 3 || b.theta.toInt ≤ v) then (s.modEv tile fun e => e.setNeuron bi n x.word, false)
      else
        let x := { x with v := if b.reset then v - b.theta.toInt else 0, ref := b.refr.toNat, spk := true }
        (s.modEv tile fun e => e.setNeuron bi n x.word).fanOut tile n t b

/-- Delivers the first event of the queue (R247, R249). -/
def State.deliverNext (s : State) (tile : Nat) : State × Bool :=
  match (s.evOf tile).queue with
  | [] => (s, false)
  | x :: rest =>
    let s := s.modEv tile fun e => { e with queue := rest }
    let ts := evTs x.word
    if ts < (s.evOf tile).t then
      (s.modEv tile fun e => { e with late := e.late + 1 }).deliverAt tile x.word (s.evOf tile).t
    else (s.modEv tile fun e => e.moveT ts).deliverAt tile x.word ts

/-- Up to n deliveries of events below a bound, while no fan-out event waits (R247, R254). -/
def State.deliverSome (s : State) (tile bound : Nat) : Nat → State × Bool
  | 0 => (s, false)
  | n + 1 =>
    let e := s.evOf tile
    match e.queue with
    | x :: _ =>
      if e.pendingFan.isEmpty && evTs x.word < bound then
        match s.deliverNext tile with
        | (s, true) => (s, true)
        | (s, false) => State.deliverSome (s.flushFan tile 65536) tile bound n
      else (s, false)
    | [] => (s, false)

/-! ## Commands and their completion (R226, R227) -/

/-- The head command ends with a status; its completion follows. -/
def State.evEnd (s : State) (tile : Nat) (st : Byte) : State :=
  match (s.evOf tile).cmds with
  | q :: _ => s.atTile tile 0 .eventJobCompletion ⟨tile, q.core, q.thr⟩ { n := q.id, m := st.toNat }
  | [] => s

/-- EVENT_JOB_COMPLETION (R204, R226, R228). Operands: job, status. -/
def execEventJobCompletion (s : State) : Out :=
  let tile := s.cur.tile
  let st : Byte := BitVec.ofNat 8 s.arg.m
  .next (match (s.evOf tile).cmds with
    | [] => s
    | q :: rest =>
      if q.id ≠ s.arg.n then s
      else
        let s := s.modEv tile fun e => { e with cmds := rest, active := false, run := none, fpend := none, wrote := 0 }
        let s := s.modCore tile q.core fun c => { c with evDone := BitVec.ofNat 16 q.id, evFail := c.evFail.note st q.id }
        let s := s.modTile tile fun t => { t with watchdog := 0 }
        let l := s.launch tile
        if st = 0x09 then s.fence l.part l.ctx 0x01 (192 + q.core.val) tile (s.tile tile).ueAt q.id else s)

/-- A table base of ev.cfg: the failing status, or 0 (R245). -/
def tableBase (x : W32) (align : Nat) : Byte := if x.toNat / 2 ^ 21 ≠ 0 then 0x02 else if x.toNat % align ≠ 0 then 0x04 else 0

/-- Every state of a bank becomes 0 with last at T (R245). -/
def EvEngine.clearBank (e : EvEngine) (b : Nat) : EvEngine :=
  (List.range 8192).foldl (fun e n => e.setNeuron b n (BitVec.ofNat 64 (e.t % 2 ^ 16 * 2 ^ 32))) e

/-- ev.cfg (R245). -/
def execEvCfg (flags : BitVec 16) (ops : BitVec 192) (s : State) : Out :=
  let tile := s.cur.tile
  let f (o n : Nat) : Nat := (ops.extractLsb' o n).toNat
  let wbase : W32 := ops.extractLsb' 128 32
  let fbase : W32 := ops.extractLsb' 160 32
  let theta : W32 := ops.extractLsb' 64 32
  .next (if (s.evOf tile).cmds.isEmpty then s
    else if f 2 30 ≠ 0 ∨ f 33 7 ≠ 0 then s.evEnd tile 0x02
    else if 16 < f 40 5 then s.evEnd tile 0x12
    else if f 45 3 ≠ 0 ∨ f 53 3 ≠ 0 then s.evEnd tile 0x02
    else if theta.toInt ≤ 0 then s.evEnd tile 0x12
    else if f 96 16 ≠ 0 then s.evEnd tile 0x02
    else if tableBase wbase 4 ≠ 0 then s.evEnd tile (tableBase wbase 4)
    else if tableBase fbase 8 ≠ 0 then s.evEnd tile (tableBase fbase 8)
    else
      let b : EvBank := { fbase := fbase, wbase := wbase, wcount := f 112 16, theta := theta, refr := BitVec.ofNat 8 (f 56 8),
                          k := f 48 5, wshift := f 40 5, reset := f 32 1 == 1 }
      let s := s.modEv tile fun e => { e with banks := e.banks.set (ops.extractLsb' 0 2).toFin b }
      let s := if flags.getLsbD 0 then s.modEv tile fun e => e.clearBank (f 0 2) else s
      s.evEnd tile 0)

/-- ev.inj (R251). -/
def execEvInj (_flags : BitVec 16) (ops : BitVec 192) (s : State) : Out :=
  let tile := s.cur.tile
  let a := ops.extractLsb' 0 64
  let n := (ops.extractLsb' 128 16).toNat
  .next (if (s.evOf tile).cmds.isEmpty then s
    else
      let st := s.ownOperand tile a (8 * min n 4096) 8
      if st ≠ 0 then s.evEnd tile st
      else if ops.extractLsb' 64 64 != 0 then s.evEnd tile 0x02
      else if n = 0 ∨ 4096 < n then s.evEnd tile 0x11
      else if ops.extractLsb' 144 48 != 0 then s.evEnd tile 0x02
      else match s.unitRead tile a (8 * n) kind0or14 with
      | (s, .error e) => s.evEnd tile e.status
      | (s, .ok v) =>
        ((List.range n).foldl (fun s i => s.queueLocal tile (BitVec.ofNat 64 (v / 2 ^ (64 * i)))) s).evEnd tile 0)

/-- The largest τ sampled of a source that both declarations name is kept (R276). -/
def keepTau (old : Option EvDecl) (tau : KMap Nat) (srcs : List (Nat × Nat)) : KMap Nat :=
  match old with
  | none => []
  | some d => tau.filter fun x => (d.srcs.any fun y => y.1 == x.1) && srcs.any fun y => y.1 == x.1

/-- ev.horizon (R252). -/
def execEvHorizon (_flags : BitVec 16) (ops : BitVec 192) (s : State) : Out :=
  let tile := s.cur.tile
  let p := s.part (s.launch tile).part
  let n := (ops.extractLsb' 96 5).toNat
  let dmin := (ops.extractLsb' 104 8).toNat
  let lossbase := (ops.extractLsb' 120 8).toNat
  let list := ops.extractLsb' 128 64
  .next (if (s.evOf tile).cmds.isEmpty then s
    else if ops.extractLsb' 0 96 != 0 then s.evEnd tile 0x02
    else if 16 < n then s.evEnd tile 0x12
    else if ops.extractLsb' 101 3 != 0 then s.evEnd tile 0x02
    else if dmin = 0 then s.evEnd tile 0x12
    else if ops.extractLsb' 112 8 != 0 then s.evEnd tile 0x02
    else if 255 < lossbase + n then s.evEnd tile 0x12
    else
      let st := s.ownOperand tile list (4 * n) 4
      if st ≠ 0 then s.evEnd tile st
      else match s.unitRead tile list (4 * n) kind0or14 with
      | (s, .error e) => s.evEnd tile e.status
      | (s, .ok v) =>
        let srcs := (List.range n).map fun i => (v / 2 ^ (32 * i) % 2 ^ 16, v / 2 ^ (32 * i + 16) % 2 ^ 8)
        if srcs.any fun x => !p.hasTile x.1 then s.evEnd tile 0x13
        else (s.modEv tile fun e => { e with
          tau := keepTau e.decl e.tau srcs, decl := some { srcs := srcs, lossbase := lossbase, dmin := dmin } }).evEnd tile 0)

/-- H: the least τ + dmin of the declared sources; none: unbounded (R252). -/
def EvEngine.horizon (e : EvEngine) : Option Nat :=
  match e.decl with
  | none => none
  | some d => (d.srcs.map fun x => e.tau.getD x.1 0 + d.dmin).foldl (fun h x => match h with
    | none => some x
    | some y => some (min x y)) none

/-- A sample of a source has come, or will not be waited for (R252, R254). -/
def EvEngine.sampled (e : EvEngine) (ix : Nat) (tau : Option Nat) : EvEngine :=
  match e.run, e.decl with
  | some (.sampling left top), some d =>
    if !left.contains ix then e
    else
      let e := { e with run := some (.sampling (left.filter (· != ix)) top) }
      match tau, d.srcs[ix]? with
      | some x, some src => { e with tau := e.tau.set src.1 (max x (e.tau.getD src.1 0)) }
      | _, _ => e
  | _, _ => e

/-- Samples each declared source's time cell, once; one of the own tile 4 cycles later, after the posts of that cycle (R191, R254). -/
def State.sampleSources (s : State) (tile : Nat) : State :=
  let e := s.evOf tile
  let srcs := match e.decl with
    | some d => d.srcs
    | none => []
  let late (f : SampFor) : SampFor := match f with
    | .source _ _ => .gone
    | f => f
  let s := s.modCopy tile fun c => { c with samples := c.samples.map fun x => (x.1, late x.2) }
  let s := s.modEv tile fun e => { e with run := some (.sampling (List.range srcs.length) (e.queue.getLast?.map fun x => evTs x.word)) }
  (srcs.zipIdx).foldl (fun s (x, ix) =>
    let (ref, s) := s.takeRef tile
    let s := s.modCopy tile fun c => { c with samples := c.samples.set ref (.source ix (s.now tile)) }
    if x.1 = tile then s.atTile tile 4 .sampleRequest ⟨tile, 0, 0⟩ { n := x.2, m := tile, w := BitVec.ofNat 64 ref, ok := true } true
    else
      let s := s.sendFlit tile { flit := s.mkFlit tile 0 x.1 ref (.sampleReq x.2 true) }
      s.atTile tile 4096 .timeCellSampleTimeout ⟨tile, 0, 0⟩ { n := ref, m := s.now tile } true) s

/-- ev.run: the samples, then up to four deliveries per cycle below the bound, then T (R247, R254). -/
def execEvRun (flags : BitVec 16) (ops : BitVec 192) (s : State) : Out :=
  let tile := s.cur.tile
  let lim := flags.getLsbD 0
  let again (s : State) (n : Nat) : State := s.atTile tile n (.evRun flags ops) s.cur
  .next (match (s.evOf tile).cmds with
    | [] => s
    | _ :: _ =>
      match (s.evOf tile).run with
      | none => if ops.extractLsb' 24 168 != 0 then s.evEnd tile 0x02 else s.sampleSources tile
      | some (.sampling (_ :: _) _) => s
      | some (.sampling [] top) =>
        let h := (s.evOf tile).horizon
        let l := (ops.extractLsb' 0 24).toNat
        let bound := match h, lim with
          | some x, true => min x l
          | some x, false => x
          | none, true => l
          | none, false => match top with
            | some x => x + 1
            | none => (s.evOf tile).t
        again (s.modEv tile fun e => { e with h := h, run := some (.running bound) }) 1
      | some (.running bound) =>
        -- a save ends the delivery in progress (R394 step 3)
        if (s.tile tile).frozen then s else
        match (s.flushFan tile 65536).deliverSome tile bound 4 with
        | (s, true) => (s.modEv tile fun e => { e with pendingFan := [] }).evEnd tile 0x09
        | (s, false) =>
          let e := s.evOf tile
          let more := match e.queue with
            | x :: _ => evTs x.word < bound
            | [] => false
          if more || !e.pendingFan.isEmpty then again s 1
          else s.modEv tile fun e => { (e.moveT (min (max e.t bound) (2 ^ 24 - 1))) with run := some .draining }
      | some .draining => s)

/-- TIME_CELL_SAMPLE_TIMEOUT: no reply within 4,096 cycles; one that comes later is discarded (R254). Operands: reference, the
cycle of the request. -/
def execTimeCellSampleTimeout (s : State) : Out :=
  let tile := s.cur.tile
  .next (match (s.copyUnit tile).samples.get? s.arg.n with
    | some (.source ix at_) =>
      if at_ = s.arg.m then
        (s.modCopy tile fun c => { c with samples := c.samples.set s.arg.n .gone }).modEv tile fun e => e.sampled ix none
      else s
    | _ => s)

/-- Writes the next n states of an ev.read from where it stands (R241, R255). Answers what stopped it. -/
def State.readStates (s : State) (tile : Nat) (q : QCmd) (b first : Nat) (dest : Word) : Nat → State × Option UErr
  | 0 => (s, none)
  | n + 1 =>
    let i := (s.evOf tile).wrote
    let x := (s.evOf tile).neuron b (first + i)
    match s.unitWrite tile (dest + BitVec.ofNat 64 (8 * i)) (natToBytes 8 x.toNat) kind0or14
        (some (cmdSrc tile 3 q.core.val q.id)) with
    | (s, some e) => (s, some e)
    | (s, none) => State.readStates (s.modEv tile fun e => { e with wrote := i + 1 }) tile q b first dest n

/-- ev.read: the states are written in neuron order, then their sticky bits cleared if asked (R255). -/
def execEvRead (flags : BitVec 16) (ops : BitVec 192) (s : State) : Out :=
  let tile := s.cur.tile
  let b := (ops.extractLsb' 64 2).toNat
  let first := (ops.extractLsb' 96 13).toNat
  let count := (ops.extractLsb' 112 16).toNat
  let dest := ops.extractLsb' 128 64
  .next (match (s.evOf tile).cmds with
    | [] => s
    | q :: _ =>
      if ops.extractLsb' 0 64 != 0 || ops.extractLsb' 66 30 != 0 || ops.extractLsb' 109 3 != 0 then s.evEnd tile 0x02
      else if count = 0 ∨ 8192 < first + count then s.evEnd tile 0x11
      else match s.unitCheck tile dest (8 * count) kind0or14 with
      | some e => s.evEnd tile e.status
      | none =>
        if dest.toNat % 8 ≠ 0 then s.evEnd tile 0x04
        else
          match s.readStates tile q b first dest (count - (s.evOf tile).wrote) with
          | (s, some (.page va)) =>
            let (s, f) := s.pendFault tile (128 + q.core.val) 1 va q.id (8 * (s.evOf tile).wrote)
            (s.modEv tile fun e => { e with fpend := some f, active := false }).engFault tile q va
          | (s, some e) => s.evEnd tile e.status
          | (s, none) =>
            let clr : Word := ~~~(0x0300_0000_0000_0000 : Word)
            let s := if flags.getLsbD 0 then
                s.modEv tile fun e => (List.range count).foldl (fun e i => e.setNeuron b (first + i) (e.neuron b (first + i) &&& clr)) e
              else s
            s.evEnd tile 0)

/-- The head command starts, goes on once its samples are in, or completes once its remote events are answered (R226,
R254). -/
def State.pollEv (s : State) (tile : Nat) : State × Bool :=
  let e := s.evOf tile
  match e.cmds with
  | [] => (s, false)
  | q :: _ =>
    let go (s : State) : State := match decodeTWord q.word with
      | .ok i => s.atTile tile 0 i ⟨tile, q.core, q.thr⟩
      | .error _ => s
    if !e.active then
      if e.fpend.isSome then (s, false) else (go (s.modEv tile fun e => { e with active := true }), true)
    else match e.run with
    | some (.sampling [] _) => (go s, true)
    | some .draining =>
      if e.remote = 0 then ((s.modEv tile fun e => { e with run := none }).evEnd tile 0, true) else (s, false)
    | _ => (s, false)

/-- SAMPLE_REPLY: a snapshot or a refusal reaches its sampler (R191, R254). Operands: reference, whether refused, data. -/
def execSampleReply (s : State) : Out :=
  let tile := s.cur.tile
  let ref := s.arg.n
  let got (f : SampFor) (s : State) : State :=
    match f with
    | .thread c h op =>
      let r : ThreadRef := ⟨tile, c, h⟩
      match (s.thread r).op? op with
      | some o =>
        match o.cond with
        | .sample tag _ _ d tp =>
          if tag ≠ ref then s
          else if s.arg.ok then s.resolve r o (snapWrites d tp s.arg.d)
          else (s.modCopy tile fun c => { c with rsmp := c.rsmp + 1 }).resolve r o { p := [(tp, true)] }
        | _ => s
      | none => s
    | .gone => s
    | .source ix _ =>
      let tau := (s.arg.d.extractLsb' 0 24).toNat
      s.modTile tile fun t => { t with ev := t.ev.sampled ix (if s.arg.ok then some tau else none) }
  .next (match (s.copyUnit tile).samples.get? ref with
    | none => s
    | some f => got f (s.modCopy tile fun c => { c with samples := c.samples.erase ref }))

end Sys2Proof.Machine
end

