-- ==== Sys2Proof/Machine/Fabric.lean ====
section
/-!
DEFINITION. The Vokan fabric inside the module: routers, injection, ingress and age (spec/17 R347 to R358, spec/09 R263, spec/21 R418).
-/
namespace Sys2Proof.Machine

/-! ## Topology (R347, R356) -/

/-- Ports of a router: 0 N, 1 E, 2 S, 3 W, 4 V. N lowers gy, S raises it, E raises gx, W lowers it (log 21). -/
def portN : Nat := 0
def portE : Nat := 1
def portS : Nat := 2
def portW : Nat := 3
def portV : Nat := 4

/-- The wraparound of a dimension is used only by a partition that spans all of it (R356). -/
def Part.wrapX (p : Part) : Bool := p.width == 128
def Part.wrapY (p : Part) : Bool := p.height == 40

/-- One step along a dimension of n positions from lo; none where the port is absent. -/
def stepDim (wrap : Bool) (lo n at_ : Nat) (up : Bool) : Option Nat :=
  let o := at_ - lo
  if up then if o + 1 < n then some (at_ + 1) else if wrap then some lo else none
  else if 0 < o then some (at_ - 1) else if wrap then some (lo + n - 1) else none

/-- The router that a port leads to, in the partition's topology (R347, R356). V leads to the other router of the tile. -/
def Part.neighbour (p : Part) (tile port : Nat) : Option Nat :=
  let x0 := 4 * p.sc0
  let y0 := 20 * p.sr0
  let gx := gxOf tile
  let gy := gyOf tile
  if port = portE then (stepDim p.wrapX x0 p.width gx true).map fun x => tileAt x gy
  else if port = portW then (stepDim p.wrapX x0 p.width gx false).map fun x => tileAt x gy
  else if port = portS then (stepDim p.wrapY y0 p.height gy true).map fun y => tileAt gx y
  else if port = portN then (stepDim p.wrapY y0 p.height gy false).map fun y => tileAt gx y
  else some tile

/-- Whether going up (else down) shortens the distance in a dimension (R351). -/
def shortens (wrap : Bool) (n at_ dst : Nat) (up : Bool) : Bool :=
  if at_ == dst then false
  else if wrap then
    let fwd := (dst + n - at_) % n
    if up then 2 * fwd ≤ n else n ≤ 2 * fwd
  else if up then at_ < dst else dst < at_

/-- A productive port of a flit at a tile (R351); V never is. -/
def Part.productive (p : Part) (tile dst port : Nat) : Bool :=
  if port = portE then shortens p.wrapX p.width (gxOf tile) (gxOf dst) true
  else if port = portW then shortens p.wrapX p.width (gxOf tile) (gxOf dst) false
  else if port = portS then shortens p.wrapY p.height (gyOf tile) (gyOf dst) true
  else if port = portN then shortens p.wrapY p.height (gyOf tile) (gyOf dst) false
  else false

/-- Fabric cycles of a hop: 6 across a deck edge, else 1 (R347). -/
def hopTime (a b : Nat) : Nat := if deckOf a = deckOf b then 1 else 6

/-- The input port at which a flit that leaves by a port arrives. -/
def facing (port : Nat) : Nat := if port = portV then portV else (port + 2) % 4

/-! ## Headers (R348, R349) -/

/-- The kind of a flit (R349). -/
def FlitMsg.kind : FlitMsg → Nat
  | .post _ _ _ _ => 1
  | .chanReg _ _ => 1
  | .sampleReq _ _ => 1
  | .sampleRep _ => 1
  | .readReq _ _ => 1
  | .lineReq _ => 1
  | .fanout _ _ => 1
  | .mcastDone _ _ _ => 1
  | .req _ => 2
  | .pfx _ _ _ => 3
  | .data _ _ _ _ => 4
  | .rdata _ _ => 5
  | .ack _ => 6
  | .gateAck _ _ => 6
  | .mcastDest _ _ _ _ _ => 7
  | .mcastData _ _ _ => 7
  | .mcastHead _ _ _ _ _ => 7
  | .mcastLine _ _ _ => 7
  | .reserved => 0

/-- The 22 bits of a flit's reference (R349). The flit index of an MCAST flit is 8 times the channel, or the gateway's number of the
write, plus 0 for the head and 1 to 4 for a line (log 102). -/
def Flit.refBits (f : Flit) : BitVec 22 :=
  let own (low : Nat) : BitVec 22 := BitVec.ofNat 22 (f.src % 2 ^ 13 * 2 ^ 9 + low % 2 ^ 9)
  match f.msg with
  | .req r => own (r.chan % 64 * 8)
  | .pfx tag ix _ => own (tag % 64 * 8 + ix % 8)
  | .data e g ix _ => BitVec.ofNat 22 (e % 2 ^ 8 * 2 ^ 14 + g % 16 * 2 ^ 10 + ix % 8 * 2 ^ 7)
  | .rdata _ _ => BitVec.ofNat 22 (f.ref % 2 ^ 9)
  | .gateAck n _ => own (8 * n)
  | .mcastDest n _ _ _ _ => own (8 * n)
  | .mcastData n ix _ => own (8 * n + ix + 1)
  | .mcastHead k _ _ _ _ => own (8 * k)
  | .mcastLine k ix _ => own (8 * k + ix + 1)
  | _ => own f.ref

/-- The 8-byte header of a flit (R348). -/
def Flit.header (f : Flit) : Word :=
  BitVec.ofNat 64 (f.age % 2 ^ 16 * 2 ^ 48 + f.cls % 4 * 2 ^ 46 + f.msg.kind * 2 ^ 43 + f.dst % 2 ^ 13 * 2 ^ 30 + f.slot % 16 * 2 ^ 26
    + f.epoch % 16 * 2 ^ 22 + f.refBits.toNat)

/-- A message that a reply or an acknowledgement answers. -/
def FlitMsg.asks : FlitMsg → Bool
  | .post _ _ _ _ => true
  | .chanReg _ _ => true
  | .sampleReq _ _ => true
  | .readReq _ _ => true
  | .lineReq _ => true
  | .fanout _ _ => true
  | _ => false

/-- The reference that a tile gives next: of 9 bits, and none that stands for something outstanding (R349). -/
def CopyUnit.freeRef (c : CopyUnit) : Option Nat :=
  ((List.range 512).map fun i => (c.refAt + i) % 512).find? fun n => !c.refs.has n

/-! ## Routers (R351, R352) -/

def routerKey (tile : Nat) (cache : Bool) : Nat := 2 * tile + if cache then 1 else 0
def State.router (s : State) (tile : Nat) (cache : Bool) : RouterUse := s.routers.getD (routerKey tile cache) {}
def State.modRouter (s : State) (tile : Nat) (cache : Bool) (f : RouterUse → RouterUse) : State :=
  { s with routers := s.routers.set (routerKey tile cache) (f (s.router tile cache)) }

/-- A flit that arrives before another in the order of R351. -/
def Hop.before (a b : Hop) : Bool :=
  b.flit.age < a.flit.age || (a.flit.age == b.flit.age && (a.flit.cls < b.flit.cls ||
    (a.flit.cls == b.flit.cls && a.port < b.port)))

def insertHop (h : Hop) : List Hop → List Hop
  | [] => [h]
  | x :: xs => if h.before x then h :: x :: xs else x :: insertHop h xs

/-- A post for the cell array's intake. -/
def Flit.isPost (f : Flit) : Bool :=
  match f.msg with
  | .post _ _ _ _ => true
  | _ => false

/-- The intake cannot take another post: the ejection port is busy for posts (R263). -/
def Tile.intakeBusy (t : Tile) : Bool := 8 ≤ t.intake.length + (t.copy.ingress.filter Flit.isPost).length

/-- A flit for the gateway port of its strip (R367). -/
def Flit.toGate (f : Flit) : Bool :=
  match f.msg with
  | .mcastHead _ _ _ _ _ => true
  | .mcastLine _ _ _ => true
  | .gateAck _ _ => true
  | _ => false

/-- Whether a router may eject a flit now (R263, R351, R352), to the copy unit or, on the cache plane, to the gateway port
(R367). -/
def State.mayEject (s : State) (tile : Nat) (cache : Bool) (f : Flit) : Bool :=
  f.dst == tile && if f.toGate then cache && !(s.router tile cache).gateOut
    else !(s.router tile cache).ejected && !(f.isPost && (s.tile tile).intakeBusy)

/-- The flit leaves by a port and arrives at the next router (R347). -/
def State.hop (s : State) (tile : Nat) (cache : Bool) (port : Nat) (f : Flit) : State :=
  match (s.part f.part).neighbour tile port with
  | none => s
  | some t =>
    let h : Hop := ⟨t, if port = portV then !cache else cache, facing port, s.clock + hopTime tile t, f⟩
    { (s.modRouter tile cache fun r => { r with out := r.out ++ [port] }) with hops := s.hops ++ [h] }

/-- The first free port of a list that exists and passes a test. -/
def State.freePort (s : State) (tile : Nat) (cache : Bool) (f : Flit) (order : List Nat) (ok : Nat → Bool) : Option Nat :=
  order.find? fun q => ok q && !(s.router tile cache).out.contains q && ((s.part f.part).neighbour tile q).isSome

/-- A free productive port, in the order E, W, S, N (R351). -/
def State.productivePort (s : State) (tile : Nat) (cache : Bool) (f : Flit) : Option Nat :=
  s.freePort tile cache f [portE, portW, portS, portN] ((s.part f.part).productive tile f.dst)

/-- A flit carries the ctag that its context has now (R357, R376). -/
def State.tagLive (s : State) (f : Flit) : Bool := (s.ctx f.part f.slot).epoch.toNat % 16 == f.epoch

/-- The place of a number of an own member's write among the references of a gateway. -/
def ownNum (n : Nat) : Nat := 2 ^ 20 + n

/-- A flit of a copy joins the others that have come, or is the first (R372). -/
def Gateway.takePart (g : Gateway) (new : McCopy) (same : McCopy → Bool) (add : McCopy → McCopy) : Gateway :=
  if g.arrived.any same then { g with arrived := g.arrived.map fun x => if same x then add x else x }
  else { g with arrived := g.arrived ++ [add new] }

/-- A flit leaves the fabric by a gateway port: with an old ctag or a saturated age it is dropped and counted; else a part of a
copy.mcast joins its copy, and an answer goes to its wait (R357, R367, R372, R373, R376). -/
def State.gateTake (s : State) (f : Flit) : State :=
  if 0xFFFF ≤ f.age then s.modPart f.part fun p => { p with stale := p.stale + 1 }
  else if !s.tagLive f then s.modPart f.part fun p => { p with ctagdrop := p.ctagdrop + 1 }
  else
    let new (k : Nat) : McCopy :=
      { part := f.part, slot := f.slot, epoch := (s.ctx f.part f.slot).epoch.toNat, cls := f.cls, src := s.gw.me, tile := f.src, chan := k }
    let same (k : Nat) (c : McCopy) : Bool :=
      c.link.isNone && c.part == f.part && c.slot == f.slot && c.tile == f.src && c.chan == k && c.epoch % 16 == f.epoch
    match f.msg with
    | .mcastHead k x g o n =>
      { s with gw := s.gw.takePart (new k) (same k) fun c =>
          { c with xid := x, age := f.age, group := g, offset := o, count := some n } }.atRef 0 .mcastCopyArrival
    | .mcastLine k i d =>
      { s with gw := s.gw.takePart (new k) (same k) fun c => { c with lines := c.lines ++ [(i, d, f.age)] } }.atRef 0 .mcastCopyArrival
    | .gateAck n why =>
      match s.gw.nums.get? (ownNum n) with
      | some id => s.atRef 0 .mcastAck ⟨f.src, 0, 0⟩ { n := id, m := why, ok := true }
      | none => s
    | _ => s

/-- Takes a flit out of a router at its destination: the copy unit, or the gateway port on the cache plane (R351, R367). -/
def State.eject (s : State) (tile : Nat) (cache : Bool) (f : Flit) : State :=
  if f.toGate then (s.modRouter tile cache fun r => { r with gateOut := true }).gateTake f
  else (s.modRouter tile cache fun r => { r with ejected := true }).modCopy tile fun c => { c with ingress := c.ingress ++ [f] }

/-- Routes one arriving flit (R351). A flit for a gateway port changes to the cache plane at its tile (R367). -/
def State.routeFlit (s : State) (tile : Nat) (cache : Bool) (f : Flit) : State :=
  if s.mayEject tile cache f then s.eject tile cache f
  else match (if f.toGate && f.dst == tile && !cache then s.freePort tile cache f [portV] fun _ => true
      else s.productivePort tile cache f) with
  | some q => s.hop tile cache q f
  | none =>
    match s.freePort tile cache f [portN, portE, portS, portW, portV] fun _ => true with
    | some q => s.hop tile cache q f
    | none => s

/-- Whether a flit has arrived at a router. -/
def State.arrivedAt (s : State) (tile : Nat) (cache : Bool) (h : Hop) : Bool :=
  h.tile == tile && h.cache == cache && h.at_ ≤ s.clock

/-- FLIT_ROUTE: a router routes the flits of a fabric cycle (R351). One whose header or payload cannot be corrected is
dropped and counted (R418). Operands: plane (1: cache plane); with ok = false the flit, by its place in the order. -/
def execFlitRoute (s : State) : Out :=
  let tile := s.cur.tile
  let cache := s.arg.n == 1
  let mine := (s.hops.filter (s.arrivedAt tile cache)).foldl (fun acc h => insertHop h acc) []
  let s := { s with hops := s.hops.filter fun h => !s.arrivedAt tile cache h }
  let bad := if s.arg.ok then none else mine[s.arg.m]?
  let s := match bad with
    | some h => s.modPart h.flit.part fun p => { p with fabue := p.fabue + 1 }
    | none => s
  .next ((mine.filter fun h => some h != bad).foldl (fun s h => s.routeFlit tile cache h.flit) s)

/-! ## Injection (R352) -/

/-- A core's place in the rotation after the core served last; what belongs to no core comes last. -/
def rotation (last : Fin 8) : Option (Fin 8) → Nat
  | some c => (c.val + 7 - last.val) % 8
  | none => 8

/-- A flit of the copy unit's that comes before another: class 0, then priority, then the rotation over cores, then order of
readiness (R198, R352). -/
def Inject.before (last : Fin 8) (a b : Inject) : Bool :=
  if (a.flit.cls == 0) != (b.flit.cls == 0) then a.flit.cls == 0
  else if a.prio ≠ b.prio then b.prio < a.prio
  else rotation last a.core < rotation last b.core

/-- The flit that a router takes next: the first, in order, that has a free productive port, and a free reference where it asks for an
answer. One for the own tile needs no port. -/
def State.nextInject (s : State) (tile : Nat) (cache : Bool) : Option Inject :=
  let last := (s.copyUnit tile).irot
  let free := (s.copyUnit tile).freeRef.isSome
  ((s.copyUnit tile).inj.filter fun x => (free || !x.flit.msg.asks) && if x.flit.dst == tile then !x.flit.toGate || cache
      else (s.productivePort tile cache x.flit).isSome).foldl
    (fun best x => match best with
      | none => some x
      | some b => if x.before last b then some x else some b) none

/-- FLIT_INJECT: the copy unit injects a flit, which leaves its buffer and takes a reference if it asks for an answer (R349, R350,
R352, R359). Operand: plane. -/
def execFlitInject (s : State) : Out :=
  let tile := s.cur.tile
  let cache := s.arg.n == 1
  .next (if (s.router tile cache).injected then s
    else match s.nextInject tile cache with
    | none => s
    | some x =>
      let ref := (s.copyUnit tile).freeRef.getD 0
      let f := if x.flit.msg.asks then { x.flit with ref := ref } else x.flit
      let s := if x.flit.msg.asks then s.modCopy tile fun c => { c with refs := c.refs.set ref x.flit.ref, refAt := (ref + 1) % 512 } else s
      let s := s.modCopy tile fun c => { c with
        inj := eraseOne x c.inj
        irot := x.core.getD c.irot
        tags := match x.flit.msg with
          | .pfx tag _ _ => c.tags.set tag s.clock
          | _ => c.tags }
      let s := s.modRouter tile cache fun r => { r with injected := true }
      if x.flit.dst = tile then
        (if f.toGate then s.gateTake f else s.modCopy tile fun c => { c with ingress := c.ingress ++ [f] })
      else match s.productivePort tile cache f with
        | some q => s.hop tile cache q f
        | none => s)

/-- The flit that a gateway port puts into the fabric next: class 0 first, at a cache-plane router with a free productive port
(R351, R367). -/
def State.nextGate (s : State) : Option Flit :=
  let ready := s.gw.out.filter fun f => !(s.router f.src true).gateIn &&
    (f.dst == f.src || (s.productivePort f.src true f).isSome)
  match ready.find? fun f => f.cls == 0 with
  | some f => some f
  | none => ready.head?

/-- Gateway ports put flits into the fabric, as many as they can in a fabric cycle. -/
def State.gateInject (s : State) : Nat → State × Bool
  | 0 => (s, false)
  | k + 1 =>
    match s.nextGate with
    | none => (s, false)
    | some f =>
      let s := { s with gw := { s.gw with out := eraseOne f s.gw.out } }
      let s := s.modRouter f.src true fun r => { r with gateIn := true }
      let s := if f.dst = f.src then s.modCopy f.dst fun c => { c with ingress := c.ingress ++ [f] }
        else match s.productivePort f.src true f with
          | some q => s.hop f.src true q f
          | none => s
      ((State.gateInject s k).1, true)

/-! ## Age (R350) -/

/-- Adds one to an age, which saturates. -/
def olderAge (a : Nat) : Nat := min 0xFFFF (a + 1)
def GwFlit.older (f : GwFlit) : GwFlit := { f with age := olderAge f.age }

def Flit.older (f : Flit) : Flit := { f with age := olderAge f.age }
def Wire.older : Wire → Wire
  | .flit f => .flit f.older
  | w => w

/-- FLIT_AGE_TICK: a boundary of 64 reference ticks passes: what routers and crossings, gateway buffers and links hold grows
older (R350). -/
def execFlitAgeTick (s : State) : Out :=
  .next { s with
    hops := s.hops.map fun h => { h with flit := h.flit.older }
    gw := { s.gw with
      links := s.gw.links.map fun l => (l.1, { l.2 with egress := l.2.egress.map GwFlit.older })
      wait := s.gw.wait.map fun x => (x.1, x.2.1, x.2.2.older)
      arrived := s.gw.arrived.map fun x => { x with age := olderAge x.age, lines := x.lines.map fun l => (l.1, l.2.1, olderAge l.2.2) }
      out := s.gw.out.map Flit.older
      wire := s.gw.wire.map fun x => (x.1, x.2.older) } }

/-! ## Ingress (R357) -/

/-- The ctag matches the context that the tile runs (R348, R357); that of no context does at a tile without a launch (log 27). A line
request, and a multicast for a global window, are for the slice, whatever the tile runs, while their context keeps its epoch
(DEDUCED, R274, R376, log 22). -/
def State.ctagOk (s : State) (tile : Nat) (f : Flit) : Bool :=
  let running := match (s.tile tile).launch with
    | none => false
    | some l => l.part == f.part && l.ctx % 16 == f.slot && s.tagLive f
  match f.msg with
  | .lineReq _ => s.tagLive f
  | .mcastDest n _ _ _ _ => if 32 ≤ n then s.tagLive f else running
  | .mcastData n _ _ => if 32 ≤ n then s.tagLive f else running
  | _ => running

/-- A flit joins those whose step comes next. -/
def State.accept (s : State) (tile : Nat) (f : Flit) (i : Instr) : State :=
  (s.modCopy tile fun c => { c with accepted := c.accepted ++ [f] }).atTile tile 0 i

/-- Reasons of R218. -/
def rREVOKED : Nat := 1
def rNOEXPORT : Nat := 2
def rUNREACHABLE : Nat := 3
def rFAULT : Nat := 4
def rEPOCH : Nat := 5

/-- A line of a multicast is written, by a tile's copy unit or at a home slice, unless its window has been revoked or the tile's
launch does not export it; the reason of a failure, or 0 (R200, R371, R373, R416; log 103). -/
def State.mcastPut (s : State) (tile : Nat) (x : McIn) (dest : Word) (win : Nat) (by_ : StoreSrc) (data : BitVec 512) : State × Nat :=
  let revoked := match (s.part x.part).windows.get? win with
    | some e => e.getLsbD 97
    | none => false
  if revoked then (s, rREVOKED)
  else if isGlobal dest then
    let places := (List.range 64).map fun i =>
      let va := dest + BitVec.ofNat 64 i
      (va, match s.walkVA x.part x.slot va with
        | .ok t => (match (s.part x.part).apply t va false true with
          | .ok pa => some pa
          | _ => none)
        | .error _ => none)
    if places.any fun p => p.2.isNone then (s, rFAULT)
    else
      -- the writing tile's own copies of the lines leave its cache first (R200)
      let mine : Bool := match (s.tile tile).launch with
        | some l => l.part == x.part && l.ctx % 16 == x.slot
        | none => false
      let s := if mine then (s.leaveLine tile dest).leaveLine tile (dest + 63) else s
      let home (a : Word) : Nat := (s.part x.part).homeTile (lineIx a)
      let s := (places.zip (lineBytes data)).foldl (fun s p => match p.1.2 with
        | some pa => s.sliceWrite (home p.1.1) x.part x.slot (pa / 64) (pa % 64) 1 p.2.toNat
        | none => s) s
      let k := 64 - dest.toNat % 64
      let note (s : State) (a : Word) (n : Nat) : State := s.noteWrite (home a) x.part by_ (slicePorts a n)
      (if k < 64 then note (note s dest k) (dest + BitVec.ofNat 64 k) (64 - k) else note s dest 64, 0)
  else if !(s.launch tile).exports (amKind dest) then (s, rNOEXPORT)
  else match s.unitWrite tile dest (lineBytes data) kind0or14 (some by_) with
  | (s, none) => (s, 0)
  | (s, some _) => (s, rFAULT)

/-- A line of a multicast whose head is there is written, and the gateway is answered (R372, R373). -/
def State.mcastWrite (s : State) (tile : Nat) (x : McIn) (ix : Nat) (data : BitVec 512) : State :=
  match x.head with
  | none => s
  | some (_, win, dest, by_) =>
    let (s, why) := s.mcastPut tile x (dest + BitVec.ofNat 64 (64 * ix)) win by_ data
    s.sendFlit tile { flit := { age := startAge 0, cls := 0, dst := x.port, part := x.part, slot := x.slot, epoch := x.epoch, src := tile,
                                ref := 0, msg := .gateAck x.num why } }

/-- A flit of a multicast reaches its tile or slice: lines are written once the head is there (R372; log 103). -/
def State.mcastTake (s : State) (tile : Nat) (f : Flit) (num : Nat) (add : McIn → McIn) : State :=
  let same (x : McIn) : Bool := x.port == f.src && x.num == num && x.part == f.part && x.slot == f.slot && x.epoch == f.epoch
  let c := s.copyUnit tile
  let x := add ((c.mcin.find? same).getD { port := f.src, num := num, part := f.part, slot := f.slot, epoch := f.epoch })
  let rest := c.mcin.filter fun y => !same y
  match x.head with
  | none => s.modCopy tile fun c => { c with mcin := rest ++ [x] }
  | some (n, _) =>
    let s := x.early.foldl (fun s l => s.mcastWrite tile x l.1 l.2) s
    let x := { x with early := [], done := x.done + x.early.length }
    s.modCopy tile fun c => { c with mcin := if n ≤ x.done then rest else rest ++ [x] }

/-- The acknowledgement record has come back to the tile of a copy.mcast: it is written in one action and the command
ends (R217, R218, R373). -/
def State.mcastFinish (s : State) (tile k xid : Nat) (record : BitVec 320) : State :=
  match ((s.copyUnit tile).chan k).run with
  | none => s
  | some r =>
    if r.q.id ≠ xid then s
    else
      let (s, e) := s.unitWrite tile (r.q.word.extractLsb' 128 64) (lineBytes (record.setWidth 512)) kind0or14 (some (cmdSrc tile 1 k xid))
      match e with
      | some e => s.finishCopy tile k e.status
      | none => s.finishCopy tile k 0

/-- A reply has come for a reference: the number that it stands for, and the reference is free (R349, R376). -/
def State.takeReply (s : State) (tile ref : Nat) : Option (Nat × State) :=
  ((s.copyUnit tile).refs.get? ref).map fun n => (n, s.modCopy tile fun c => { c with refs := c.refs.erase ref })

/-- A flit that has passed the checks is taken (R349). -/
def State.takeFlit (s : State) (tile : Nat) (f : Flit) : State :=
  let l := s.launch tile
  let reply (go : State → Nat → State) : State := match s.takeReply tile f.ref with
    | some (n, s) => go s n
    | none => s
  match f.msg with
  | .post cell v act own =>
    if !own && !l.exports 9 then s.sendFlit tile { flit := s.mkFlit tile 0 f.src f.ref (.ack 1) }
    else s.modTile tile fun t => { t with intake := t.intake ++
      [{ at_ := s.now tile, cell := cell, value := v, writer := BitVec.ofNat 16 f.src, act := act, ref := f.ref }] }
  | .chanReg k v =>
    (s.modChan tile k fun c => { c with reg := v, regCount := c.regCount + 1 }).sendFlit tile
      { flit := s.mkFlit tile 0 f.src f.ref (.ack 0) }
  | .sampleReq cell own =>
    -- it sees what performs on the cell in its cycle (R263)
    s.atTile tile 0 .sampleRequest ⟨tile, 0, 0⟩ { n := cell, m := f.src, w := BitVec.ofNat 64 f.ref, ok := own } true
  | .sampleRep x => reply fun s n => s.atTile tile 0 .sampleReply ⟨tile, 0, 0⟩ { n := n, d := x.getD 0, ok := x.isSome }
  | .readReq _ _ => s.accept tile f .remoteReadRequest
  | .lineReq _ => s.accept tile f .remoteReadRequest
  | .rdata st d => reply fun s n => s.atTile tile 0 .readReply ⟨tile, 0, 0⟩ { n := n, m := st.toNat, d := d }
  | .fanout w num =>
    s.atTile tile 0 .eventIntake ⟨tile, 0, 0⟩ { w := w, n := f.src, m := num.toNat, d := BitVec.ofNat 512 f.ref, ok := false }
  | .req _ => (s.modCopy tile fun c => { c with accepted := c.accepted ++ [f] }).atTile tile 0 .pullReq ⟨tile, 0, 0⟩ {} true
  | .pfx _ _ _ => s.accept tile f .pullPfx
  | .data _ _ _ _ => s.accept tile f .pullData
  | .ack st => reply fun s n => s.atTile tile 0 .ackReceived ⟨tile, 0, 0⟩ { n := n, m := st.toNat }
  | .mcastDest n k w a b => s.mcastTake tile f n fun x => { x with head := some (k, w, a, b), done := 0 }
  | .mcastData n i d => s.mcastTake tile f n fun x => { x with early := x.early ++ [(i, d)] }
  | .mcastDone k xid record => s.mcastFinish tile k xid record
  | _ => s

/-- FLIT_INGRESS: the oldest ejected flit is dropped and counted, or taken (R357, R358). -/
def execFlitIngress (s : State) : Out :=
  let tile := s.cur.tile
  .next (match (s.copyUnit tile).ingress with
    | [] => s
    | f :: rest =>
      let s := s.modCopy tile fun c => { c with ingress := rest }
      if f.msg = .reserved then s.modPart f.part fun p => { p with badkind := p.badkind + 1 }
      else if 0xFFFF ≤ f.age then s.modPart f.part fun p => { p with stale := p.stale + 1 }
      else if !s.ctagOk tile f then s.modPart f.part fun p => { p with ctagdrop := p.ctagdrop + 1 }
      else s.takeFlit tile f)

/-! ## What the fabric does of itself -/

/-- Routers with flits to route, copy units with flits to take in or to inject (R351, R352). -/
def State.pollFabric (s : State) : State × Bool :=
  let due := (s.hops.filter fun h => h.at_ ≤ s.clock).foldl (fun acc h =>
    let k := routerKey h.tile h.cache
    if acc.contains k then acc else acc ++ [k]) []
  if !due.isEmpty then
    (due.foldl (fun s k => s.atRef 0 .flitRoute ⟨k / 2, 0, 0⟩ { n := k % 2 }) s, true)
  else
    -- gateway ports inject into what the cycle's routing leaves (R351)
    let (s, gate) := s.gateInject s.gw.out.length
    s.tiles.foldl (fun (s, any) (tile, t) =>
      let (s, any) := t.copy.ingress.foldl (fun (s, _) _ => (s.atTile tile 0 .flitIngress, true)) (s, any)
      if t.copy.inj.isEmpty then (s, any)
      else [false, true].foldl (fun (s, any) cache =>
        if !(s.router tile cache).injected && (s.nextInject tile cache).isSome then
          (s.atRef 0 .flitInject ⟨tile, 0, 0⟩ { n := if cache then 1 else 0 }, true)
        else (s, any)) (s, any)) (s, gate)

end Sys2Proof.Machine
end

