-- ==== Sys2Proof/Machine/Gateway.lean ====
section
/-!
DEFINITION. Gateways and multicast: scale-up links with their buffers, replay and purges (spec/17 R367 to R369, R375), replication and
acknowledgement (R370 to R373).
-/
namespace Sys2Proof.Machine

/-! ## The pod torus (R367, R368) -/

/-- Coordinate of a module, m = x + 8y + 64z: dimension 0 X, 1 Y, 2 Z (R368). -/
def axis (m dim : Nat) : Nat := m / 8 ^ dim % 8
/-- The dimension of a direction (0 +X, 1 -X, 2 +Y, 3 -Y, 4 +Z, 5 -Z), and its links (R367). -/
def dirDim (d : Nat) : Nat := d / 2
def dirLinks (d : Nat) : List Nat := [4 * d, 4 * d + 1, 4 * d + 2, 4 * d + 3]
/-- Distance from a to b round a ring of 8, in a direction. -/
def ringDist (d a b : Nat) : Nat := if d % 2 = 0 then (b + 8 - a) % 8 else (a + 8 - b) % 8
/-- The direction by which a flit for another module leaves: X, then Y, then Z, the shorter way, + where equal (R368). -/
def towards (me dst : Nat) : Option Nat :=
  ([0, 1, 2].find? fun k => axis me k != axis dst k).map fun k =>
    if (axis dst k + 8 - axis me k) % 8 ≤ 4 then 2 * k else 2 * k + 1

/-! ## Egress buffers (R367) -/

/-- The number by which transit is charged (R367). -/
def transitPart : Nat := 64

/-- A pool of 1,024 buffers of a link takes one more of a partition, or of transit: its own minimum share, then what all share
(R367). `used` counts the buffers of a partition. -/
def State.shareRoom (s : State) (link part : Nat) (used : Nat → Nat) : Bool :=
  let share (p : Nat) : Nat := if p = transitPart then 128 else (s.part p).shares.getD link 0
  let all := transitPart :: s.parts.map (·.1)
  let reserved := all.foldl (fun n p => n + share p) 0
  let beyond := all.foldl (fun n p => n + (used p - share p)) 0
  used part < share part || beyond + reserved < 1024

/-- A link has an egress buffer for a flit (R367). -/
def State.linkRoom (s : State) (link part : Nat) : Bool :=
  s.shareRoom link part fun p => ((s.gw.links.getD link {}).egress.filter fun f => f.part == p).length

/-- A link has an ingress buffer for a flit: flits of copies that have come by it, and flits that wait for an egress buffer or for a
strip port, take them (R367). -/
def State.ingressRoom (s : State) (link part : Nat) : Bool :=
  s.shareRoom link part fun p =>
    (s.gw.arrived.filter fun x => x.link == some link && x.part == p).foldl
      (fun n x => n + x.lines.length + if x.count.isSome then 1 else 0) 0
    + (s.gw.wait.filter fun x => x.2.1 == some link && x.2.2.part == p).length
    + (s.gw.out.filter fun f => f.via == some link && f.part == p).length

/-- A flit enters an egress buffer of a link of a direction, or waits for one in the ingress buffer it has (R367). -/
def State.gwSend (s : State) (dir : Nat) (f : GwFlit) (from_ : Option Nat := none) : State :=
  match (dirLinks dir).find? fun k => s.linkRoom k f.part with
  | some k =>
    let l := s.gw.links.getD k {}
    { s with gw := { s.gw with links := s.gw.links.set k { l with egress := l.egress ++ [f] } } }
  | none => { s with gw := { s.gw with wait := s.gw.wait ++ [(dir, from_, f)] } }

def State.modLink (s : State) (k : Nat) (f : Link → Link) : State :=
  { s with gw := { s.gw with links := s.gw.links.set k (f (s.gw.links.getD k {})) } }
def State.putWire (s : State) (k : Nat) (w : Wire) : State := { s with gw := { s.gw with wire := s.gw.wire ++ [(k, w)] } }

/-- Waiting flits take the buffers that have become free. -/
def State.gwRetry (s : State) : State :=
  s.gw.wait.foldl (fun s x => s.gwSend x.1 x.2.2 x.2.1) { s with gw := { s.gw with wait := [] } }

/-- The flit a link sends next: the next partition in turn that has one, class 0 first (R367). -/
def Link.nextFlit (l : Link) : Option GwFlit :=
  let ready := l.egress.filter fun f => !f.sent
  let turn := ((List.range 65).map fun i => (l.last + 1 + i) % 65).find? fun p => ready.any fun f => f.part == p
  match turn with
  | none => none
  | some p =>
    match ready.find? fun f => f.part == p && f.cls == 0 with
    | some f => some f
    | none => ready.find? fun f => f.part == p

/-- Replaces the first element equal to x. -/
def replaceOne {α : Type} [DecidableEq α] (x y : α) : List α → List α
  | [] => []
  | z :: zs => if z = x then y :: zs else z :: replaceOne x y zs

/-- LINK_TRANSMIT: a replay goes first, with an empty framing for a purged flit; else the next flit in turn is sent and
kept until it is acknowledged (R367, R368, R369, R375). Operand: the link. -/
def execLinkTransmit (s : State) : Out :=
  let k := s.arg.n
  let l := s.gw.links.getD k {}
  .next (match l.again with
    | q :: rest =>
      let s := s.modLink k fun l => { l with again := rest }
      match l.egress.find? fun f => f.sent && f.lseq == q with
      | some f => s.putWire k (.flit f)
      | none => if l.purged.contains q then s.putWire k (.empty q) else s
    | [] =>
      match l.nextFlit with
      | none => s
      | some f =>
        let g := { f with sent := true, lseq := l.next }
        (s.modLink k fun l =>
          { l with egress := replaceOne f g l.egress, next := (l.next + 1) % 65536, last := f.part }).putWire k (.flit g))

/-- LINK_ACK: the far end has the flit; its buffer is free (R367, R369). Operands: link, lseq. -/
def execLinkAck (s : State) : Out :=
  .next (s.modLink s.arg.n fun l => { l with
    egress := l.egress.filter fun f => !(f.sent && f.lseq == s.arg.m)
    purged := l.purged.filter (· != s.arg.m) }).gwRetry

/-- Puts a sequence number in order after a given one. -/
def insertSeq (base q : Nat) : List Nat → List Nat
  | [] => [q]
  | x :: xs =>
    if (q + 65536 - base) % 65536 < (x + 65536 - base) % 65536 then q :: x :: xs else x :: insertSeq base q xs

/-- LINK_REPLAY: every unacknowledged flit from the named one on is sent again (R369). Operands: link, lseq. -/
def execLinkReplay (s : State) : Out :=
  let base := s.arg.m
  .next (s.modLink s.arg.n fun l =>
    let sent := ((l.egress.filter fun f => f.sent).map (·.lseq) ++ l.purged).filter fun q => (q + 65536 - base) % 65536 < 32768
    { l with again := sent.foldl (fun acc q => insertSeq base q acc) [] })

/-! ## Groups and windows (R370, R371) -/

/-- The members of a group (R370). -/
def State.groupMembers (s : State) (p c group : Nat) : List Nat :=
  let bits := s.groupBits p c group
  (List.range 512).filter fun m => bits / 2 ^ m % 2 == 1

/-- A member's window: its number if the handle is valid (R370). -/
def State.groupWindow (s : State) (p c group m : Nat) : Option Nat :=
  let e := s.physNat p c ((s.part p).groupBase + 4096 * group + 64 + 4 * m) 4
  if e / 2 ^ 31 % 2 = 1 then some (e % 65536) else none

/-! ## Replication (R372) -/

/-- The copies that a module sends, as direction and members (R372): what is left along the direction a copy came by, and the
split in the later dimensions, of the members that share the module's coordinates in the earlier ones. -/
def copiesFrom (me src : Nat) (dir : Option Nat) (members : List Nat) : List (Nat × List Nat) :=
  let sharing (k m : Nat) : Bool := (List.range k).all fun j => axis m j == axis me j
  let first := match dir with
    | none => 0
    | some d => dirDim d + 1
  let onward : List (Nat × List Nat) := match dir with
    | none => []
    | some d =>
      let k := dirDim d
      let reach := if d % 2 = 0 then 4 else 3
      let o := axis src k
      [(d, members.filter fun m => sharing k m && ringDist d o (axis m k) ≤ reach &&
        ringDist d o (axis me k) < ringDist d o (axis m k))]
  let split := ([0, 1, 2].filter fun k => first ≤ k).flatMap fun k =>
    let mine := members.filter fun m => sharing k m && axis m k != axis me k
    [(2 * k, mine.filter fun m => ringDist 0 (axis me k) (axis m k) ≤ 4),
     (2 * k + 1, mine.filter fun m => 4 < ringDist 0 (axis me k) (axis m k))]
  (onward ++ split).filter fun x => !x.2.isEmpty

/-- Hops from a module to a member of a copy that leaves in a direction (R373). -/
def hopsTo (me dir m : Nat) : Nat :=
  let k := dirDim dir
  ringDist dir (axis me k) (axis m k) + (([0, 1, 2].filter fun j => k < j).foldl (fun n j =>
    let f := ringDist 0 (axis me j) (axis m j)
    n + if f ≤ 4 then f else 8 - f) 0)

/-! ## Results (R218, R373) -/

/-- Keeps the four lowest member numbers. -/
def insertPair (p : Nat × Nat) : List (Nat × Nat) → List (Nat × Nat)
  | [] => [p]
  | x :: xs => if p.1 < x.1 then p :: x :: xs else x :: insertPair p xs
def mergePairs (a b : List (Nat × Nat)) : List (Nat × Nat) := (b.foldl (fun acc p => insertPair p acc) a).take 4

/-- The acknowledgement record (R218). -/
def ackRecord (succ fail : Nat) (pairs : List (Nat × Nat)) : BitVec 512 :=
  BitVec.ofNat 512 (succ % 65536 + fail % 65536 * 2 ^ 16 + pairs.length * 2 ^ 32
    + (pairs.zipIdx).foldl (fun n (p, k) => n + (p.2 + p.1 % 512 * 256) * 2 ^ (64 + 64 * k)) 0)

def State.modNode (s : State) (id : Nat) (f : McNode → McNode) : State :=
  { s with gw := { s.gw with nodes := s.gw.nodes.map fun n => if n.id == id then f n else n } }

/-- The members that bits name, and the bits of members. -/
def membersOf (bits : BitVec 512) : List Nat := (List.range 512).filter fun m => bits.getLsbD m
def memberBits (who : List Nat) : BitVec 512 := who.foldl (fun x m => x ||| BitVec.ofNat 512 (2 ^ m)) 0

/-- The pairs of member and reason that a record names (R218). -/
def recordPairs (r : BitVec 512) : List (Nat × Nat) :=
  (List.range (min 4 (r.extractLsb' 32 8).toNat)).map fun k => ((r.extractLsb' (72 + 64 * k) 9).toNat, (r.extractLsb' (64 + 64 * k) 8).toNat)

/-- A flit of a context that a gateway puts into the fabric (R367, R372). -/
def State.gateFlit (s : State) (x : McCopy) (strip dst cls age ref : Nat) (m : FlitMsg) : State :=
  { s with gw := { s.gw with out := s.gw.out ++
      [{ age := age, cls := cls, dst := dst, part := x.part, slot := x.slot, epoch := x.epoch % 16, src := gatewayTile strip,
         ref := ref, msg := m, via := x.link }] } }

/-- The members of the source's own table that no result counts (R373). -/
def State.absent (s : State) (n : McNode) : List Nat :=
  (s.groupMembers n.copy.part n.copy.slot n.copy.group).filter fun m => !n.who.contains m

/-- The record of a copy.mcast leaves for its tile, absent members counted as unreachable (R218, R373). -/
def State.recordOut (s : State) (n : McNode) : State :=
  let x := n.copy
  let gone := s.absent n
  let r := ackRecord n.succ (n.fail + gone.length) (mergePairs n.pairs (gone.map fun m => (m, rUNREACHABLE)))
  { s with gw := { s.gw with nodes := s.gw.nodes.filter fun m => m.id != n.id } }.gateFlit x x.tile x.tile 0 (startAge 0) 0
    (.mcastDone x.chan x.xid (r.setWidth 320))

/-- The context of a copy runs on the source's tile (R382). -/
def State.sourceRuns (s : State) (x : McCopy) : Bool :=
  match (s.tile x.tile).launch with
  | some l => l.part == x.part && l.ctx % 16 == x.slot && !(s.tile x.tile).frozen
  | none => false

/-- A module's wait is over: the result goes back along the copy's path, by the link's direction that it came from, with the members
it counts; at the source the record goes to the tile of the copy.mcast, or is held while its context does not run (R373, R380,
R382). -/
def State.nodeDone (s : State) (n : McNode) : State :=
  let x := n.copy
  match x.link with
  | none => if s.sourceRuns x then s.recordOut n else s.modNode n.id fun _ => { n with kids := [] }
  | some k =>
    let s := { s with gw := { s.gw with nodes := s.gw.nodes.filter fun m => m.id != n.id } }
    let f (m : GwMsg) : GwFlit :=
      { part := x.part, lane := (s.part x.part).lane.getD 0, slot := x.slot, epoch := x.epoch, smod := s.gw.me, dmod := x.smod, cls := 0,
        age := startAge 0, msg := m }
    (s.gwSend (k / 4) (f (.ack x.ref (ackRecord n.succ n.fail n.pairs))) (some k)).gwSend (k / 4) (f (.who x.ref (memberBits n.who))) (some k)

/-- Records held for contexts that run again leave (R382). -/
def State.releaseRecords (s : State) : State :=
  (s.gw.nodes.filter fun n => n.copy.link.isNone && n.kids.isEmpty && s.sourceRuns n.copy).foldl State.recordOut s

/-- The references that stand for a wait are free again. -/
def Gateway.endWait (g : Gateway) (id : Nat) : Gateway := { g with nums := g.nums.filter fun x => x.2 != id, half := g.half.erase id }

/-- A result has come for one of a module's waits. -/
def State.nodeResult (s : State) (n : McNode) (ref succ fail : Nat) (pairs : List (Nat × Nat)) (who : List Nat) : State :=
  let s := { s with gw := s.gw.endWait ref }
  -- a copy may wait for the references (log 102)
  let s := if s.gw.arrived.isEmpty then s else s.atRef 0 .mcastCopyArrival
  let n := { n with
    kids := n.kids.filter fun k => k.1 != ref
    succ := n.succ + succ, fail := n.fail + fail, pairs := mergePairs n.pairs pairs, who := n.who ++ who }
  if n.kids.isEmpty then s.nodeDone n else s.modNode n.id fun _ => n

/-- The wait that a number belongs to. -/
def Gateway.nodeOf (g : Gateway) (ref : Nat) : Option McNode := g.nodes.find? fun n => n.kids.any fun k => k.1 == ref

/-- The flits of a copy have all come. -/
def McCopy.whole (x : McCopy) : Bool := x.count == some x.lines.length

/-- A free number for a write of the own member, of 6 bits: from 32 on for a global window (log 102). -/
def Gateway.freeOwn (g : Gateway) (glob : Bool) : Option Nat :=
  ((List.range 32).map fun i => (g.nextRef + i) % 32 + if glob then 32 else 0).find? fun n => !g.nums.has (ownNum n)

/-- The references of copies of a source tile that are free (log 102). -/
def Gateway.freeCopies (g : Gateway) (tile : Nat) : List Nat :=
  ((List.range 64).map fun i => 64 * tile + (g.nextRef + i) % 64).filter fun n => !g.nums.has n

/-- A copy can be acted on: references are free for its copies and for the own member's write (log 102). -/
def Gateway.canAct (g : Gateway) (x : McCopy) : Bool :=
  x.whole && 6 ≤ (g.freeCopies x.tile).length && (g.freeOwn false).isSome && (g.freeOwn true).isSome

/-- A module that is a member has its lines written at its window (R371 to R373): the reason of a failure that the gateway finds,
or 0 with the lines on their way. -/
def State.ownMember (s : State) (x : McCopy) (ref : Nat) : State × Nat :=
  let me := s.gw.me
  if x.stale then (s, rEPOCH)
  else match s.groupWindow x.part x.slot x.group me with
  | none => (s, rNOEXPORT)
  | some w =>
    match (if 1024 ≤ w then none else (s.part x.part).windows.get? w) with
    | none => (s, rNOEXPORT)
    | some e =>
      let dest : Word := e.extractLsb' 0 64 + BitVec.ofNat 64 x.offset
      if !e.getLsbD 96 then (s, rNOEXPORT)
      else if (e.extractLsb' 64 32).toNat < x.offset + 64 * x.lines.length then (s, if e.getLsbD 97 then rREVOKED else rFAULT)
      else if isGlobal dest || (isTileMap dest && (s.part x.part).hasTile (amTile dest)) then
        let place (i : Nat) : Nat :=
          if isGlobal dest then (s.part x.part).homeTile (lineIx (dest + BitVec.ofNat 64 (64 * i))) else amTile dest
        match s.gw.freeOwn (isGlobal dest) with
        | none => (s, rUNREACHABLE)
        | some num =>
          let s := { s with gw := { s.gw with nums := s.gw.nums.set (ownNum num) ref } }
          let by_ := if x.link.isSome then { tile := x.tile, eng := true : StoreSrc } else cmdSrc x.tile 1 x.chan x.xid
          -- each tile that writes lines gets a head first
          let heads := (x.lines.map fun l => place l.1).foldl (fun ts t => if ts.contains t then ts else ts ++ [t]) []
          let s := heads.foldl (fun s t =>
            s.gateFlit x t t x.cls x.age 0 (.mcastDest num (x.lines.filter fun l => place l.1 == t).length w dest by_)) s
          (x.lines.foldl (fun s l => s.gateFlit x (place l.1) (place l.1) x.cls l.2.2 0 (.mcastData num l.1 l.2.1)) s, 0)
      else (s, if e.getLsbD 97 then rREVOKED else rFAULT)

/-- A number for a copy or a member's own write, and the end of its wait: 32,768·h + 16,384 reference ticks (R373). -/
def State.awaitCopy (s : State) (h : Nat) : Nat × State :=
  let ref := s.gw.nextRef
  (ref, ({ s with gw := { s.gw with nextRef := ref + 1 } }).atRef (32768 * h + 16384) .mcastAckTimeout default { n := ref })

/-- The next module in a direction. -/
def nextModule (me d : Nat) : Nat :=
  let k := dirDim d
  me - axis me k * 8 ^ k + (axis me k + (if d % 2 = 0 then 1 else 7)) % 8 * 8 ^ k

/-- Sends the head and the lines of a copy to the next module in a direction, under a reference of a module, each at its own age (R350,
R368, R372). -/
def State.sendCopy (s : State) (x : McCopy) (d smod ref : Nat) : State :=
  let f (age : Nat) (m : GwMsg) : GwFlit :=
    { part := x.part, lane := (s.part x.part).lane.getD 0, slot := x.slot, epoch := x.epoch, smod := smod,
      dmod := nextModule s.gw.me d, cls := x.cls, age := age, msg := m }
  x.lines.foldl (fun s l => s.gwSend d (f l.2.2 (.line l.1 l.2.1 ref)) x.link)
    (s.gwSend d (f x.age (.head x.group x.offset x.lines.length x.src ref)) x.link)

/-- The copies, the own member's write, and the wait for what they come to. -/
def State.branch (s : State) (x : McCopy) (mine : Bool) (copies : List (Nat × List Nat)) : State :=
  let me := s.gw.me
  let (s, kids) := copies.foldl (fun (s, kids) (d, ms) =>
    let num := (s.gw.freeCopies x.tile).headD 0
    let (ref, s) := s.awaitCopy (ms.foldl (fun h m => max h (hopsTo me d m)) 0)
    let s := { s with gw := { s.gw with nums := s.gw.nums.set num ref } }
    (s.sendCopy x d me num, kids ++ [(ref, ms)])) (s, ([] : List (Nat × List Nat)))
  let (own, s) := if mine then (let (r, s) := s.awaitCopy 0; (some r, s)) else (none, s)
  let n : McNode := { id := s.gw.nextRef, copy := x, kids := kids ++ own.toList.map fun r => (r, [me]), owed := x.lines.length }
  let s := { s with gw := { s.gw with nextRef := s.gw.nextRef + 1, nodes := s.gw.nodes ++ [n] } }
  match own with
  | none => if n.kids.isEmpty then s.nodeDone n else s
  | some r =>
    match s.ownMember x r with
    | (s, 0) => s
    | (s, why) => s.nodeResult n r 0 1 [(me, why)] [me]

/-- A copy is acted on: a module that only lies on its path passes it on unchanged; any other sends the copies of R372, has its
own member's lines written, and waits for the answers (R372, R373, R380). -/
def State.replicate (s : State) (x : McCopy) : State :=
  let me := s.gw.me
  let dir := x.link.map fun k => Nat.xor (k / 4) 1
  let members := s.groupMembers x.part x.slot x.group
  let mine := members.contains me
  let copies := if x.stale then [] else copiesFrom me x.src dir members
  match copies with
  | [(d, _)] =>
    if !mine && some d == dir then s.sendCopy x d x.smod x.ref else s.branch x mine copies
  | _ => if x.stale && !mine then s else s.branch x mine copies

/-- MCAST_COPY_ARRIVAL: a copy whose flits have all reached a module, or its source's gateway, is acted on (R372). -/
def execMcastCopyArrival (s : State) : Out :=
  .next (match takeFirst s.gw.canAct s.gw.arrived with
    | none => s
    | some (x, rest) => ({ s with gw := { s.gw with arrived := rest } }).replicate x)

/-- Pairs of a flat list. -/
def pairsOf : List Nat → List (Nat × Nat)
  | a :: b :: rest => (a, b) :: pairsOf rest
  | _ => []

/-- MCAST_ACK: the acknowledgement of a copy, or an answer to the own member's write, is combined; one that no wait expects any
more is discarded (R373). Operands: the number; own: the reason m of a failure; else l = successes, failures, the number of
pairs, the pairs, the members counted. -/
def execMcastAck (s : State) : Out :=
  let ref := s.arg.n
  let me := s.gw.me
  .next (match s.gw.nodeOf ref with
    | none => s
    | some n =>
      if s.arg.ok then
        let n := { n with owed := n.owed - 1, why := if n.why = 0 then s.arg.m else n.why }
        if 0 < n.owed then s.modNode n.id fun _ => n
        else if n.why = 0 then s.nodeResult n ref 1 0 [] [me]
        else s.nodeResult n ref 0 1 [(me, n.why)] [me]
      else match s.arg.l with
      | a :: b :: k :: rest => s.nodeResult n ref a b (pairsOf (rest.take (2 * k))) (rest.drop (2 * k))
      | _ => s)

/-- MCAST_ACK_TIMEOUT: every member of the copy's subtree counts as unreachable (R373). Operand: the number. -/
def execMcastAckTimeout (s : State) : Out :=
  let ref := s.arg.n
  .next (match s.gw.nodeOf ref with
    | none => s
    | some n =>
      match n.kids.find? fun k => k.1 == ref with
      | none => s
      | some k => s.nodeResult n ref 0 k.2.length (k.2.map fun m => (m, rUNREACHABLE)) k.2)

/-! ## Receiving (R368, R369) -/

/-- The framing and the header of a received flit (R348, R368). -/
structure RxFlit where
  lseq : Nat
  epoch : Nat
  slot : Nat
  lane : Nat
  smod : Nat
  dmod : Nat
  hd : Word
  deriving DecidableEq, Repr

def RxFlit.ofArgs (a : Args) : RxFlit :=
  let f (lo n : Nat) : Nat := (a.e.extractLsb' lo n).toNat
  ⟨f 80 16, f 48 32, f 44 4, f 28 16, f 9 9, f 0 9, a.w⟩

def RxFlit.kind (x : RxFlit) : Nat := (x.hd.extractLsb' 43 3).toNat
def RxFlit.cls (x : RxFlit) : Nat := (x.hd.extractLsb' 46 2).toNat
def RxFlit.age (x : RxFlit) : Nat := (x.hd.extractLsb' 48 16).toNat
def RxFlit.ref (x : RxFlit) : Nat := (x.hd.extractLsb' 0 22).toNat

/-- What a received flit carries: the low three bits of the reference of an MCAST flit are 0 at a head and its place plus 1 at a line,
those of an ACK are 0 at the result of a copy and 1 at the members that it counts (R349, R372, R373; log 102). -/
def RxFlit.msg (x : RxFlit) (w : BitVec 512) : GwMsg :=
  let ref := x.ref / 8
  if x.kind = 7 then
    (if x.ref % 8 = 0 then
      .head (w.extractLsb' 0 8).toNat (w.extractLsb' 16 48).toNat (w.extractLsb' 8 8).toNat (w.extractLsb' 64 9).toNat ref
    else .line (x.ref % 8 - 1) w ref)
  else if x.kind = 6 then if x.ref % 8 = 0 then .ack ref w else .who ref w
  else .other x.hd w

/-- A flit of kind 1 to 5 for a tile of this module goes into the fabric: 64 data bytes under the reference of their kind. Those
whose payload the spec does not lay out are dropped there as R357 drops a reserved kind (log 90). -/
def RxFlit.inner (x : RxFlit) (w : BitVec 512) : FlitMsg :=
  let f (lo n : Nat) : Nat := (x.hd.extractLsb' lo n).toNat
  match x.kind with
  | 3 => .pfx (f 3 6) (f 0 3) w
  | 4 => .data (f 14 8) (f 10 4) (f 7 3) w
  | 5 => .rdata 0 w
  | _ => .reserved

/-- A received flit for this module, of a partition of it: an epoch and context that match no live context drop it, counted, but
an MCAST flit, which a member answers with EPOCH (R368, R372, R373). -/
def State.rxTake (s : State) (k p : Nat) (x : RxFlit) (m : GwMsg) : State :=
  let c := (s.part p).ctx x.slot
  let live := c.epoch.toNat == x.epoch && (c.state == 0x01 || c.state == 0x02 || c.state == 0x03)
  let s := if live then s else s.modPart p fun y => { y with ctagdrop := y.ctagdrop + 1 }
  let new (ref : Nat) : McCopy :=
    { part := p, slot := x.slot, epoch := x.epoch, cls := x.cls, link := some k, smod := x.smod, ref := ref, tile := ref / 64, stale := !live }
  let same (ref : Nat) (y : McCopy) : Bool := y.link.isSome && y.part == p && y.smod == x.smod && y.ref == ref
  -- the two flits of an acknowledgement come in either order
  let half (ref : Nat) (f : Option (BitVec 512) × Option (BitVec 512) → Option (BitVec 512) × Option (BitVec 512)) (s : State) : State :=
    match s.gw.nums.get? ref with
    | none => s
    | some id =>
      match f (s.gw.half.getD id (none, none)) with
      | (some r, some w) =>
        let pairs := recordPairs r
        { s with gw := { s.gw with half := s.gw.half.erase id } }.atRef 0 .mcastAck default
          { n := id, ok := false, l := (r.extractLsb' 0 16).toNat :: (r.extractLsb' 16 16).toNat :: pairs.length ::
              pairs.flatMap (fun (q : Nat × Nat) => [q.1, q.2]) ++ membersOf w }
      | h => { s with gw := { s.gw with half := s.gw.half.set id h } }
  match m with
  | .head g o n src ref =>
    { s with gw := s.gw.takePart (new ref) (same ref) fun y =>
        { y with age := x.age, group := g, offset := o, count := some n, src := src } }.atRef 0 .mcastCopyArrival
  | .line i d ref =>
    { s with gw := s.gw.takePart (new ref) (same ref) fun y => { y with lines := y.lines ++ [(i, d, x.age)] } }.atRef 0 .mcastCopyArrival
  | .ack ref r => if live then half ref (fun h => (some r, h.2)) s else s
  | .who ref w => if live then half ref (fun h => (h.1, some w)) s else s
  | .other hd w =>
    if !live then s
    else
      let dst := (hd.extractLsb' 30 13).toNat
      let f : Flit := { age := x.age, cls := x.cls, dst := dst, part := p, slot := x.slot, epoch := x.epoch % 16,
                        src := gatewayTile dst, ref := if x.kind = 5 then x.ref % 512 else x.ref, msg := x.inner w, via := some k }
      { s with gw := { s.gw with out := s.gw.out ++ [f] } }

/-- LINK_RECEIVE: a flit with a bad CRC, or for which the link has no ingress buffer, is discarded and asked for again (log 90);
a sound one is acknowledged, then forwarded if it is for another module, else taken for its lane's partition (R367 to R369,
R373). Operands: link, framing (e), header (w), CRC sound (ok), payload (d): of a head group, lines, offset and source module
from bit 0, 8, 16 and 64 on; of an acknowledgement the record of R218 or a bit for each member counted (log 102). -/
def execLinkReceive (s : State) : Out :=
  let k := s.arg.n
  let x := RxFlit.ofArgs s.arg
  let part := s.parts.find? fun p => p.2.lane == some x.lane
  let charge := if x.dmod ≠ s.gw.me then transitPart else (part.map (·.1)).getD transitPart
  .next (if !s.arg.ok || !s.ingressRoom k charge then s.putWire k (.replay x.lseq)
    else
      let s := s.putWire k (.ack x.lseq)
      let m := x.msg s.arg.d
      if x.kind = 0 then
        match part with
        | some (p, _) => s.modPart p fun y => { y with badkind := y.badkind + 1 }
        | none => { s with gw := { s.gw with ctagdrop := s.gw.ctagdrop + 1 } }
      else if x.dmod ≠ s.gw.me then
        -- an acknowledgement goes on along the path of its copy (R373, R380)
        match (if x.kind = 6 then some (Nat.xor (k / 4) 1) else towards s.gw.me x.dmod) with
        | some d => s.gwSend d ⟨transitPart, x.lane, x.slot, x.epoch, x.smod, x.dmod, x.cls, x.age, m, 0, false⟩ (some k)
        | none => s
      else match part with
      | none => { s with gw := { s.gw with ctagdrop := s.gw.ctagdrop + 1 } }
      | some (p, _) => s.rxTake k p x m)

/-! ## Purges (R375, R376) -/

/-- Purges the gateway buffers and waits of a partition, of one context of it or of all (R375, R376). A purged flit that has
been sent leaves its sequence number for the replay. -/
def State.purgeGateway (s : State) (p : Nat) (slot : Option Nat) : State :=
  let hit (q sl : Nat) : Bool := q == p && (match slot with
    | none => true
    | some c => sl == c)
  let count := s.gw.links.foldl (fun (n : Nat) (l : Nat × Link) => n + (l.2.egress.filter fun f => hit f.part f.slot).length) 0
    + (s.gw.wait.filter fun x => hit x.2.2.part x.2.2.slot).length
    + (s.gw.arrived.filter fun x => hit x.part x.slot).foldl (fun n x => n + x.lines.length + if x.count.isSome then 1 else 0) 0
    + (s.gw.out.filter fun f => hit f.part f.slot).length
  let s := { s with gw := { s.gw with
    links := s.gw.links.map fun (l : Nat × Link) => (l.1, { l.2 with
      egress := l.2.egress.filter fun f => !hit f.part f.slot
      purged := l.2.purged ++ (l.2.egress.filter fun (f : GwFlit) => hit f.part f.slot && f.sent).map fun (f : GwFlit) => f.lseq })
    wait := s.gw.wait.filter fun x => !hit x.2.2.part x.2.2.slot
    arrived := s.gw.arrived.filter fun x => !hit x.part x.slot
    out := s.gw.out.filter fun f => !hit f.part f.slot
    nodes := s.gw.nodes.filter fun n => !hit n.copy.part n.copy.slot } }
  let waits := s.gw.nodes.flatMap fun n => n.kids.map (·.1)
  let s := { s with gw := { s.gw with nums := s.gw.nums.filter fun x => waits.contains x.2
                                      half := s.gw.half.filter fun x => waits.contains x.1 } }
  (s.modPart p fun x => { x with gwpurge := x.gwpurge + count }).gwRetry

/-- Links with something to send. -/
def State.pollLinks (s : State) : State × Bool :=
  let s := s.releaseRecords
  s.gw.links.foldl (fun (s, any) (k, l) =>
    if !l.again.isEmpty || l.nextFlit.isSome then (s.atRef 0 .linkTransmit default { n := k }, true) else (s, any)) (s, false)

end Sys2Proof.Machine
end

