-- ==== Sys2Proof/Machine/Sequencer.lean ====
section
/-!
DEFINITION. The partition sequencer: records and their counters (spec/16 R326 to R330), the job cell (R331 to R333), launches on tiles
(R334, R335, R342), activations and the period timer (spec/09 R258 to R261, R271), cancellation above the unit (spec/04 R134), the
log (spec/21 R421, R422), the group watchdog (spec/08 R242).
-/
namespace Sys2Proof.Machine

/-! ## The partition log (R421, R422) -/

/-- The 32 bytes of a log entry (R422). -/
def logBytes (kind ctx tile arg : Nat) (tick act : Nat) : List Byte :=
  natToBytes 1 kind ++ natToBytes 1 ctx ++ natToBytes 2 tile ++ natToBytes 4 arg ++ natToBytes 8 tick ++ natToBytes 8 act
    ++ natToBytes 8 0

/-- The slot under which the slices file what the sequencer writes for the partition itself: no context's, so that its lines have the
partition's own key and no fence of a context drops them (R401, R419, R421). -/
def sysCtx : Nat := 16

/-- A log entry is written, or counted as lost when the ring is full; a disabled log takes nothing (R421). -/
def State.logEntry (s : State) (p kind ctx tile arg : Nat) (act : Nat := 0) : State :=
  let x := s.part p
  if x.lbase = 0 ∨ x.lsize < 4 ∨ 20 < x.lsize then s
  else if (x.lprod - x.lcons).toNat = 2 ^ x.lsize then s.modPart p fun x => { x with lost := x.lost + 1 }
  else
    (s.physWrite p sysCtx (x.lbase.toNat + 32 * (x.lprod.toNat % 2 ^ x.lsize)) (logBytes kind ctx tile arg s.clock act)).modPart p
      fun x => { x with lprod := x.lprod + 1 }

/-- Reports of tiles enter the log of their partition (R19, R242, R261, R294). -/
def State.drainReports (s : State) : State :=
  s.reports.foldl (fun s r =>
    let l := s.launch r.tile
    let at_ := r.part.getD (l.part, l.ctx)
    s.logEntry at_.1 r.kind at_.2 r.tile (r.info.toNat % 2 ^ 32) r.act.toNat) { s with reports := [] }

/-! ## Records (R326 to R329) -/

/-- Where an address of a context stands in its partition's physical space, read and written (R333, R389). -/
def State.recPa (s : State) (p c va : Nat) (wr : Bool) : Option Nat :=
  match s.walkVA p c (BitVec.ofNat 64 va) with
  | .error _ => none
  | .ok e => match (s.part p).apply e (BitVec.ofNat 64 va) true wr with
    | .ok pa => some pa
    | _ => none

/-- n bytes within one line of a record, at the line's home slice (R326). -/
def State.recGet (s : State) (p c va n : Nat) : Nat :=
  match s.recPa p c va false with
  | some pa => lineGet (s.sliceView ((s.part p).homeTile (va / 64)) p c (pa / 64)) (pa % 64) n
  | none => 0
def State.recPut (s : State) (p c va n v : Nat) : State :=
  match s.recPa p c va true with
  | some pa => s.sliceWrite ((s.part p).homeTile (va / 64)) p c (pa / 64) (pa % 64) n v
  | none => s

/-- Every line of a range translates to the partition's physical space (R333). -/
def State.recInside (s : State) (p c a n : Nat) (wr : Bool) : Bool :=
  a + n ≤ 2 ^ 56 && (List.range ((a + n + 63) / 64 - a / 64)).all fun i => (s.recPa p c (max a (64 * (a / 64 + i))) wr).isSome

/-- n bytes of record memory that may cross a line. -/
def State.recWide (s : State) (p c a n : Nat) : Nat :=
  let k := min n (64 - a % 64)
  s.recGet p c a k + if k < n then s.recGet p c (a + k) (n - k) * 2 ^ (8 * k) else 0

/-- A list of n 8-byte addresses, which no rule aligns (R327, R328). -/
def State.recList (s : State) (p c a n : Nat) : List Nat := (List.range n).map fun i => s.recWide p c (a + 8 * i) 8

/-- States of records (R329). -/
def stIDLE : Nat := 0
def stWAITING : Nat := 1
def stREADY : Nat := 2
def stRUNNING : Nat := 3
def stHELD : Nat := 4
def stDONE : Nat := 5
def stCANCELLED : Nat := 6
def stFAILED : Nat := 7

/-- A partition's record memory as one context sees it. -/
structure Rec where
  p : Nat
  c : Nat

/-- Offset of the state byte: launches are level 1, groups 2 to 4 (R327, R328). -/
def stateOff (lvl : Nat) : Nat := if lvl = 1 then 14 else 21
def State.recState (s : State) (r : Rec) (lvl a : Nat) : Nat := s.recGet r.p r.c (a + stateOff lvl) 1
def State.setRec (s : State) (r : Rec) (lvl a st : Nat) : State := s.recPut r.p r.c (a + stateOff lvl) 1 st
def State.recMarked (s : State) (r : Rec) (a : Nat) : Bool := ctrMark (s.recGet r.p r.c a 8)
def State.recMark (s : State) (r : Rec) (a : Nat) : State :=
  s.recPut r.p r.c a 8 (ctrPut (ctrCount (s.recGet r.p r.c a 8)) true)
/-- ctr falls by 1; answers the count left (R330). -/
def State.recDec (s : State) (r : Rec) (a : Nat) : Nat × State :=
  let x := s.recGet r.p r.c a 8
  let n := (ctrCount x + 2 ^ 63 - 1) % 2 ^ 63
  (n, s.recPut r.p r.c a 8 (ctrPut n (ctrMark x)))
/-- Children of a group record (R327). -/
def State.recKids (s : State) (r : Rec) (a : Nat) : List Nat :=
  s.recList r.p r.c (s.recGet r.p r.c (a + 8) 8) (s.recGet r.p r.c (a + 16) 4)
/-- Parent of a record: bytes 24 to 31 of a group, the graph of a launch. -/
def State.recParent (s : State) (r : Rec) (lvl a : Nat) : Nat := s.recGet r.p r.c (a + if lvl = 1 then 112 else 24) 8
/-- Successors of a launch (R328). -/
def State.recSucc (s : State) (r : Rec) (a : Nat) : List Nat :=
  s.recList r.p r.c (s.recGet r.p r.c (a + 16) 8) (s.recGet r.p r.c (a + 12) 2)
/-- A launch's rectangle as tiles, in launch order (R328, R221). -/
def State.recTiles (s : State) (r : Rec) (a : Nat) : List Nat :=
  let f (o : Nat) : Nat := s.recGet r.p r.c (a + o) 1
  (List.range (f 26 * f 27)).map fun i => tileAt (f 24 + i % f 26) (f 25 + i / f 26)

/-- The records of a level below a record, itself included at its own level. -/
def State.recsAt (s : State) (r : Rec) (want : Nat) : Nat → Nat → List Nat
  | 0, _ => []
  | lvl + 1, a => if lvl + 1 = want then [a] else (s.recKids r a).flatMap fun k => State.recsAt s r want lvl k

/-! ## The checks of SUBMIT (R333) -/

/-- A launch record is well-formed (R87, R328, R333). -/
def State.launchOk (s : State) (r : Rec) (a : Nat) : Bool :=
  let f (o n : Nat) : Nat := s.recGet r.p r.c (a + o) n
  let x := s.part r.p
  a % 64 == 0 && s.recInside r.p r.c a 128 true && f 14 1 == 0 && f 15 1 &&& 0xF2 == 0 && f 52 1 < 128 && f 53 1 == 0
    && f 122 2 == 0 && f 124 4 == 0 && f 12 2 ≤ 4095 && f 120 2 &&& 0xA100 == 0
    && (f 15 1 % 2 == 1 || f 54 2 == 0)
    && 1 ≤ f 26 1 && 1 ≤ f 27 1 && 4 * x.sc0 ≤ f 24 1 && f 24 1 + f 26 1 ≤ 4 * x.sc0 + x.width
    && 20 * x.sr0 ≤ f 25 1 && f 25 1 + f 27 1 ≤ 20 * x.sr0 + x.height
    && (if f 28 4 = 0 then f 36 4 == 1 && f 32 4 == 0 else 1 ≤ f 32 4 && f 32 4 ≤ 200000)
    && (f 12 2 == 0 || s.recInside r.p r.c (f 16 8) (8 * f 12 2) false)

/-- A group record is well-formed (R327, R333). -/
def State.groupOk (s : State) (r : Rec) (lvl a : Nat) : Bool :=
  let f (o n : Nat) : Nat := s.recGet r.p r.c (a + o) n
  a % 64 == 0 && s.recInside r.p r.c a 64 true && f 20 1 == lvl && f 21 1 == 0
    && f 22 1 == (if lvl = 4 then r.c else 0) && 1 ≤ f 16 4 && f 16 4 ≤ 65535
    && f 23 1 == 0 && f 33 1 == 0 && f 34 2 == 0 && f 36 4 == 0 && f 48 8 == 0 && f 56 8 == 0
    && s.recInside r.p r.c (f 8 8) (8 * f 16 4) false

/-- The launches below a well-formed record; none when some record below it is not (R333). -/
def State.countLaunches (s : State) (r : Rec) : Nat → Nat → Option Nat
  | 0, _ => none
  | lvl + 1, a =>
    if lvl = 0 then (if s.launchOk r a then some 1 else none)
    else if !s.groupOk r (lvl + 1) a then none
    else (s.recKids r a).foldl (fun acc k =>
      match acc with
      | none => none
      | some n => if 65535 < n then none else (State.countLaunches s r lvl k).map (n + ·)) (some 0)

/-- The launches that successor lists reach are well-formed too, each of which is looked at once; `fuel` bounds the entries of the
lists (R333). -/
def State.succOk (s : State) (r : Rec) : Nat → KSet → List Nat → Bool
  | 0, _, todo => todo.isEmpty
  | _ + 1, _, [] => true
  | fuel + 1, seen, a :: rest =>
    if seen.has a then State.succOk s r fuel seen rest
    else s.launchOk r a && State.succOk s r fuel (seen.set a ()) (s.recSucc r a ++ rest)

/-- More entries than the lists of 65,535 launches hold. -/
def succFuel : Nat := 65536 * 4096

/-- A job that SUBMIT accepts (R333, R386). -/
def State.jobOk (s : State) (r : Rec) (a : Nat) : Bool :=
  (s.ctx r.p r.c).state != 0x00 && (s.ctx r.p r.c).state != 0x04 &&
    match s.countLaunches r 4 a with
    | some n => n ≤ 65535 && s.succOk r succFuel [] (s.recsAt r 1 4 a)
    | none => false

/-! ## Accounting (R330, R332) -/

/-- The echo cell is posted: the sequence accepted last, a result, jobs ended, the job that ended last (R332). -/
def State.echoPost (s : State) (r : Rec) (acc res done last : Nat) : State :=
  let v : V256 := BitVec.ofNat 256 (acc % 2 ^ 64 + res * 2 ^ 64 + done % 2 ^ 64 * 2 ^ 128 + last % 2 ^ 64 * 2 ^ 192)
  s.modCtx r.p r.c fun x => { x with echo := x.echo.post v 0xFFFE 0 }
def Ctx.acc (x : Ctx) : Nat := valBytes x.echo.value 0 8
def Ctx.res (x : Ctx) : Nat := valBytes x.echo.value 8 1
def Ctx.done (x : Ctx) : Nat := valBytes x.echo.value 16 8
def Ctx.last (x : Ctx) : Nat := valBytes x.echo.value 24 8

/-- A job leaves the sequencer: its status is written and the echo posted with done + 1 (R330, R332). A context without
another started job is READY again. -/
def State.jobEnd (s : State) (r : Rec) (a st : Nat) : State :=
  let s := (s.setRec r 4 a st).recPut r.p r.c (a + 32) 1 st
  let s := s.modPart r.p fun x => { x with
    jobs := x.jobs.filter fun j => !(j.record == a && j.ctx == r.c) }
  let x := s.ctx r.p r.c
  let s := s.echoPost r x.acc x.res (x.done + 1) a
  if x.state = 0x02 && !((s.part r.p).jobs.any fun j => j.ctx == r.c && j.started) then
    s.modCtx r.p r.c fun y => { y with state := 0x01 }
  else s

/-- A launch becomes READY (R329, R334). -/
def State.makeReady (s : State) (r : Rec) (a : Nat) : State :=
  let s := s.setRec r 1 a stREADY
  let prio := s.recGet r.p r.c (a + 15) 1 / 4 % 4
  s.modPart r.p fun x => { x with ready := x.ready ++ [⟨a, r.c, prio, x.nextOrder⟩], nextOrder := x.nextOrder + 1 }

/-- What the accounting of R330 still has to do. -/
inductive SeqWork where
  | endLaunch (a : Nat)
  /-- The counter of a record has reached 0. -/
  | endGroup (lvl a : Nat)
  | startPhase (a : Nat)
  /-- The phases of a cancelled job that have not started count as ended (R134). -/
  | dropPhases (a : Nat)

/-- The record k levels above one. -/
def State.recAbove (s : State) (r : Rec) : Nat → Nat → Nat → Nat
  | 0, _, a => a
  | k + 1, lvl, a => State.recAbove s r k (lvl + 1) (s.recParent r lvl a)

/-- The job of a record is cancelled: what is below it ends when its children have, whatever a program has stored to the
counters (R326). -/
def State.jobCut (s : State) (r : Rec) (lvl a : Nat) : Bool := s.recMarked r (s.recAbove r (4 - lvl) lvl a)

/-- Every child of a group has ended (R329). -/
def State.kidsEnded (s : State) (r : Rec) (lvl a : Nat) : Bool := (s.recKids r a).all fun k => stDONE ≤ s.recState r (lvl - 1) k

/-- A child of a group has ended (R326, R330). -/
def State.childEnded (s : State) (r : Rec) (lvl a : Nat) : State × List SeqWork :=
  let (n, s) := s.recDec r a
  (s, if n = 0 || s.jobCut r lvl a && s.kidsEnded r lvl a then [.endGroup lvl a] else [])

/-- A launch has ended: its successors may become READY, and its graph counts it (R330). -/
def State.endLaunch (s : State) (r : Rec) (a : Nat) : State × List SeqWork :=
  let s := s.setRec r 1 a (if s.recMarked r a then stCANCELLED else stDONE)
  let s := s.modPart r.p fun x => { x with ready := x.ready.filter fun y => !(y.record == a && y.ctx == r.c) }
  let s := (s.recSucc r a).foldl (fun s k =>
    let n : W32 := BitVec.ofNat 32 (s.recGet r.p r.c (k + 8) 4) - 1
    let s := s.recPut r.p r.c (k + 8) 4 n.toNat
    if n == 0 && s.recState r 1 k == stWAITING then s.makeReady r k else s) s
  s.childEnded r 2 (s.recParent r 1 a)

/-- The first phase of a job that has not started. -/
def State.nextPhase (s : State) (r : Rec) (j : Nat) : List SeqWork :=
  match (s.recKids r j).find? fun k => s.recState r 3 k == stIDLE with
  | some k => [.startPhase k]
  | none => []

/-- A phase has ended: the job counts it and goes on, is held, or drops what is left (R134, R330). -/
def State.endPhase (s : State) (r : Rec) (a : Nat) : State × List SeqWork :=
  let cut := s.recMarked r a
  let s := s.setRec r 3 a (if cut then stCANCELLED else stDONE)
  let j := s.recParent r 3 a
  let (n, s) := s.recDec r j
  if n = 0 then (s, [.endGroup 4 j])
  else if s.recMarked r j then (s, [.dropPhases j])
  else if cut then (s.setRec r 4 j stHELD, [])
  else (s, s.nextPhase r j)

/-- A graph starts; its launches become READY or WAITING, those of a cancelled graph end (R134, R330). -/
def State.startGraph (s : State) (r : Rec) (g : Nat) : State × List SeqWork :=
  let cut := s.recMarked r g
  let s := s.setRec r 2 g stRUNNING
  (s.recKids r g).foldl (fun (s, w) l =>
    if cut || s.recMarked r l then (s.recMark r l, w ++ [.endLaunch l])
    else if s.recGet r.p r.c (l + 8) 4 = 0 then (s.makeReady r l, w)
    else (s.setRec r 1 l stWAITING, w)) (s, [])

/-- Every graph of a phase starts in the same step (R330). -/
def State.startPhase (s : State) (r : Rec) (a : Nat) : State × List SeqWork :=
  let cut := s.recMarked r a
  let s := s.setRec r 3 a stRUNNING
  (s.recKids r a).foldl (fun (s, w) g =>
    let s := if cut then s.recMark r g else s
    let (s, more) := s.startGraph r g
    (s, w ++ more)) (s, [])

/-- The phases of a cancelled job that have not started end (R134). -/
def State.dropPhases (s : State) (r : Rec) (j : Nat) : State × List SeqWork :=
  let (s, n) := ((s.recKids r j).filter fun k => s.recState r 3 k == stIDLE).foldl (fun (s, _) k =>
    let (n, s) := ((s.recMark r k).setRec r 3 k stCANCELLED).recDec r j
    (s, n)) (s, 1)
  (s, if n = 0 || s.kidsEnded r 4 j then [.endGroup 4 j] else [])

/-- The counter of a group record has reached 0 (R330). -/
def State.endGroup (s : State) (r : Rec) (lvl a : Nat) : State × List SeqWork :=
  if lvl = 2 then (s.setRec r 2 a (if s.recMarked r a then stCANCELLED else stDONE)).childEnded r 3 (s.recParent r 2 a)
  else if lvl = 3 then s.endPhase r a
  else (s.jobEnd r a (if s.recMarked r a then stCANCELLED else stDONE), [])

/-- One piece of accounting, and what follows from it (R134, R330); a record ends once (R329). -/
def State.seqStep (s : State) (r : Rec) : SeqWork → State × List SeqWork
  | .endLaunch a => if s.recState r 1 a < stDONE then s.endLaunch r a else (s, [])
  | .endGroup lvl a => if s.recState r lvl a < stDONE then s.endGroup r lvl a else (s, [])
  | .startPhase a => s.startPhase r a
  | .dropPhases j => s.dropPhases r j

/-- Does all the accounting that follows. -/
def State.seqRun (s : State) (r : Rec) : Nat → List SeqWork → State
  | 0, _ => s
  | _ + 1, [] => s
  | fuel + 1, w :: rest =>
    let (s, more) := s.seqStep r w
    State.seqRun s r fuel (more ++ rest)

/-- More steps of accounting than a job of 65,535 launches can need. -/
def seqFuel : Nat := 400000

/-! ## Cancelling (R134) -/

/-- Every unit of a tile meets its cancellation end (R133, R134): those in slots through CANCEL, the others at once, with the
child counters they name; no activation starts any more. -/
def State.cancelTile (s : State) (tile : Nat) : State :=
  let s := s.modTile tile fun t => { t with launch := t.launch.map fun l => { l with cancelled := true } }
  (List.finRange 8).foldl (fun s k =>
    let c := s.core tile k
    let waiting := c.park.map (·.2) ++ c.entryList.map c.entryNow ++ c.stealing.toList
    let s := s.modCore tile k fun c =>
      waiting.foldl Core.freeOf { c with park := [], deque := Vector.replicate 4 [], stealing := none }
    let s := waiting.foldl (fun s e =>
      (s.cancelAccount tile e.w[1] e.w[2]).cancelCounters tile none cancelFuel (childOf e.w[1])) s
    (List.finRange 16).foldl (fun s h =>
      let r : ThreadRef := ⟨tile, k, h⟩
      match (s.thread r).st with
      | .empty => s
      | .stopped => s.cancelEnd r
      | _ => s.atTile tile 0 .cancel r) s) s

/-- The tiles that run a launch (R334). -/
def State.tilesOf (s : State) (r : Rec) (a : Nat) : List Nat :=
  (s.tiles.filter fun t => match t.2.launch with
    | some l => l.part == r.p && l.ctx == r.c && l.recAddr == a && !l.retired
    | none => false).map (·.1)

/-- A launch has no tile any more that has not retired, SAVED ones included (R334, R394). -/
def State.noTiles (s : State) (r : Rec) (a : Nat) : Bool :=
  (s.tilesOf r a).isEmpty && !((s.ctx r.p r.c).saved.any fun t => match t.2.1.launch with
    | some l => l.recAddr == a && !l.retired
    | none => false)

/-- The units of a running launch are cancelled: those of its tiles, and when it is SAVED once it is restored (R134, R394). A launch
of a cancelled job that has no tile left ends (R326). -/
def State.cutLaunch (s : State) (r : Rec) (a : Nat) : State :=
  let s := (s.tilesOf r a).foldl State.cancelTile s
  let s := if (s.ctx r.p r.c).state = 0x03 then s.modCtx r.p r.c fun x => { x with cuts := a :: x.cuts } else s
  if s.jobCut r 1 a && s.noTiles r a then s.seqRun r seqFuel [.endLaunch a] else s

/-- Sets the mark of a record and of everything below it that has started or waits (R134). -/
def State.markDown (s : State) (r : Rec) : Nat → Nat → State
  | 0, _ => s
  | lvl + 1, a =>
    let s := s.recMark r a
    if lvl = 0 ∨ s.recState r (lvl + 1) a ≠ stRUNNING then s
    else (s.recKids r a).foldl (fun s k => if s.recState r lvl k ≤ stHELD then State.markDown s r lvl k else s) s

/-- Ends what a marked record has not started and cancels what runs (R134). -/
def State.cutDown (s : State) (r : Rec) : Nat → Nat → State
  | 0, _ => s
  | lvl + 1, a =>
    let st := s.recState r (lvl + 1) a
    if lvl = 0 then
      if st = stRUNNING then s.cutLaunch r a
      else if st = stWAITING ∨ st = stREADY then s.seqRun r seqFuel [.endLaunch a]
      else s
    else if lvl = 3 ∧ (st = stIDLE ∨ st = stHELD) then s.seqRun r seqFuel [.dropPhases a]
    else if st = stRUNNING then
      let s := (s.recKids r a).foldl (fun s k => State.cutDown s r lvl k) s
      if s.jobCut r (lvl + 1) a && s.kidsEnded r (lvl + 1) a then
        s.seqRun r seqFuel [if lvl = 3 then .dropPhases a else .endGroup (lvl + 1) a] else s
    else s

/-- A cancel at level 1 to 4 of a record that a job names; answers whether it was accepted (R134, R333). -/
def State.cancelRecord (s : State) (r : Rec) (job lvl a : Nat) : State × Bool :=
  if 1 ≤ lvl ∧ lvl ≤ 4 ∧ (s.recsAt r lvl 4 job).contains a then ((s.markDown r lvl a).cutDown r lvl a, true)
  else (s, false)

/-- The job of a tile's launch, by its record's parents (R327, R328). -/
def State.jobOf (s : State) (tile : Nat) : Nat :=
  let l := s.launch tile
  let r : Rec := ⟨l.part, l.ctx⟩
  s.recParent r 3 (s.recParent r 2 (s.recParent r 1 l.recAddr))

/-- task.cancel; at level 0 it acts at the counter's home port (R123, R134). -/
def execTaskCancel (d a b : SReg) (la : BitVec 4) (s : State) : Out :=
  .next (s.issue (.taskCancel d a b la) true fun s =>
    let tile := s.cur.tile
    let x := s.th.getS a
    let lvl := ((s.th.getS b).extractLsb' 0 3).toNat
    if lvl = 0 then
      if !counterOk x then .trap .xscope x
      else
        let (lat, s) := s.within 24
        if x = 0 then .next (s.deferRes la [.s d] lat { s := [(d, 0)] })
        else
          let a := s.counterAccess s.cur x.toNat (.mark d (s.now tile + lat))
          .next ((s.modTh fun t => t.addOutst [.s d] (some la) (.port none)).sendAccess a)
    else
      let (lat, s) := s.within 1500
      let l := s.launch tile
      let (s', done) := s.cancelRecord ⟨l.part, l.ctx⟩ (s.jobOf tile) lvl x.toNat
      .next (s'.deferRes la [.s d] lat { s := [(d, if done then 1 else 0)] }))

/-! ## The job cell (R331 to R333) -/

/-- HOST_JOB_POST: a host write of 32 bytes at offset 0 is a post on the job cell, which the sequencer samples within 4,096
reference ticks (R331, R332). Operands: function, value (d); ok = false: any other size or place, which is dropped. -/
def execHostJobPost (s : State) : Out :=
  .next (match s.ofVf s.arg.n with
    | none => s
    | some (p, c) =>
      if !s.arg.ok then s
      else
        let v : V256 := s.arg.d.setWidth 256
        let s := s.modCtx p c fun x => { x with jobCell := x.jobCell.post v 0xFFFF 0 }
        let (k, s) := s.takeFresh
        let i : Instr := match valBytes v 16 1 with
          | 2 => .sequencerCancel
          | 3 => .sequencerResume
          | _ => .submit
        s.atRef (Config.freeLatency k % 4096) i default { n := p, m := c })

/-- What the sequencer finds in a job cell: the command, the record, the level and the sequence, when it may act (R332). -/
def State.jobCommand (s : State) (p c : Nat) : Option (Nat × Nat × Nat × Nat) :=
  let x := s.ctx p c
  let v := x.jobCell.value
  if valBytes v 8 8 = (x.acc + 1) % 2 ^ 64 then some (valBytes v 16 1, valBytes v 0 8, valBytes v 17 1, valBytes v 8 8) else none

/-- The echo of a command acted on (R332). -/
def State.echoRes (s : State) (r : Rec) (seq res : Nat) : State :=
  s.echoPost r seq res (s.ctx r.p r.c).done (s.ctx r.p r.c).last

/-- A partition that includes an unavailable strip (R431). -/
def State.partDown (s : State) (p : Nat) : Bool :=
  let x := s.part p
  (List.range 64).any fun b => s.md.unavail.getLsbD b && x.sc0 ≤ b % 32 && b % 32 ≤ x.sc1 && x.sr0 ≤ b / 32 && b / 32 ≤ x.sr1

/-- SUBMIT: the records are checked and the job is queued; a command code of no meaning gives BADCMD (R331, R333, R431). -/
def execSubmit (s : State) : Out :=
  let r : Rec := ⟨s.arg.n, s.arg.m⟩
  .next (match s.jobCommand r.p r.c with
    | none => s
    | some (cmd, a, _, seq) =>
      if cmd = 2 ∨ cmd = 3 then s
      else if cmd ≠ 1 then s.echoRes r seq 3
      else if s.partDown r.p then s.echoRes r seq 4
      else if !s.jobOk r a then s.echoRes r seq 2
      else if 64 ≤ (s.part r.p).jobs.length then s
      else (s.echoRes r seq 0).modPart r.p fun x => { x with jobs := x.jobs ++ [⟨a, r.c, false⟩] })

/-- A queued or running job of the partition that has a record of a level at the place that an address of a context names, and the
record's address in the job's own context (R333). -/
def State.jobNaming (s : State) (r : Rec) (lvl a : Nat) : Option (Job × Nat) :=
  match if a < 2 ^ 56 then s.recPa r.p r.c a false else none with
  | none => none
  | some pa => ((s.part r.p).jobs.filterMap fun j =>
      ((s.recsAt ⟨r.p, j.ctx⟩ lvl 4 j.record).find? fun k => s.recPa r.p j.ctx k false == some pa).map fun k => (j, k)).head?

/-- SEQUENCER_CANCEL (R333). -/
def execSequencerCancel (s : State) : Out :=
  let r : Rec := ⟨s.arg.n, s.arg.m⟩
  .next (match s.jobCommand r.p r.c with
    | some (2, a, lvl, seq) =>
      match if 1 ≤ lvl ∧ lvl ≤ 4 then s.jobNaming r lvl a else none with
      | some (j, k) => ((s.echoRes r seq 0).cancelRecord ⟨r.p, j.ctx⟩ j.record lvl k).1
      | none => s.echoRes r seq 4
    | _ => s)

/-- SEQUENCER_RESUME: a HELD job starts its next phase (R333). -/
def execSequencerResume (s : State) : Out :=
  let r : Rec := ⟨s.arg.n, s.arg.m⟩
  .next (match s.jobCommand r.p r.c with
    | some (3, a, _, seq) =>
      match s.jobNaming r 4 a with
      | some (j, k) =>
        let q : Rec := ⟨r.p, j.ctx⟩
        if s.recState q 4 k == stHELD then
          let s := (s.echoRes r seq 0).setRec q 4 k stRUNNING
          s.seqRun q seqFuel (s.nextPhase q k)
        else s.echoRes r seq 4
      | none => s.echoRes r seq 4
    | _ => s)

/-- Jobs that may start: no earlier job of their context is RUNNING or HELD, and the context is not saved, being stopped or torn down
(R333, R344, R376). -/
def Part.startable (x : Part) : List Job :=
  (x.jobs.zipIdx).filterMap fun (j, i) =>
    let y := x.ctx j.ctx
    if j.started || (x.jobs.take i).any (fun k => k.ctx == j.ctx) || y.state == 0x03 || y.state == 0x04 || y.stopping then none else some j

/-- JOB_START: a queued job starts with its phase 0 (R330, R333). Operands: partition, context, job record (w). -/
def execJobStart (s : State) : Out :=
  let r : Rec := ⟨s.arg.n, s.arg.m⟩
  let a := s.arg.w.toNat
  .next (if (s.part r.p).startable.any fun j => j.ctx == r.c && j.record == a then
      let s := s.modPart r.p fun x => { x with
        jobs := x.jobs.map fun j => if j.ctx == r.c && j.record == a then { j with started := true } else j }
      let s := s.setRec r 4 a stRUNNING
      s.seqRun r seqFuel ((s.recKids r a).take 1 |>.map .startPhase)
    else s)

/-! ## Launch start (R334, R258) -/

/-- The launch that a record describes (R328). -/
def State.readLaunch (s : State) (r : Rec) (a : Nat) : Launch :=
  let f (o n : Nat) : Nat := s.recGet r.p r.c (a + o) n
  { recAddr := a, part := r.p, ctx := r.c, det := f 15 1 % 2 == 1, prio := f 15 1 / 4 % 4
    gx0 := f 24 1, gy0 := f 25 1, w := f 26 1, h := f 27 1, period := f 28 4, drift := f 32 4, limit := f 36 4
    seed := BitVec.ofNat 64 (f 40 8), rootCore := (BitVec.ofNat 3 (f 52 1)).toFin, rootThr := (BitVec.ofNat 4 (f 52 1 / 8)).toFin
    ntask := f 54 2, task := f 56 8, code := BitVec.ofNat 64 (f 64 8), csize := f 72 4, entry := BitVec.ofNat 32 (f 76 4)
    tvec := BitVec.ofNat 64 (f 80 8), fbytes := f 100 4, expo := BitVec.ofNat 16 (f 120 2) }

/-- The dithered period of a tile (R258). -/
def dithered (l : Launch) (tile : Nat) : Nat :=
  let x : W32 := l.seed.extractLsb' 0 32 ^^^ l.seed.extractLsb' 32 32 ^^^ (BitVec.ofNat 32 (tile % 0x2000) * 0x9E37_79B9)
  let p : Int := l.period
  (p + (p * l.drift * ((x.toNat : Int) - 2 ^ 31)).tdiv (2 ^ 32 * 10 ^ 6)).toNat

/-- A tile before a launch is set up on it, or that has been saved: what belongs to the module, not to the launch that ran on it, stays
(R3, R271, R274): the slice and its requests, the translation buffer, flits in its routers' endpoint, the ports' rings, the health
checks. The request table and the prefix pool go with the rest (DESIGN CHOICE: R334 sets cells, engines, channels and deques to
launch state and does not name them; R3 counts them among what lives across launches; log 105). -/
def Tile.bare (t : Tile) : Tile :=
  { slice := t.slice, sreqs := t.sreqs, tlb := t.tlb, ports := t.ports, missed := t.missed
    copy := {
      inj := t.copy.inj
      ingress := t.copy.ingress
      accepted := t.copy.accepted.filter fun f => match f.msg with
        | .lineReq _ => true
        | _ => false
      nextRef := t.copy.nextRef
      mcin := t.copy.mcin.filter fun x => 32 ≤ x.num } }

/-- A launch leaves a tile: what it has left there stays until the next launch starts (R266, R306, R314, R325; log 105). -/
def Tile.vacate (t : Tile) : Tile := { t with launch := none, misses := [] }

/-- Steps of a tile that concern its launch leave the agenda; those of its slice, its deck's walkers, its routers and its strip's
gateway stay. -/
def State.dropAgenda (s : State) (tile : Nat) : State :=
  { s with agenda := s.agenda.filter fun e => e.cur.tile != tile || e.clk == .ref && e.i != .periodTick || (match e.i with
      | .hbmFill => true
      | .translationWalk => true
      | .sliceEviction => true
      | .flitIngress => true
      | .remoteReadRequest => true
      | .ackReceived => true
      | _ => false) }

/-- A launch's tile is set up (R334, R271, R24). -/
def State.setUpTile (s : State) (l : Launch) (mxw : Nat) (image : List Byte) (tile : Nat) : State :=
  let s := (s.flushLines tile).dropAgenda tile
  s.modTile tile fun t =>
    let lm : Memory := Memory.writeBytes [] 0 image
    let c : Core := { lm := lm, area := frameBase l - 0xC000 }
    { t.bare with launch := some l, cores := Vector.replicate 8 c, kperiod := BitVec.ofNat 32 (dithered l tile),
                  kmxw := BitVec.ofNat 32 mxw }

/-- The tile runs no commands any more, so that a retired launch leaves it (R260). -/
def Tile.idle (t : Tile) : Bool :=
  (t.copy.chans.all fun k => k.2.run.isNone) && t.drains.isEmpty && t.ev.cmds.isEmpty && t.mx.rows.isEmpty && t.mx.load.isNone &&
    t.mx.open_.isEmpty && t.accs.isEmpty && t.cores.toList.all fun c => c.copyq.isEmpty && c.mxq.isEmpty

/-- A claim on tiles: a READY launch, or a SAVED context that waits to be restored (R334, R345; log 24). -/
inductive Claim where
  | start (r : Ready)
  | restore (ctx : Nat)

/-- The claims of a partition in rank order: priority, then order (R334); what would begin a second quantum of a context in this round
comes after the others (R345; log 24). -/
def Part.claims (x : Part) : List (Nat × Nat × Claim) :=
  let rec insert (c : Nat × Nat × Claim) : List (Nat × Nat × Claim) → List (Nat × Nat × Claim)
    | [] => [c]
    | y :: ys => if y.1 < c.1 || (y.1 == c.1 && c.2.1 < y.2.1) then c :: y :: ys else y :: insert c ys
  let again (c : Nat) : Bool := (x.ctx c).state != 0x02 && x.served.contains c
  let starts (late : Bool) := (x.ready.filter fun r =>
      (x.ctx r.ctx).state != 0x03 && (x.ctx r.ctx).state != 0x04 && !(x.ctx r.ctx).stopping && again r.ctx == late).map fun r => (r.prio, r.order, Claim.start r)
  let saved (late : Bool) := (x.ctxs.filter fun c => c.2.state == 0x03 && again c.1 == late).map fun c =>
    (c.2.saved.foldl (fun m t => max m ((t.2.1.launch.map (·.prio)).getD 0)) 0, c.2.since, Claim.restore c.1)
  (starts false ++ saved false).foldl (fun acc c => insert c acc) [] ++ (starts true ++ saved true).foldl (fun acc c => insert c acc) []

/-- The tiles that a claim needs. -/
def State.claimTiles (s : State) (p : Nat) : Claim → List Nat
  | .start r => s.recTiles ⟨p, r.ctx⟩ r.record
  | .restore c => (s.ctx p c).saved.map (·.1)

def State.tileFree (s : State) (tile : Nat) : Bool := (s.tile tile).launch.isNone

/-- The claims that can be met now: all their tiles are free, and no claim of higher rank has reserved one (R334). -/
def State.grantable (s : State) (p : Nat) : List Claim :=
  ((s.part p).claims.foldl (fun (acc : List Claim × List Nat) c =>
    let ts := s.claimTiles p c.2.2
    let ok := ts.all fun t => s.tileFree t && !acc.2.contains t
    (if ok then acc.1 ++ [c.2.2] else acc.1, acc.2 ++ ts)) ([], [])).1

/-- A context begins a quantum (R344); the second one of a context begins another round (R345). -/
def State.beginQuantum (s : State) (r : Rec) : State :=
  let s := s.modPart r.p fun x => { x with served := if x.served.contains r.c then [r.c] else r.c :: x.served }
  let s := s.modCtx r.p r.c fun x => { x with quanta := x.quanta + 1 }
  let x := s.ctx r.p r.c
  if x.quantum = 0 then s
  else s.atRef (4096 * x.quantum) .quantumExpiry default { n := r.p, m := r.c, w := BitVec.ofNat 64 x.quanta }

/-- A byte of a launch's image, in the partition's memory or in the host's (R334, R389). -/
def State.imageByte (s : State) (r : Rec) (va : Nat) : Byte :=
  match s.walkVA r.p r.c (BitVec.ofNat 64 va) with
  | .error _ => 0
  | .ok e => match (s.part r.p).apply e (BitVec.ofNat 64 va) true false with
    | .host pa => BitVec.ofNat 8 (s.hostRead pa 1)
    | _ => BitVec.ofNat 8 (s.recGet r.p r.c va 1)

/-- The bytes of a launch's .lmem image (R328). -/
def State.lmemImage (s : State) (r : Rec) (a : Nat) : List Byte :=
  let base := s.recGet r.p r.c (a + 88) 8
  (List.range (min (s.recGet r.p r.c (a + 96) 4) 0x4_0000)).map fun i => s.imageByte r (base + i)

/-- One launch starts: its tiles are set up and take their first tick together (R334). The set-up takes a time the spec does
not fix. -/
def State.startLaunch (s : State) (r : Rec) (a : Nat) : State :=
  let l := s.readLaunch r a
  let tiles := s.recTiles r a
  let mxw := s.recGet r.p r.c (a + 48) 4
  let image := s.lmemImage r a
  let s := s.modPart r.p fun x => { x with ready := x.ready.filter fun y => !(y.record == a && y.ctx == r.c) }
  let s := tiles.foldl (fun s t => s.setUpTile l mxw image t) s
  let s := s.recPut r.p r.c a 8 (ctrPut tiles.length (s.recMarked r a))
  let s := s.setRec r 1 a stRUNNING
  let (k, s) := s.takeFresh
  let t0 := max (s.recGet r.p r.c (a + 104) 8) (s.clock + Config.freeLatency k + 4096)
  let s := tiles.foldl (fun s t =>
    (s.atRef (t0 - s.clock) .periodTick ⟨t, 0, 0⟩ {}).modTile t fun x => { x with tickDue := s.now t + (t0 - s.clock) }) s
  if (s.ctx r.p r.c).state = 0x02 then s
  else (s.modCtx r.p r.c fun x => { x with state := 0x02 }).beginQuantum r

/-- LAUNCH_START: every READY launch that can take its tiles starts, in rank order (R334). Operand: the partition. -/
def execLaunchStart (s : State) : Out :=
  let p := s.arg.n
  .next ((s.grantable p).foldl (fun s c => match c with
    | .start r => s.startLaunch ⟨p, r.ctx⟩ r.record
    | .restore _ => s) s)

/-! ## Activations (R259 to R261, R335, R342) -/

/-- The record of the root unit (R335). -/
def rootRecord (l : Launch) : Vector W32 16 :=
  let w : Vector W32 16 := Vector.replicate 16 0
  (w.set 0 l.entry).set 1 (0x100 ||| (if l.det then 0x200 else 0) ||| BitVec.ofNat 32 (l.prio * 64))

/-- The record of static task i (R342). -/
def taskRecord (l : Launch) (tpl : List Byte) (tile i : Nat) : Vector W32 16 :=
  let w := spawnRecord tpl {} true 0
  ((w.set 4 (BitVec.ofNat 32 i)).set 5 (BitVec.ofNat 32 l.ntask)).set 6 (BitVec.ofNat 32 (l.order tile))

/-- An activation starts (R259, R335, R342, R343). -/
def State.startActivation (s : State) (tile : Nat) : State :=
  let l := s.launch tile
  let s := s.modTile tile fun t =>
    { t with kact := t.kact + 1, actRuns := true, rootsLeft := 1
             cores := t.cores.mapIdx fun k c =>
               if k = l.rootCore.val then { c with nextRun := 2, openRuns := [1] } else { c with nextRun := 1, openRuns := [] } }
  let root : ThreadRef := ⟨tile, l.rootCore, l.rootThr⟩
  let s := s.modCore tile l.rootCore fun c => { c with picks := c.picks + 1 }
  let (n, s) := s.takeOwner tile
  let s := s.modThread root fun t =>
    { (t.ofRecord (rootRecord l)) with run := 1, owner := n, notBefore := s.now tile + 1, picked := (s.core tile l.rootCore).picks }
  let s := s.checkPc root
  if l.det ∧ l.ntask ≠ 0 then
    match s.readRecord tile (BitVec.ofNat 64 l.task) 64 fun k => k == 0 || k == 14 with
    | .ok tpl => (List.range l.ntask).foldl (fun s i =>
        s.modCore tile ⟨i % 8, Nat.mod_lt _ (by decide)⟩ fun c =>
          c.pushBottom { w := taskRecord l tpl tile i, key := some (0, i) }) s
    | _ => s
  else s

/-- No activation starts any more: the limit is reached or the launch is cancelled (R259). A limit of 0 is none (R86). -/
def Tile.noMore (t : Tile) : Bool :=
  match t.launch with
  | some l => l.cancelled || (l.limit != 0 && l.limit ≤ t.kact.toNat)
  | none => false

/-- The tile retires: the line caches are written back, then the launch's counter counts it (R271, R330, R335). -/
def State.retireTile (s : State) (tile : Nat) : State :=
  let l := s.launch tile
  if l.retired then s
  else
    let r : Rec := ⟨l.part, l.ctx⟩
    let s := (s.flushLines tile).modTile tile fun t => { t with launch := some { l with retired := true } }
    let (n, s) := s.recDec r l.recAddr
    if n = 0 || s.jobCut r 1 l.recAddr && s.noTiles r l.recAddr then s.seqRun r seqFuel [.endLaunch l.recAddr] else s

/-- The measured period is checked (R261). -/
def State.checkDrift (s : State) (tile : Nat) : State :=
  let l := s.launch tile
  let t := s.tile tile
  let m := s.clock - t.lastTick
  if !t.ticked ∨ (l.period * (10 ^ 6 - l.drift) ≤ 10 ^ 6 * m ∧ 10 ^ 6 * m ≤ l.period * (10 ^ 6 + l.drift)) then s
  else
    let s := s.modTile tile fun t => { t with
      alarm := true, alarmCount := if t.alarmCount = 0xFFFF then t.alarmCount else t.alarmCount + 1 }
    { s with reports := s.reports ++ [⟨tile, 1, BitVec.ofNat 64 m, t.kact, none⟩] }

/-- PERIOD_TICK (R259, R261): an activation starts, or a tick is missed; a tile that starts none any more retires. -/
def execPeriodTick (s : State) : Out :=
  let tile := s.cur.tile
  let l := s.launch tile
  .next (if (s.tile tile).launch.isNone || l.retired || (s.tile tile).frozen then s
    else
      let s := s.checkDrift tile
      let t := s.tile tile
      let pt := t.kperiod.toNat
      -- a launch's only tick that a pre-emption keeps from starting an activation is made again at restore (R312, R344)
      let again := t.stopping && pt == 0 && !t.actRuns && !t.noMore
      let s := s.modTile tile fun t => { t with ticked := t.ticked || !again, lastTick := s.clock, tickDue := s.now tile + pt }
      let s := if pt = 0 then s else s.atTile tile pt .periodTick
      if t.actRuns then
        s.modTile tile fun t => { t with koverrun := if t.koverrun = 0xFFFF_FFFF then t.koverrun else t.koverrun + 1 }
      else if t.noMore then s
      else if t.stopping then s
      else s.startActivation tile)

/-- Every root has ended and no unit is left on the tile (R260). -/
def Tile.actOver (t : Tile) : Bool :=
  t.actRuns && t.rootsLeft == 0 && t.cores.toList.all fun c =>
    c.entries == 0 && c.park.isEmpty && c.stealing.isNone && c.threads.toList.all fun h => h.st == .empty

/-- A tile between activations that starts none any more retires, once its accesses have performed (R259, R134, R271). -/
def Tile.canRetire (t : Tile) : Bool :=
  !t.actRuns && !t.frozen && t.accs.isEmpty && t.noMore && !(t.launch.getD {}).retired

/-- ACTIVATION_RETIRE (R260, R259): the tile itself retires when no activation starts any more. -/
def execActivationRetire (s : State) : Out :=
  let tile := s.cur.tile
  let s := if (s.tile tile).actOver then s.modTile tile fun t => { t with actRuns := false } else s
  .next (if (s.tile tile).canRetire then s.retireTile tile else s)

/-! ## The group watchdog (R242) -/

/-- Some engine or copy command of the tile is queued or runs. -/
def Tile.hasCommand (t : Tile) : Bool :=
  (t.copy.chans.any fun k => k.2.run.isSome) || !t.ev.cmds.isEmpty || t.cores.toList.any fun c => !c.copyq.isEmpty || !c.mxq.isEmpty

/-- A tile cycle passes at the watchdog. -/
def Tile.watch (t : Tile) : Tile :=
  if t.cores.toList.any (fun c => c.threads.toList.any fun h => h.st != .empty && h.inEngFault) then t
  else if t.hasCommand then { t with watchdog := t.watchdog + 1 } else t

/-- GROUP_WATCHDOG: the count has reached the limit; a hang is reported and the count starts again (R242). -/
def execGroupWatchdog (s : State) : Out :=
  let tile := s.cur.tile
  let n := (s.tile tile).watchdog
  .next (if n < (s.part (s.launch tile).part).hangLimit then s
    else { s.modTile tile fun t => { t with watchdog := 0 } with
      reports := s.reports ++ [⟨tile, 3, BitVec.ofNat 64 n, 0, none⟩] })

end Sys2Proof.Machine
end

