-- ==== Sys2Proof/Machine/Contexts.lean ====
section
/-!
DEFINITION. Contexts over time: epochs (spec/17 R357), pre-emption, save and restore (spec/16 R344, spec/19 R394 to R397, spec/17 R365),
fences (spec/21 R419, R420), resets and teardown (spec/17 R375, R376), partitions (spec/19 R384, R385) and keys (R400 to R402).
-/
namespace Sys2Proof.Machine

/-! ## The epoch (R357, R387) -/

/-- A bump, if the new ctag has not been carried in the last 2^23 reference ticks; else when that time has passed. -/
def State.tryBump (s : State) (r : Rec) : Option State :=
  let e := (s.ctx r.p r.c).epoch
  let tag (x : W32) : Nat := 16 * (r.c % 16) + x.toNat % 16
  let free := match (s.part r.p).ctags.get? (tag (e + 1)) with
    | none => true
    | some t => t + 2 ^ 23 ≤ s.clock
  if free then
    some ((s.modCtx r.p r.c fun x => { x with epoch := e + 1 }).modPart r.p fun x => { x with ctags := x.ctags.set (tag e) s.clock })
  else none

/-- The tick at which a waiting bump may be made. -/
def State.bumpTime (s : State) (r : Rec) : Nat :=
  (s.part r.p).ctags.getD (16 * (r.c % 16) + ((s.ctx r.p r.c).epoch + 1).toNat % 16) 0 + 2 ^ 23

def State.bumpEpoch (s : State) (r : Rec) : State :=
  let late (s : State) : State :=
    (s.modCtx r.p r.c fun x => { x with bumps := x.bumps + 1 }).atRef (s.bumpTime r - s.clock) .epochBump default
      { n := r.p, m := r.c }
  if (s.ctx r.p r.c).bumps ≠ 0 then late s
  else match s.tryBump r with
  | some s => s
  | none => late s

/-- EPOCH_BUMP: a bump that waited is made (R357). Operands: partition, context. -/
def execEpochBump (s : State) : Out :=
  let r : Rec := ⟨s.arg.n, s.arg.m⟩
  .next (if (s.ctx r.p r.c).bumps = 0 then s
    else match s.tryBump r with
    | some s => s.modCtx r.p r.c fun x => { x with bumps := x.bumps - 1 }
    | none => s.atRef (s.bumpTime r - s.clock) .epochBump default s.arg)

/-! ## Tiles of a context -/

/-- The tiles that a context holds. -/
def State.ctxTiles (s : State) (r : Rec) : List Nat :=
  (s.tiles.filter fun t => match t.2.launch with
    | some l => l.part == r.p && l.ctx == r.c
    | none => false).map (·.1)

/-- The identifiers of a channel's running and queued commands, in order. -/
def Tile.chanIds (t : Tile) (k : Nat) : List Nat :=
  let rec insert (x : Nat) : List Nat → List Nat
    | [] => [x]
    | y :: ys => if x ≤ y then x :: y :: ys else y :: insert x ys
  let queued := (t.cores.toList.flatMap (·.copyq)).filter fun q => wordChan q.word == k
  let run := match (t.copy.chan k).run with
    | some r => [r.q.id]
    | none => []
  queued.foldl (fun acc q => insert q.id acc) run

/-- The matrix jobs of a core that have not completed: those whose rows are all admitted, the load in progress, those queued. -/
def Tile.mxJobs (t : Tile) (i : Fin 8) : List Nat :=
  let ids := ((t.mx.open_.filter fun o => o.1 == i).map (·.2.1)) ++ ((t.mx.load.toList.filter fun l => l.core == i).map MxLoad.job) ++
    t.cores[i].mxq.map QCmd.id
  ids.foldl (fun acc x => if acc.contains x then acc else acc ++ [x]) []

/-- Every running and queued command of a tile ends CANCELLED (R225, R227, R376, R419). -/
def Tile.cancelAll (t : Tile) : Tile :=
  let chans := (List.range 64).foldl (fun (cs : KMap Chan) k =>
    let x := t.copy.chan k
    if x.last = x.ct then cs
    else cs.set k { x with ct := x.last, run := none, fpend := none, bound := false
                           fail := (t.chanIds k).foldl (fun f id => f.note 0x01 id) x.fail }) t.copy.chans
  { t with
    copy := { t.copy with chans := chans, bar := none, probes := [], reqs := [], late := [], g := 0, pool := [] }
    mx := { t.mx with rows := [], load := none, open_ := [], done := Vector.replicate 8 0, recs := Vector.replicate 8 none
                      tabs := Vector.replicate 8 none, fpend := Vector.replicate 8 none }
    cores := t.cores.mapIdx fun i c => { c with
      copyq := [], mxq := [], mxDone := c.mxIssued, evDone := c.evIssued, mxLate := []
      mxFail := (t.mxJobs ⟨i % 8, Nat.mod_lt _ (by decide)⟩).foldl (fun f x => f.note 0x01 x) c.mxFail
      evFail := (t.ev.cmds.filter fun q => q.core.val == i).foldl (fun f q => f.note 0x01 q.id) c.evFail }
    ev := { t.ev with cmds := [], active := false, run := none, fpend := none, remote := 0, pendingFan := [] }
    drains := [] }

/-- A tile stops at once and is free; its channels and job identifiers show what became of its commands; rows that the matrix engine
has admitted are written (R227, R376, R419). -/
def State.stopTile (s : State) (r : Rec) (tile : Nat) : State :=
  (((s.tile tile).mx.rows.foldl (fun s x => s.writeRow tile x) s).dropAgenda tile).modTile tile fun t =>
    let x := t.cancelAll
    { t.bare with
      copy := { t.bare.copy with
        chans := x.copy.chans
        inj := t.copy.inj.filter fun i => !(i.flit.part == r.p && i.flit.slot == r.c % 16) }
      cores := x.cores.mapIdx fun _ c =>
        ({ mxIssued := c.mxIssued, mxDone := c.mxDone, evIssued := c.evIssued, evDone := c.evDone
           mxFail := c.mxFail, evFail := c.evFail } : Core) }

/-- The context's lines in the slices of its partition leave them: written back, or dropped; what system software wrote to one, such as a
translation table, is not lost (R391, R400, R419). -/
def State.purgeSlices (s : State) (r : Rec) (writeBack : Bool) : State :=
  ((s.tiles.map (·.1)).filter (s.part r.p).hasTile).foldl (fun s t =>
    ((((s.tile t).slice.flatMap (·.2)).filter fun l => l.ctx == r.c)).foldl (fun s l =>
      if writeBack || l.sys then s.sliceEvict t r.p l.pl else s.modTile t fun x => x.sliceDrop l.pl) s) s

/-! ## Pre-emption (R344) -/

/-- A context has READY work: a READY launch, or a saved state that waits for its tiles (R344, R345). -/
def State.hasReadyWork (s : State) (p c : Nat) : Bool :=
  ((s.part p).ready.any fun r => r.ctx == c) || (s.ctx p c).state == 0x03

/-- QUANTUM_EXPIRY: the context is pre-empted if another context of the partition has READY work, else it begins another
quantum (R344). Operands: partition, context, the quantum's number. -/
def execQuantumExpiry (s : State) : Out :=
  let r : Rec := ⟨s.arg.n, s.arg.m⟩
  let x := s.ctx r.p r.c
  .next (if x.state ≠ 0x02 ∨ x.quanta ≠ s.arg.w.toNat then s
    else if (s.part r.p).ctxs.any fun c => c.1 != r.c && s.hasReadyWork r.p c.1 then
      s.atRef 0 .preEmption default { n := r.p, m := r.c }
    else s.beginQuantum r)

/-- PRE_EMPTION: activations of the context's tiles stop starting; each tile is saved at its next activation boundary or
after the grace (R344). The save area is in progress from now on (R395). Operands: partition, context. -/
def execPreEmption (s : State) : Out :=
  let r : Rec := ⟨s.arg.n, s.arg.m⟩
  .next (if (s.ctx r.p r.c).state ≠ 0x02 ∨ (s.ctx r.p r.c).stopping then s
    else
      let s := (s.modCtx r.p r.c fun x => { x with stopping := true }).physWrite r.p r.c ((s.ctx r.p r.c).save + 3) [2]
      let s := (s.ctxTiles r).foldl (fun s t => s.modTile t fun x => { x with stopping := true }) s
      s.atRef (s.part r.p).grace .contextSave default { n := r.p, m := r.c })

/-- A tile at an activation boundary of a context that is being stopped issues nothing more (R344, R394). -/
def Tile.atBoundary (t : Tile) : Bool := t.stopping && !t.frozen && !t.actRuns

/-- It is a binding's turn at its channel (R194). -/
def Tile.turnAt (t : Tile) (b : StrmBind) : Bool := b.xid == (t.copy.chan b.chan.val).ct + 1

/-- Nothing of a stopped thread is under way but waits: no reservation is held and no trap is being taken; an output stream whose turn
has come has handed its data on (R344, R394 steps 1 and 4). -/
def Tile.quietThread (t : Tile) (h : Thread) : Bool :=
  h.resv.isNone && h.trap.isNone && h.outst.all Outst.waits && h.binds.all fun b => !b.2.out || b.2.buf.isEmpty || !t.turnAt b.2

/-- Nothing of a stopped tile is in flight: the matrix engine has no row in flight and no load but one that a fault holds, the
event engine no answer to come, the copy unit no flit, no reply and no answer of the host to come, the ports no access but of
waits (R344, R394). -/
def Tile.quiet (t : Tile) : Bool :=
  t.frozen && t.mx.rows.isEmpty && (t.mx.load.all fun l => t.mx.fpend[l.core].isSome) && t.ev.remote == 0 &&
    t.copy.inj.isEmpty && t.copy.late.isEmpty && t.copy.ingress.isEmpty && t.copy.accepted.isEmpty && t.copy.posts.isEmpty && t.intake.isEmpty &&
    (t.copy.chans.all fun k => k.2.run.all fun r => r.host.isNone) && t.misses.isEmpty && !(t.drains.any t.turnAt) &&
    (t.accs.all fun a => ((t.cores[a.r.core].threads[a.r.thr].op? a.op).any Outst.waits)) && t.cores.toList.all fun c =>
      c.posts.isEmpty && c.displacing.isNone && c.stealing.isNone && c.tloads.isEmpty && c.threads.toList.all t.quietThread

/-- A step that a save awaits: the completion of a job or a command, a result. -/
def awaitedStep (e : Agenda) : Bool :=
  match e.i with
  | .matrixJobCompletion => true
  | .weightLoadDone => true
  | .eventJobCompletion => true
  | .copyCompletion => e.arg.ok
  | .eventIntake => true
  | .resultArrival => true
  | _ => false

/-- The tiles of a context can be saved: nothing of them, and no flit of the context, is in flight (R394). -/
def State.ctxQuiet (s : State) (r : Rec) : Bool :=
  let tiles := s.ctxTiles r
  (tiles.all fun t => (s.tile t).quiet) && !(s.agenda.any fun e => awaitedStep e && tiles.contains e.cur.tile) &&
    !(s.hops.any fun h => h.flit.part == r.p && h.flit.slot == r.c % 16) &&
    !(s.gw.out.any fun f => f.part == r.p && f.slot == r.c % 16)

/-! ## Save (R394 to R396) -/

/-- An input stream rewinds to its first unconsumed element (R394 step 4). -/
def StrmBind.rewind (b : StrmBind) : StrmBind :=
  if b.out then b
  else
    let e := datumElems (Shape.ofBits b.shape).fmt
    { b with next := e * ((b.next + e - 1) / e - b.buf.length), buf := [], coming := none }

/-- A thread as it is saved, its waits having been abandoned (R394 steps 1 and 4). -/
def Thread.forSave (t : Thread) : Thread := { t with binds := t.binds.map fun b => (b.1, b.2.rewind) }

/-- A command of a channel as it is saved: what it has read and not sent is read again, its live token is surrendered (R365, R394); a
copy.mcast keeps what it has still to send and awaits its record (R217). -/
def ChanRun.forSave (r : ChanRun) : ChanRun :=
  match decodeTWord r.q.word with
  | .ok (.copyMcast _ _) => { r with stalled := false }
  | _ => { r with wait := false, stalled := false, acc := [], got := [], gotAt := 0
                  pull := r.pull.map fun p => { p with send := none } }

/-- A park-table entry as it is saved, with the cycles left of a waitw's timeout, and as it is restored (R340, R344). -/
def ParkKey.shift (k : ParkKey) (f : Nat → Nat) : ParkKey :=
  match k with
  | .waitw w n => .waitw w (f n)
  | k => k

/-- A request-table entry as it is saved: its live token counts as expired, not as unused (R363, R365). -/
def ReqEnt.forSave (x : ReqEnt) : ReqEnt :=
  { x with next := min x.req.len (x.next + 64 * x.lead), tlen := 0, tmap := 0, posted := x.done }

/-- A tile as it is saved in a tile cycle (R394). -/
def Tile.forSave (t : Tile) (now : Nat) : Tile :=
  { t with
    cores := t.cores.mapIdx fun _ c => { c with
      park := c.park.map fun e => (e.1.shift (· - now), e.2)
      threads := c.threads.mapIdx fun _ h => h.forSave, lines := [], rolines := [], stealBusy := false }
    copy := { t.copy with
      reqs := t.copy.reqs.map fun e => (e.1, e.2.forSave), g := 0, recs := [], pool := [], acks := [], samples := []
      chans := t.copy.chans.map fun k => (k.1, { k.2 with run := k.2.run.map ChanRun.forSave }) }
    ev := { t.ev with
      active := false, remote := 0
      run := match t.ev.run with
        | some (.sampling _ _) => none
        | r => r }
    slice := [], sreqs := [], tlb := [], ports := [], missed := 0, stopping := false, frozen := false, accs := [] }

/-- The save area's header (R395). -/
def State.saveHeader (s : State) (r : Rec) (tiles : List Nat) (complete : Bool) : List Byte :=
  let x := s.ctx r.p r.c
  let settles := (x.settles.take 256).flatMap fun f => natToBytes 8 (f.1 * 256 + if f.2 then 2 else 1)
  let ids := tiles.flatMap (natToBytes 2 ·)
  let head := natToBytes 2 1 ++ natToBytes 1 r.c ++ natToBytes 1 (if complete then 1 else 2) ++ natToBytes 4 x.epoch.toNat
    ++ natToBytes 2 x.asid ++ natToBytes 2 tiles.length ++ natToBytes 4 0 ++ natToBytes 8 s.clock ++ natToBytes 8 x.settles.length
    ++ ids
  (head ++ List.replicate (0x800 - head.length) 0).take 0x800 ++ (settles ++ List.replicate (0x800 - settles.length) 0).take 0x800

/-- Bytes of a request-table entry (R360). -/
def ReqEnt.bytes (x : ReqEnt) : List Byte :=
  natToBytes 8 x.req.dest.toNat ++ natToBytes 4 x.req.len ++ natToBytes 4 x.req.xid.toNat ++ natToBytes 4 x.next ++ natToBytes 4 x.exp
    ++ natToBytes 2 x.req.src ++ natToBytes 1 (x.req.chan + 64 * x.req.cls) ++ natToBytes 1 x.req.gcell ++ natToBytes 2 x.gseq
    ++ natToBytes 1 x.tmap.toNat ++ natToBytes 1 (x.tlen + 16 * min 3 x.miss + (if x.req.pfx = 0 then 0 else 64) + 128)

/-- Full and watch bits of four words, from the word at 4j on (R395). -/
def Core.wordBits (c : Core) (j : Nat) : Byte :=
  let watched (w : Nat) : Bool := c.threads.toList.any fun t => t.watch == some w
  BitVec.ofNat 8 ((List.range 4).foldl (fun n i =>
    n + (if c.full.has (4 * j + i) then 2 ^ (2 * i) else 0) + (if watched (4 * j + i) then 2 ^ (2 * i + 1) else 0)) 0)

/-! Where the spec gives a region of the block and no layout within it, the layout below is a DESIGN CHOICE (log 108). -/

/-- A pending fault with its number and settle mark, in 16 bytes. -/
def faultBytes (f : Option FPend) : List Byte :=
  match f with
  | none => natToBytes 16 0
  | some f => natToBytes 8 f.addr.toNat ++ natToBytes 7 f.seq.toNat ++ natToBytes 1 (match f.mark with
    | none => 0
    | some false => 1
    | some true => 2)

/-- A failure record in 8 bytes: status, valid, further failures, identifier. -/
def FailRec.bytes (f : FailRec) : List Byte :=
  natToBytes 1 f.status.toNat ++ natToBytes 1 (if f.valid then 1 else 0) ++ natToBytes 2 f.more ++ natToBytes 4 f.id

/-- A channel in 128 bytes: the running T-word, last, ct, the failure record, the resume offset, the pending fault, the pull state. -/
def Chan.bytes (k : Chan) : List Byte :=
  let r := k.run
  let p := r.bind (·.pull)
  natToBytes 32 ((r.map fun x => x.q.word.toNat).getD 0) ++ natToBytes 4 k.last.toNat ++ natToBytes 4 k.ct.toNat ++ k.fail.bytes
    ++ natToBytes 8 ((r.map (·.off)).getD 0) ++ faultBytes k.fpend ++ natToBytes 4 k.regCount.toNat
    ++ natToBytes 4 ((p.map fun x => x.seen.toNat).getD 0) ++ natToBytes 2 ((p.map (·.dst)).getD 0)
    ++ natToBytes 1 (if p.any (·.ask) then 1 else 0) ++ natToBytes 1 (if r.isSome then 1 else 0)
    ++ natToBytes 4 ((p.map (·.base)).getD 0) ++ natToBytes 32 k.reg.toNat ++ natToBytes 8 0

/-- A message in 16 bytes: payload, core, thread, sequence, the thread of a return message. -/
def Msg.bytes (m : Msg) : List Byte :=
  natToBytes 8 m.payload.toNat ++ natToBytes 1 m.core.val ++ natToBytes 1 m.thr.val ++ natToBytes 2 m.seq.toNat
    ++ natToBytes 4 ((m.ret.map fun h => 0x80 + h.val).getD 0)

/-- n bytes, cut off or filled with zeros. -/
def padTo (n : Nat) (bs : List Byte) : List Byte := (bs ++ List.replicate (n - bs.length) 0).take n

def Entry.bytes (e : Entry) : List Byte := e.w.toList.flatMap fun w => natToBytes 4 w.toNat

/-- The tag of an entry: D, frame, level, valid, on chip. -/
def Entry.tagBits (e : Entry) : Nat :=
  (match e.frame with
    | some f => 1 + 2 * (f % 16)
    | none => 0) + 32 * (prioOf e.w[1]).val + 128 + (if e.spill.isNone then 256 else 0)

/-- A core's deque in 4,096 bytes: the records of the on-chip entries, the tags of all entries, the keys of the on-chip ones. -/
def Core.dequeBytes (c : Core) : List Byte :=
  let onChip := c.entryList.filter fun e => e.spill.isNone
  padTo 0x800 (onChip.flatMap Entry.bytes) ++ padTo 0x440 (c.entryList.flatMap fun e => natToBytes 2 e.tagBits)
    ++ padTo 0x3C0 (onChip.flatMap fun e => let k := e.key.getD (2 ^ 32 - 1, 0); natToBytes 4 k.1 ++ natToBytes 4 k.2)

/-- A park-table entry in 128 bytes: the record, the kind of its key, the frame, the key, the cycles left of a timeout. -/
def parkBytes (e : ParkKey × Entry) : List Byte :=
  let (kind, key, left) := match e.1 with
    | .word w => (1, w, 0)
    | .counter c => (2, c, 0)
    | .waitw w n => (3, w, n)
  padTo 128 (e.2.bytes ++ natToBytes 1 kind ++ natToBytes 3 ((e.2.frame.map (· + 1)).getD 0) ++ natToBytes 4 key ++ natToBytes 8 left)

/-- Run numbers and the map of frames in use. -/
def Core.runBytes (c : Core) : List Byte :=
  padTo 0x300 (natToBytes 4 c.nextRun ++ natToBytes 2 (c.frames.foldl (fun n f => n + 2 ^ f.1) 0) ++ natToBytes 2 c.openRuns.length
    ++ c.openRuns.flatMap (natToBytes 4 ·))

/-- The matrix engine's 256 bytes: the active plane, completed identifiers, failure records, pending faults per core; the event engine's
pending fault after them. -/
def Tile.engineBytes (t : Tile) : List Byte :=
  let cores := List.finRange 8
  padTo 0x30 (natToBytes 1 (if t.mx.active then 1 else 0) ++ natToBytes 1 ((if t.mx.t4p0 then 1 else 0) + if t.mx.t4p1 then 2 else 0)
      ++ cores.flatMap (fun c => natToBytes 2 t.cores[c].mxDone.toNat) ++ cores.flatMap fun c => natToBytes 2 t.cores[c].evDone.toNat)
    ++ padTo 0x40 ((cores.flatMap fun c => (t.cores[c].mxFail.bytes).take 4) ++ cores.flatMap fun c => (t.cores[c].evFail.bytes).take 4)
    ++ (cores.flatMap fun c => faultBytes t.mx.fpend[c]) ++ faultBytes t.ev.fpend

/-- A binding in 64 bytes: record, elements consumed, identifier. -/
def StrmBind.bytes (b : StrmBind) : List Byte :=
  padTo 64 (natToBytes 32 b.record.toNat ++ natToBytes 4 b.rewind.next ++ natToBytes 4 b.xid.toNat)

/-- The event engine's 1,024 bytes: bank configurations, the horizon's descriptors with τ, T, occ, H, counters, the local sequence, the
bound of the run. -/
def EvEngine.bytes (e : EvEngine) : List Byte :=
  let bank (b : EvBank) : List Byte := padTo 32 (natToBytes 4 b.fbase.toNat ++ natToBytes 4 b.wbase.toNat ++ natToBytes 4 b.theta.toNat
    ++ natToBytes 2 b.wcount ++ natToBytes 1 b.refr.toNat ++ natToBytes 1 b.k ++ natToBytes 1 b.wshift ++ natToBytes 1 (if b.reset then 1 else 0))
  let decl := (e.decl.map fun d => padTo 8 (natToBytes 1 d.srcs.length ++ natToBytes 1 d.lossbase ++ natToBytes 1 d.dmin)
    ++ d.srcs.flatMap fun x => natToBytes 2 x.1 ++ natToBytes 2 x.2 ++ natToBytes 4 (e.tau.getD x.1 0)).getD []
  padTo 0x400 (e.banks.toList.flatMap bank ++ padTo 0x88 decl
    ++ (List.range 11).flatMap (fun i => natToBytes 8 (e.field (0x4_0000 + 8 * i)).toNat) ++ natToBytes 4 e.seq.toNat
    ++ natToBytes 4 e.wrote ++ natToBytes 8 (match e.run with
      | some (.running b) => b + 1
      | _ => 0))

/-- The tile's 256 bytes: activation and period registers, the cycles to the next tick, barrier and probe state, the work bit. -/
def Tile.periodBytes (t : Tile) (left : Nat) : List Byte :=
  let c := t.copy
  padTo 0x100 (natToBytes 8 t.kact.toNat ++ natToBytes 4 t.koverrun.toNat ++ natToBytes 2 t.alarmCount.toNat
    ++ natToBytes 1 (if t.alarm then 1 else 0) ++ natToBytes 1 (if t.ticked then 1 else 0) ++ natToBytes 4 t.kperiod.toNat
    ++ natToBytes 4 left ++ natToBytes 4 c.bepoch.toNat
    ++ natToBytes 4 ((c.bar.map fun b => b.round + 1).getD 0) ++ natToBytes 8 (c.probes.foldl (fun n p => n + 2 ^ p.1) 0)
    ++ natToBytes 1 (if c.work then 1 else 0))

/-- The parts of a tile's block with their offsets, in the order of R395. -/
def State.saveBlock (s : State) (tile : Nat) : List (Nat × List Byte) :=
  let left := (s.tile tile).tickDue - s.now tile
  let t := (s.tile tile).forSave (s.now tile)
  let cores := List.finRange 8
  let container (x : BitVec 19) : List Byte := natToBytes 4 (x.toNat * 2 ^ 13)
  let plane (m : KMap (BitVec 19)) : List Byte := (List.range 1024).flatMap fun i => container (m.getD i 0)
  let queue (q : List QCmd) : List Byte := q.flatMap fun x => natToBytes 32 x.word.toNat
  -- the running matrix command has its next row in the header's reserved bits [207:192]
  let mxq (c : Fin 8) : List Byte := queue ((t.cores[c].mxq.zipIdx).map fun (q, i) =>
    if i = 0 then { q with word := q.word ||| BitVec.ofNat 256 (t.mx.done[c] % 2 ^ 16 * 2 ^ 192) } else q)
  let binds := (List.range 8).map fun i => ((tileThreads tile).filterMap fun r => (s.thread r).binds.get? (8 + i)).head?
  (cores.flatMap fun c => (List.finRange 16).map fun h =>
      (0x4000 * c.val + 0x400 * h.val, (List.range 128).flatMap fun k => natToBytes 8 (s.threadField ⟨tile, c, h⟩ (8 * k)).toNat))
    ++ (cores.flatMap fun c =>
      let at_ (o : Nat) : Nat := 0x2_0000 + 0x4000 * c.val + o
      [(at_ 0, t.cores[c].dequeBytes), (at_ 0x1000, padTo 0x2000 (t.cores[c].park.flatMap parkBytes)),
       (at_ 0x3000, (List.range 256).flatMap fun i => container ((s.core tile c).t8.getD i 0)),
       (at_ 0x3400, (List.range 16).flatMap fun i => container ((s.core tile c).t4.getD i 0)),
       (at_ 0x3500, t.cores[c].sendq.toList.flatMap fun q => padTo 0x80 (q.flatMap Msg.bytes)),
       (at_ 0x3900, t.cores[c].recvq.toList.flatMap fun q => padTo 0x80 (q.flatMap Msg.bytes)),
       (at_ 0x3D00, t.cores[c].runBytes),
       (0x2B_B000 + 0x100 * c.val, mxq c), (0x2C_2000 + 0x200 * c.val, queue (s.core tile c).copyq)])
    ++ cores.map (fun c => (0x4_0000 + 0x4_0000 * c.val, (s.core tile c).lm.readBytes 0 0x4_0000))
    ++ cores.map (fun c => (0x24_0000 + 0x4000 * c.val, (List.range 0x4000).map (s.core tile c).wordBits))
    ++ [(0x26_0000, (List.range 0x8000).flatMap fun i => natToBytes 8 (t.ev.field (8 * i)).toNat),
        (0x2A_0000, t.ev.queue.flatMap fun e => natToBytes 8 e.word.toNat ++ natToBytes 4 e.src ++ natToBytes 4 e.seq),
        (0x2B_0000, (List.range 0x2020).flatMap fun i => natToBytes 4 (t.mxField (4 * i))),
        (0x2B_9000, plane t.mx.plane0 ++ plane t.mx.plane1), (0x2B_B800, t.engineBytes),
        (0x2C_0000, (List.range 64).flatMap fun k => (t.copy.chan k).bytes),
        (0x2C_3000, (List.range 256).flatMap fun e => match t.copy.reqs.get? e with
          | some x => x.bytes
          | none => natToBytes 32 0),
        (0x2C_5000, (List.range 256).flatMap fun e => natToBytes 1 (match t.copy.reqs.get? e with
          | some x => x.req.tag
          | none => 0)),
        (0x2C_7000, (List.range 8).flatMap fun i => natToBytes 8 (t.copy.field (s.health tile) (0x400 + 8 * i)).toNat),
        (0x2C_7400, binds.flatMap fun b => (b.map StrmBind.bytes).getD (natToBytes 64 0)),
        (0x2C_7800, queue t.ev.cmds), (0x2C_8000, t.ev.bytes),
        (0x2C_9000, (List.range 256).flatMap fun k => lineBytes (t.cell k).bits), (0x2C_D000, t.periodBytes left),
        (0x2D_0000, (List.range 5120).flatMap fun k => natToBytes 4 (t.copy.sent.getD k 0).toNat)]

/-- The tiles of a stopped context are written to the save area and become free (R394 steps 5 and 6). -/
def State.saveTiles (s : State) (r : Rec) : State :=
  let tiles := s.ctxTiles r
  let base := (s.ctx r.p r.c).save
  let s := tiles.foldl (fun s t => s.flushLines t) s
  let s := (tiles.flatMap tileThreads).foldl State.layOff s
  let s := (tiles.zipIdx).foldl (fun s (t, i) =>
    (s.saveBlock t).foldl (fun s (o, bs) => s.physWrite r.p r.c (base + blockOff i + o) bs) s) s
  let kept := tiles.map fun t => (t, (s.tile t).forSave (s.now t), (s.tile t).tickDue - s.now t)
  let s := tiles.foldl (fun s t => (s.dropAgenda t).modTile t Tile.bare) s
  let order := (s.part r.p).nextOrder
  let s := s.modPart r.p fun x => { x with nextOrder := order + 1 }
  let s := s.modCtx r.p r.c fun x => { x with
    state := 0x03, saved := kept, complete := true, stopping := false, since := order, settles := [], cuts := [] }
  s.physWrite r.p r.c base (s.saveHeader r tiles true)

/-- CONTEXT_SAVE: at the end of the grace every tile of the context stops at instruction boundaries; once nothing of them is
in flight, they are saved (R344, R394). Operands: partition, context. -/
def execContextSave (s : State) : Out :=
  let r : Rec := ⟨s.arg.n, s.arg.m⟩
  let tiles := s.ctxTiles r
  .next (if !(s.ctx r.p r.c).stopping then s
    else if (s.ctx r.p r.c).state ≠ 0x02 then
      tiles.foldl (fun s t => s.modTile t fun x => { x with stopping := false, frozen := false }) (s.modCtx r.p r.c fun x =>
        { x with stopping := false })
    else if s.ctxQuiet r then s.saveTiles r
    else tiles.foldl (fun s t => s.modTile t fun x => { x with frozen := true }) s)

/-! ## Restore (R365, R394, R397) -/

/-- A tile comes back from the save area: threads and local memory as the area holds them, the rest as it was saved. -/
def State.restoreTile (s : State) (r : Rec) (base i tile : Nat) (x : Tile) (left : Nat) : State :=
  let off := base + blockOff i
  let l := x.launch.getD {}
  let x : Tile := { x with cores := x.cores.mapIdx fun c (co : Core) => { co with
    lm := Memory.writeBytes [] 0 (s.physRead r.p r.c (off + 0x4_0000 + 0x4_0000 * c) 0x4_0000)
    threads := co.threads.mapIdx fun h (t : Thread) =>
      Thread.ofFields t l fun o => BitVec.ofNat 64 (s.physNat r.p r.c (off + 0x4000 * c + 0x400 * h + o) 8)
    park := co.park.map fun e => (e.1.shift (· + s.now tile), e.2) } }
  let s := s.modTile tile fun t => { x with
    slice := t.slice, sreqs := t.sreqs, tlb := t.tlb, ports := t.ports, missed := t.missed, tickDue := s.now tile + left
    copy := { x.copy with inj := t.copy.inj, ingress := t.copy.ingress, accepted := t.copy.accepted
                          nextRef := max x.copy.nextRef t.copy.nextRef, acks := t.copy.acks } }
  let s := if x.launch.isNone || (l.retired || (x.ticked && x.kperiod == 0)) then s
    else s.atTile tile left .periodTick
  -- timeouts of wait-parked units run on; streams are filled and drained again (R340, R394)
  let s := (List.finRange 8).foldl (fun s c => x.cores[c].park.foldl (fun s e => match e.1, e.2.frame with
    | .waitw _ n, some fi => s.atTile tile (n - s.now tile) .waitTimeout ⟨tile, c, 0⟩ { n := fi, m := 1 } true
    | _, _ => s) s) s
  let s := (tileThreads tile).foldl (fun s r => (s.thread r).binds.foldl (fun s b =>
    s.atTile tile 1 .streamFill r { n := b.1, w := zx b.2.xid }) s) s
  let s := x.drains.foldl (fun s b =>
    s.atTile tile 1 .copyCompletion ⟨tile, 0, 0⟩ { n := b.chan.val, w := zx b.xid, ok := false }) s
  -- transfers ask again; other commands go on from where they stood (R365, R394)
  x.copy.chans.foldl (fun s (k : Nat × Chan) =>
    match k.2.run with
    | none => s
    | some run =>
      if k.2.fpend.isSome || run.wait then s
      else match run.pull with
      | some p =>
        let seen := match p.req.kind with
          | .pull => ((s.tile tile).cell p.req.gcell).count
          | _ => k.2.regCount
        (s.resendReq tile k.1 { p with seen := seen }).atTile tile 65536 .silentCellResend ⟨tile, 0, 0⟩ { n := k.1, m := run.q.id }
      | none => s.rerun tile k.1) s

/-- Pending faults of a restored context: those marked while it was saved take effect, the others are tried again; records that wait for
room go on waiting (R392, R394, R397). -/
def State.restoreFaults (s : State) (r : Rec) : State :=
  let x := s.ctx r.p r.c
  let s := s.modCtx r.p r.c fun y => { y with faults := [], settles := [] }
  x.faults.foldl (fun s f => s.settleFault f ((s.tile f.tile).faultAborts f)) s

/-- CONTEXT_RESTORE: a SAVED context whose tiles are free comes back; an incomplete save area is refused (R394, R419).
Operands: partition, context. -/
def execContextRestore (s : State) : Out :=
  let r : Rec := ⟨s.arg.n, s.arg.m⟩
  let x := s.ctx r.p r.c
  .next (if !x.complete then s.echoPost r x.acc 2 x.done x.last
    else if x.state ≠ 0x03 ∨ !(x.saved.all fun t => s.tileFree t.1) then s
    else
      let s := s.modCtx r.p r.c fun y => { y with state := 0x02, saved := [] }
      let s := (x.saved.zipIdx).foldl (fun s (t, i) => s.restoreTile r x.save i t.1 t.2.1 t.2.2) s
      -- launches cancelled meanwhile (R134)
      let s := x.cuts.foldl (fun s a => (s.tilesOf r a).foldl State.cancelTile s) (s.modCtx r.p r.c fun y => { y with cuts := [] })
      (s.restoreFaults r).beginQuantum r)

/-! ## Fences (R419, R420) -/

/-- The error record (R420). -/
def errorRecord (cause who tile addr xid syn tick epoch : Nat) : List Byte :=
  natToBytes 2 1 ++ natToBytes 1 cause ++ natToBytes 1 who ++ natToBytes 2 tile ++ natToBytes 2 0 ++ natToBytes 8 addr
    ++ natToBytes 4 xid ++ natToBytes 4 syn ++ natToBytes 8 tick ++ natToBytes 4 epoch ++ natToBytes 28 0

/-- The leaves of a context's tables that allow writes: base, size, and whether they lie in host memory (R389). -/
def State.writableLeaves (s : State) (p c : Nat) : Nat → Nat → Nat → List (Nat × Nat × Bool)
  | 0, _, _ => []
  | k + 1, lvl, table => (List.range (lvlCount lvl)).flatMap fun i =>
    let e := s.tableEntry p c (table + 8 * i)
    match walkEntry e lvl (lvlAlign (e.getLsbD 1) lvl) with
    | .ok (true, pa, h, _, w) => if w then [(pa, 2 ^ lvlShift lvl, h)] else []
    | .ok (false, next, _, _, _) => State.writableLeaves s p c k (lvl + 1) next
    | .error _ => []

/-- What the context could write, in its partition's memory and in host memory, becomes undefined (R419; log 3). -/
def State.fogWritable (s : State) (r : Rec) : State :=
  let x := s.ctx r.p r.c
  let leaves : List (Nat × Nat × Bool) :=
    if x.root.getLsbD 0 then s.writableLeaves r.p r.c 4 1 (x.root.toNat / 65536 % 2 ^ 36 * 65536) else []
  let (k, s) := s.takeFresh
  let host := (leaves.filter fun (l : Nat × Nat × Bool) => l.2.2).map fun (l : Nat × Nat × Bool) => (l.1, l.1 + l.2.1, k)
  let s := { s with hostFog := s.hostFog ++ host }
  s.modPart r.p fun q => { q with
    fences := q.fences + 1
    fog := q.fog ++ (leaves.filter fun (l : Nat × Nat × Bool) => !l.2.2).map fun (l : Nat × Nat × Bool) =>
      (l.1 / 64, l.2.1 / 64, q.fences + 1, k) }

/-- Writes bytes at an address of a context: global, or the local memory of a tile of the partition, of whose windows a launch gives the
frames' place and size (R268, R420). -/
def State.writeAt (s : State) (r : Rec) (l : Launch) (a : Word) (bs : List Byte) : State :=
  if isGlobal a then
    (bs.zipIdx).foldl (fun s (b, i) => s.recPut r.p r.c (a.toNat + i) 1 b.toNat) s
  else if isTileMap a && amFormOk a && (s.part r.p).hasTile (amTile a) && rawKind (amKind a) &&
      amOff a + bs.length ≤ windowSize l (amKind a) then
    let p := lmPlace l a
    s.lmWrite (amTile a) p.core p.off bs.length (bytesToNat bs) none true
  else s

/-- The records of a job, with their bytes (R327, R328). -/
def State.recBytes (s : State) (r : Rec) (job : Nat) : List (Nat × List Byte) :=
  let get (a n : Nat) : Nat × List Byte := (a, (List.range n).map fun i => BitVec.ofNat 8 (s.recGet r.p r.c (a + i) 1))
  ([2, 3, 4].flatMap fun lvl => (s.recsAt r lvl 4 job).map fun a => get a 64) ++ (s.recsAt r 1 4 job).map fun a => get a 128

/-- A fence of a context, whether it runs, is saved or is ready (R419), of which the host is told by an interrupt (R433; its vector is a DESIGN CHOICE,
log 97). -/
def State.fenceContext (s : State) (r : Rec) (cause who tile : Nat) (addr : Word) (xid : Nat) : State :=
  let x := s.ctx r.p r.c
  let job := ((s.part r.p).jobs.find? fun j => j.ctx == r.c && j.started).map (·.record)
  let records := ((s.part r.p).jobs.filter fun j => j.ctx == r.c).flatMap fun j => s.recBytes r j.record
  let err : Word := match job with
    | some j => BitVec.ofNat 64 (s.recGet r.p r.c (j + 40) 8)
    | none => 0
  let le := s.launch (amTile err)
  -- steps 1 to 3
  let s := (s.ctxTiles r).foldl (fun s t => s.stopTile r t) s
  let s := ((s.bumpEpoch r).purgeGateway r.p (some (r.c % 16))).purgeSlices r false
  let s := s.fogWritable r
  let s := records.foldl (fun s a => s.writeAt r {} (BitVec.ofNat 64 a.1) a.2) s
  -- step 4
  let (k, s) := s.takeFresh
  let s := if job.isSome then
      s.writeAt r le err (errorRecord cause who tile addr.toNat xid ((Config.freeWord k).toNat % 2 ^ 32) s.clock x.epoch.toNat)
    else s
  let s := s.logEntry r.p 4 r.c tile cause (job.getD 0)
  let s := s.modPart r.p fun q => { q with ready := q.ready.filter fun y => y.ctx != r.c }
  let s := match job with
    | some j => s.jobEnd r j stFAILED
    | none => s
  let s := { s with irqs := s.irqs ++ [(x.vf, 0)] }
  -- step 5, and the save area of a context that is SAVED or being saved (R434)
  let kept := x.state == 0x03 || x.stopping
  let s := if kept then s.physWrite r.p r.c (x.save + 3) [2] else s
  s.modCtx r.p r.c fun y => { y with
    state := 0x01, stopping := false, faults := [], settles := [], cuts := [], saved := [], complete := y.complete && !kept
    fencedAt := s.clock + 1 }

/-- A context that can be fenced: READY, RUNNING or SAVED. -/
def Ctx.fenceable (x : Ctx) : Bool := x.state == 0x01 || x.state == 0x02 || x.state == 0x03

/-- CONTEXT_FENCE (R419): a second error of a context in the tick of its fence is only logged (R434). Operands:
partition, context, address (w), and in d the cause, who and identifier; the tile. -/
def execContextFence (s : State) : Out :=
  let r : Rec := ⟨s.arg.n, s.arg.m⟩
  let d := s.arg.d
  let cause := (d.extractLsb' 0 8).toNat
  let x := s.ctx r.p r.c
  .next (if x.fenceable && x.fencedAt != s.clock + 1 then
      s.fenceContext r cause (d.extractLsb' 8 8).toNat s.cur.tile s.arg.w (d.extractLsb' 16 32).toNat
    else s.logEntry r.p 4 r.c s.cur.tile cause)

/-! ## Keys (R400 to R402) -/

/-- A key slot is to be zeroed: its context's lines leave the slices first, and the slot returns to FREE in a time the spec
does not fix (R400). -/
def State.zeroSlot (s : State) (k : Nat) : State :=
  let x := s.keys.getD k {}
  if x.st ≠ 1 then s
  else
    let s := (s.purgeSlices ⟨x.part, x.ctx⟩ true).modCtx x.part x.ctx fun y => { y with kv := y.kv && y.keySlot != k }
    let (n, s) := s.takeFresh
    ({ s with keys := s.keys.set k { x with st := 2 } }).atRef (1 + Config.freeLatency n) .keyZeroingDone default { n := k }

/-- KEY_ZEROING_DONE: the slot is FREE (R400). Operand: the slot. -/
def execKeyZeroingDone (s : State) : Out :=
  .next (if (s.keys.getD s.arg.n {}).st = 2 then { s with keys := s.keys.erase s.arg.n } else s)

/-- Every LOADED slot is to be zeroed (R400). -/
def State.zeroAll (s : State) : State := (s.keys.map (·.1)).foldl State.zeroSlot s

/-- The slots of a context, or of a whole partition. -/
def State.zeroSlots (s : State) (p : Nat) (c : Option Nat) : State :=
  ((s.keys.filter fun k => k.2.part == p && (match c with
    | none => true
    | some c => k.2.ctx == c)).map (·.1)).foldl State.zeroSlot s

/-- A response in a secured session: op | 0x80, result, and for KEY_QUERY the key identifier (R402). -/
def State.respond (s : State) (vf op res : Nat) (kid : W32 := 0) : State :=
  { s with md := { s.md with responses := s.md.responses ++
    [(vf, natToBytes 1 (op + 0x80) ++ natToBytes 1 res ++ natToBytes 2 0 ++ natToBytes 4 kid.toNat)] } }

/-- The checks that the three requests share (R402): the result that refuses, or the binding. Operands: function n, slot m,
well-formed ok; a request with a reserved op comes with its op byte in l. -/
def State.keyCheck (s : State) : Except Nat (Nat × Nat) :=
  match s.md.sessions.get? s.arg.n, s.ofVf s.arg.n with
  | some _, some b =>
    let x := s.keys.getD s.arg.m {}
    if !s.arg.ok || !s.arg.l.isEmpty then .error 6
    else if 63 < s.arg.m then .error 3
    else if x.st = 2 then .error 1
    else if x.st = 1 ∧ (x.part, x.ctx) ≠ b then .error 2
    else .ok b
  | _, _ => .error 4

/-- The op byte that a response answers (R402). -/
def State.keyOp (s : State) (op : Nat) : Nat := s.arg.l.headD op

/-- KEY_PUT: a key pair is loaded and bound; lines under an old key are written back first, and a fill that
has begun, or begins in this tick, goes by the old key (R402). Operands: as above, the
key identifier (w), data key (d), tweak key (e). -/
def execKeyPut (s : State) : Out :=
  let a := s.arg
  .next (match s.keyCheck with
    | .error e => s.respond a.n (s.keyOp 1) e
    | .ok (p, c) =>
      if a.d.setWidth 256 = a.e.setWidth 256 then s.respond a.n 1 5
      else
        let s := s.purgeSlices ⟨p, c⟩ true
        let x : KeySlot := { st := 1, dkey := a.d.setWidth 256, tkey := a.e.setWidth 256, part := p, ctx := c, kid := a.w.setWidth 32
                             was := s.fillKey p c, putAt := s.clock + 1 }
        let s := { s with keys := s.keys.set a.m x }
        (s.modCtx p c fun y => { y with keySlot := a.m, kv := true }).respond a.n 1 0)

/-- KEY_DEL (R402). -/
def execKeyDel (s : State) : Out :=
  .next (match s.keyCheck with
    | .error e => s.respond s.arg.n (s.keyOp 2) e
    | .ok _ => (s.zeroSlot s.arg.m).respond s.arg.n 2 0)

/-- KEY_QUERY (R402). -/
def execKeyQuery (s : State) : Out :=
  .next (match s.keyCheck with
    | .error e => s.respond s.arg.n (s.keyOp 3) e
    | .ok _ => s.respond s.arg.n 3 0 (s.keys.getD s.arg.m {}).kid)

/-- SECURED_SESSION: a session is established after the tenant has verified the measurements, and bound to the function
(R402). Operands: function, whether both hold. -/
def execSecuredSession (s : State) : Out :=
  .next (if s.arg.ok then { s with md := { s.md with sessions := s.md.sessions.set s.arg.n () } } else s)

/-! ## Teardown and reset (R375, R376) -/

/-- The commands of a tile of a context that is torn down end CANCELLED: rows that the matrix engine has admitted are written, what it
has ready to inject is dropped, and what waits for a reply or an acknowledgement waits no more (R376 steps 2 to 4). Its threads run on,
and see their commands CANCELLED (R382); no activation starts any more (DESIGN CHOICE: R376 says nothing of threads; log 107). -/
def State.endCommands (s : State) (r : Rec) (tile : Nat) : State :=
  ((s.tile tile).mx.rows.foldl (fun s x => s.writeRow tile x) s).modTile tile fun t =>
    let x := t.cancelAll
    { x with
      launch := x.launch.map fun l => { l with cancelled := true }
      copy := { x.copy with
        inj := x.copy.inj.filter fun i => !(i.flit.part == r.p && i.flit.slot == r.c % 16)
        acks := [], samples := [], refs := [] }
      stopping := false, frozen := false }

/-- A context is torn down: its commands end CANCELLED, its flits are dropped and purged, its keys zeroed (R376, R400). -/
def State.tearDown (s : State) (r : Rec) : State :=
  let s := (s.ctxTiles r).foldl (fun s t => (s.flushLines t).endCommands r t) s
  let s := ((s.bumpEpoch r).purgeGateway r.p (some (r.c % 16))).zeroSlots r.p (some r.c)
  let s := s.modPart r.p fun q => { q with
    ready := q.ready.filter fun y => y.ctx != r.c, jobs := q.jobs.filter fun j => j.ctx != r.c }
  s.modCtx r.p r.c fun y => { y with state := 0x04, stopping := false, faults := [], records := [], settles := [], cuts := [], saved := [] }

/-- VF_TEARDOWN (R376). Operand: the function. -/
def execVfTeardown (s : State) : Out :=
  .next ((s.parts.flatMap fun p => (p.2.ctxs.filter fun c => c.2.vf == s.arg.n && c.2.state != 0x00).map fun c =>
    (⟨p.1, c.1⟩ : Rec)).foldl State.tearDown s)

/-- A reset of a partition (R375, R400): no flit of it is left on the module, its old buffers are purged, its contexts
are READY with new epochs, their save areas incomplete, its sequencer page and trace rings as at creation. -/
def State.resetPart (s : State) (p : Nat) : State :=
  let ids := (s.part p).ctxs.map (·.1)
  -- save areas become incomplete (R395, R431)
  let s := ids.foldl (fun s c =>
    let x := s.ctx p c
    if x.state = 0x00 ∨ x.save = 0 then s else s.physWrite p c (x.save + 3) [2]) s
  let s := ids.foldl (fun s c => (s.ctxTiles ⟨p, c⟩).foldl (fun s t => (s.flushLines t).stopTile ⟨p, c⟩ t) s) s
  let s := ids.foldl (fun s c => s.bumpEpoch ⟨p, c⟩) s
  let s := { s with hops := s.hops.filter fun h => h.flit.part != p }
  let s := (s.purgeGateway p none).zeroSlots p none
  let s := ids.foldl (fun s c => s.purgeSlices ⟨p, c⟩ true) s
  let x := s.part p
  let s := { s with tiles := s.tiles.map fun (t : Nat × Tile) => (t.1, if x.hasTile t.1 then
    { t.2 with slice := [], sreqs := [], tlb := [], ports := [], copy := { t.2.copy with inj := [], ingress := [], accepted := [] } } else t.2) }
  let s := s.modPart p fun q => { q with jobs := [], ready := [] }
  ids.foldl (fun s c => s.modCtx p c fun y =>
    if y.state = 0x00 then y
    else { y with state := 0x01, stopping := false, faults := [], records := [], settles := [], cuts := [], saved := [], complete := false
                  jobCell := {}, echo := {} }) s

/-- PARTITION_RESET (R375). Operand: the partition. -/
def execPartitionReset (s : State) : Out := .next (if s.parts.has s.arg.n then s.resetPart s.arg.n else s)

/-! ## Partitions (R384, R401) -/

/-- Two rectangles of strips share one. -/
def Part.meets (a b : Part) : Bool := a.sc0 ≤ b.sc1 && b.sc0 ≤ a.sc1 && a.sr0 ≤ b.sr1 && b.sr0 ≤ a.sr1

/-- PARTITION_CREATION: a rectangle of strips that meets no other partition becomes one; its own key is drawn (R384, R401).
Operands: the number, and sc0, sr0, sc1, sr1 in l. -/
def execPartitionCreation (s : State) : Out :=
  .next (match s.arg.l with
    | [sc0, sr0, sc1, sr1] =>
      let (k, s) := s.takeFresh
      let x : Part := { sc0 := sc0, sr0 := sr0, sc1 := sc1, sr1 := sr1
                        ownKey := Config.freeKey k }
      if 64 ≤ s.arg.n || s.parts.has s.arg.n || !(sc0 ≤ sc1 && sc1 < 32 && sr0 ≤ sr1 && sr1 < 2) || s.md.state != 2 ||
          s.parts.any fun p => p.2.meets x then s
      else { s with parts := s.parts.set s.arg.n x }
    | _ => s)

/-- PARTITION_DESTRUCTION: the partition's jobs, log and pages end (R421). Operand: the partition. -/
def execPartitionDestruction (s : State) : Out :=
  .next (if s.parts.has s.arg.n then
      let s := s.resetPart s.arg.n
      { s with parts := s.parts.erase s.arg.n }
    else s)

end Sys2Proof.Machine
end

