-- ==== Sys2Proof/Machine/Sha.lean ====
section
/-!
DEFINITION. SHA-384, with which the Lamay controller measures (spec/21 R424). The spec names the function and not its steps, which are those
of FIPS 180-4 (PRESUMED, log 7).
-/
namespace Sys2Proof.Machine

/-- The integer root of degree k of n, below 2^bits: one bit after another. -/
def rootBits (k n bits : Nat) : Nat :=
  (List.range bits).foldl (fun r i => let x := r + 2 ^ (bits - 1 - i); if x ^ k ≤ n then x else r) 0

def shaPrimes : List Nat := (List.range 410).filter fun n => 2 ≤ n && (List.range n).all fun d => d < 2 || n % d != 0

/-- Round constants: the first 64 bits of the fractional parts of the cube roots of the first 80 primes. -/
def shaK : List Word := shaPrimes.map fun p => BitVec.ofNat 64 (rootBits 3 (p * 2 ^ 192) 68)

/-- The initial value: the same of the square roots of the ninth to the sixteenth prime. -/
def shaInit : List Word := ((shaPrimes.drop 8).take 8).map fun p => BitVec.ofNat 64 (rootBits 2 (p * 2 ^ 128) 68)

/-- The next word of the message schedule, from the words so far, the newest first. -/
def shaNext (w : List Word) : Word :=
  let g (i : Nat) : Word := w.getD (i - 1) 0
  let s0 := (g 15).rotateRight 1 ^^^ (g 15).rotateRight 8 ^^^ (g 15 >>> 7)
  let s1 := (g 2).rotateRight 19 ^^^ (g 2).rotateRight 61 ^^^ (g 2 >>> 6)
  s1 + g 7 + s0 + g 16

/-- One round on the eight working variables. -/
def shaRound (v : List Word) (kw : Word) : List Word :=
  match v with
  | [a, b, c, d, e, f, g, h] =>
    let t1 := h + (e.rotateRight 14 ^^^ e.rotateRight 18 ^^^ e.rotateRight 41) + ((e &&& f) ^^^ (~~~e &&& g)) + kw
    let t2 := (a.rotateRight 28 ^^^ a.rotateRight 34 ^^^ a.rotateRight 39) + ((a &&& b) ^^^ (a &&& c) ^^^ (b &&& c))
    [t1 + t2, a, b, c, d + t1, e, f, g]
  | v => v

/-- A block of sixteen words. -/
def shaBlock (h : List Word) (m : List Word) : List Word :=
  let w := ((List.range 64).foldl (fun w _ => shaNext w :: w) m.reverse).reverse
  h.zipWith (· + ·) ((shaK.zipWith (· + ·) w).foldl shaRound h)

/-- Words of eight bytes, the first byte the most significant. -/
def shaWords : List Byte → List Word
  | a :: b :: c :: d :: e :: f :: g :: h :: rest => (a ++ b ++ c ++ d ++ e ++ f ++ g ++ h) :: shaWords rest
  | _ => []

/-- The padded message. -/
def shaPad (m : List Byte) : List Byte :=
  m ++ [0x80] ++ List.replicate ((239 - m.length % 128) % 128) 0 ++ (natToBytes 16 (8 * m.length)).reverse

/-- SHA-384; the first byte of the digest is the most significant of the answer. -/
def sha384 (m : List Byte) : BitVec 384 :=
  let ws := shaWords (shaPad m)
  let h := (List.range (ws.length / 16)).foldl (fun h i => shaBlock h ((ws.drop (16 * i)).take 16)) shaInit
  BitVec.ofNat 384 ((h.take 6).foldl (fun n w => n * 2 ^ 64 + w.toNat) 0)

/-- The bytes of a digest, the first one first. -/
def digestBytes (d : BitVec 384) : List Byte := (natToBytes 48 d.toNat).reverse

end Sys2Proof.Machine
end

