-- ==== Sys2Proof/Machine/Module.lean ====
section
/-!
DEFINITION. The module (spec/21): starts and Cocoon mode (R424 to R426), management commands and registers (R423, R427), the
configuration image (R428), row remapping and failed tiles (R429 to R431), failed channels (R432), power and cooling (R435).
-/
namespace Sys2Proof.Machine

def State.modMd (s : State) (f : Module → Module) : State := { s with md := f s.md }

/-! ## Starts (R424 to R426) -/

/-- Reference ticks in a millisecond (R7). -/
def msTicks : Nat := 1_750_000

/-- The limit of a stage in milliseconds (R424). -/
def stageLimit (n : Nat) : Nat := [200, 200, 100, 2000, 500, 1000, 10].getD (n - 1) 10

/-- The reason codes that a stage may fail with (R424). -/
def stageReasons (n : Nat) : List Nat :=
  match n with
  | 1 => [0x01]
  | 2 => [0x02, 0x04]
  | 3 => [0x03]
  | 4 => [0x05, 0x0A]
  | 5 => [0x06]
  | _ => [0x07]

/-- What flash holds, and the module itself (R425, R427, R428). -/
def Module.flash (m : Module) : Module :=
  { starts := m.starts, fails := m.fails, reasons := m.reasons, image := m.image, firmware := m.firmware, puf := m.puf }

/-- A step that ends the zeroing of a key slot. -/
def isZeroing (e : Agenda) : Bool :=
  match e.i with
  | .keyZeroingDone => true
  | _ => false

/-- A start begins afresh: what flash and the status window keep stays, and so does what is outside the module (R425, R427). Keys leave
their slots through ZEROING, their contexts' lines written back first, as for Cocoon mode (R400; of other starts a DESIGN CHOICE, log
106). -/
def State.restart (s : State) : State :=
  let s := s.zeroAll
  { State.reset with
    keys := s.keys, agenda := State.reset.agenda ++ s.agenda.filter isZeroing
    clock := s.clock, inputs := s.inputs, host := s.host, hostFog := s.hostFog, hostBad := s.hostBad, irqs := s.irqs, fresh := s.fresh
    md := { s.md.flash with
            interrupted := s.md.interrupted, repl := s.md.repl, rowx := s.md.rowx, hbmdeg := s.md.hbmdeg
            unavail := s.md.unavail, chfail := s.md.chfail } }

/-- A failed start is counted and its code pushed onto the newest end (R425). -/
def Module.failed (m : Module) (code : Nat) : Module :=
  { m with fails := min 3 (m.fails + 1), reasons := m.reasons.drop 1 ++ [code], interrupted := false }

/-- A start fails; the next one begins. -/
def State.failStart (s : State) (code : Nat) : State := (s.modMd fun m => m.failed code).restart

/-- A stage begins, under its limit. -/
def State.beginStage (s : State) (n : Nat) : State :=
  (s.modMd fun m => { m with stage := n }).atRef (stageLimit n * msTicks) .startStageTimeout default { n := n, m := s.md.starts }

/-- Deck 0's two management tiles, beside its grid, of no partition: the management threads run on them (R426). What they run is firmware,
of which the spec says no more (log 85). -/
def mgmtTiles : KMap Tile := [0x2000, 0x2001].map fun t => (t, { launch := some { mgmt := true, part := 64, ctx := 16 } })

/-- MODULE_START: a start that lost power is recorded first; with three failures the module enters Cocoon mode, in which keys
are zeroed and no partition exists (R424, R425, R426). -/
def execModuleStart (s : State) : Out :=
  let s := s.modMd fun m => if m.interrupted then m.failed 0x07 else m
  let s := s.modMd fun m => { m with starts := m.starts + 1, state := if m.fails = 3 then 3 else 1 }
  let s := if s.md.state = 3 then s.zeroAll else s
  .next ({ s with parts := [], tiles := mgmtTiles }.beginStage 1)

/-- Bit of a strip in unavail (R427): 32·sr + sc of the strip that holds column x of row 20·d + y (R384). -/
def stripBit (row x : Nat) : Nat := 32 * (row / 20 / 4) + 8 * (row / 20 % 4) + x / 4
/-- The row of a tile, 20·d + y, and its column (R25, R429). -/
def rowOf (tile : Nat) : Nat := 20 * (tile / 1024 % 8) + tile / 32 % 32
def colOf (tile : Nat) : Nat := tile % 32
def stripOf (tile : Nat) : Nat := stripBit (rowOf tile) (colOf tile)

/-- A strip becomes unavailable (R429, R431, R432). -/
def Module.lose (m : Module) (strip : Nat) : Module := { m with unavail := m.unavail ||| ((1 : BitVec 64) <<< strip) }

/-- The row remap of a row (R429): the recorded column or the one BIST found takes the spare; the logical columns that stay
bad. -/
def remapRow (recorded : Option Nat) (found : List Nat) : Option Nat × List Nat :=
  let bad := recorded.toList ++ found.filter fun c => some c != recorded
  let tiles := bad.filter (· < 32)
  if bad.contains 32 then (none, tiles)
  else match tiles with
    | [] => (none, [])
    | b :: rest => (some b, rest.map fun c => if b < c then c - 1 else c)

/-- Stage 5: the remap is applied (R429). -/
def Module.remap (m : Module) : Module :=
  (List.range 160).foldl (fun m row =>
    let (b, left) := remapRow (m.image.repair.get? row) ((m.found.filter fun f => f / 64 == row).map (· % 64))
    let m := match b with
      | some b => { m with rows := m.rows.set row b }
      | none => m
    if left.isEmpty then m
    else left.foldl (fun m c => m.lose (stripBit row c)) { m with rowx := true, repl := true }) m

/-- The strip that an HBM channel 32·d + c serves (R384). -/
def chanStrip (ch : Nat) : Nat := stripBit (20 * (ch / 32)) (ch % 32)

/-- A channel has failed: its strip is unavailable and a replacement is requested (R432). -/
def Module.loseChan (m : Module) (ch : Nat) : Module :=
  { m.lose (chanStrip ch) with chfail := m.chfail ||| ((1 : BitVec 256) <<< ch), hbmdeg := true, repl := true }

/-- Stage 4: BIST findings replace those of the last start. Findings: 64·row + physical column of a bad tile, 2^14 + channel
of a channel that does not train (R424, R432). -/
def Module.bist (m : Module) (found : List Nat) : Module :=
  let m := { m with repl := false, rowx := false, hbmdeg := false, unavail := 0, chfail := 0
                    found := found.filter (· < 2 ^ 14) }
  (found.filter (2 ^ 14 ≤ ·)).foldl (fun m f => m.loseChan (f - 2 ^ 14)) m

/-- A measurement is extended with a digest: SHA-384 of the old one and the digest (R424; log 7). -/
def Module.measure (m : Module) (n : Nat) (d : BitVec 384) : Module :=
  { m with meas := m.meas.set n (sha384 (digestBytes (m.meas.getD n 0) ++ digestBytes d)) }

/-- The repair map in force: what stage 5 applies, in the bytes of R428 (R424, R429). -/
def Module.mapBytes (m : Module) : List Byte :=
  (List.range 160).map fun row =>
    match (remapRow (m.image.repair.get? row) ((m.found.filter fun f => f / 64 == row).map (· % 64))).1 with
    | some b => BitVec.ofNat 8 (128 + b)
    | none => 0

/-- A replacement is asked for, which a runtime measurement reports at once (R432). -/
def Module.askReplacement (m : Module) : Module := { m with repl := true }.measure 8 (sha384 [1])

/-- The work of a stage that has passed (R424, R428, R429, R432): the firmware and the image are measured, the seed is unsealed, the
repair map in force and the replacement flag of the last run are measured. -/
def Module.stageDone (m : Module) (n : Nat) (d : BitVec 384) (found : List Nat) : Module :=
  match n with
  | 1 => m.measure 1 m.firmware
  | 2 => m.measure 2 m.image.digest
  | 3 => { m with identity := some m.image.seed }.measure 3 d
  | 4 =>
    let x := m.bist found
    (x.measure 4 (sha384 x.mapBytes)).measure 4 (sha384 [if m.repl then 1 else 0])
  | 5 => (m.measure 5 d).remap
  | n => m.measure n d

/-- A stage of the start in progress runs: of a start in Cocoon mode until its windows are open (R424, R426). -/
def Module.inStage (m : Module) (n : Nat) : Bool :=
  m.starts != 0 && m.stage == n && (m.state == 1 || (m.state == 3 && !(m.meas.has n)))

/-- The stage after one in Cocoon mode: stages 1 to 3, then 6 (R426). -/
def State.nextInCocoon (s : State) (n : Nat) : State :=
  if n = 6 then s else if n = 3 then s.beginStage 6 else s.beginStage (n + 1)

/-- A stage fails: the failure is counted with its code and the next start begins; a start in Cocoon mode goes on (R424 to R426; log 55). -/
def State.stageFails (s : State) (n code : Nat) : State :=
  if s.md.state = 3 then (s.modMd fun m => m.failed code).nextInCocoon n else s.failStart code

/-- START_STAGE: a stage's check ends, within its limit (R424, R426). Operands: stage n, whether it passes, the reason code m,
the digest d, and for stage 4 the findings l. Stage 3 passes only an image whose seed is sealed, and whose tag is made, under this
module's PUF key (R428). After stage 7 the module is READY. -/
def execStartStage (s : State) : Out :=
  let a := s.arg
  let n := a.n
  .next (if !s.md.inStage n then s
    else if !(a.ok && (n != 3 || s.md.image.key == s.md.puf)) then
      if n = 7 then s
      else s.stageFails n (if (stageReasons n).contains a.m then a.m else (stageReasons n).headD 0x07)
    else
      let s := s.modMd fun m => m.stageDone n (a.d.setWidth 384) a.l
      if s.md.state = 3 then s.nextInCocoon n
      else if n = 7 then
        ((s.modMd fun m => { m with state := 2, fails := 0 }).atRef (2 ^ 14) .healthCheck).atRef msTicks .healthSample
      else s.beginStage (n + 1))

/-- START_STAGE_TIMEOUT: a stage has not ended within its limit and fails with its reason code, of two the first; stage 7, for which the
table gives none, with TIMEOUT (R424; log 56). Operands: the stage, the start. -/
def execStartStageTimeout (s : State) : Out :=
  .next (if s.md.inStage s.arg.n ∧ s.md.starts = s.arg.m then s.stageFails s.arg.n ((stageReasons s.arg.n).headD 0x07) else s)

/-- POWER_LOSS: all but flash is lost; a start in progress is recorded as failed by the next one (R425, R434). -/
def execPowerLoss (s : State) : Out :=
  .next { State.reset with
    inputs := s.inputs, host := s.host, hostFog := s.hostFog, hostBad := s.hostBad, irqs := s.irqs, fresh := s.fresh
    md := { s.md.flash with interrupted := s.md.state = 1 ∨ (s.md.state = 3 ∧ !s.md.meas.has 6) } }

/-- RAIL_FAULT: a rail fault (or, with n = 8, an overtemperature) fails a start; in Cocoon mode it shuts down (R424, R434). -/
def execRailFault (s : State) : Out :=
  .next (if s.md.state = 1 then s.failStart (if s.arg.n = 8 then 0x08 else 0x09)
    else if s.md.state = 3 then s.modMd fun m => { m with state := 4 }
    else s)

/-! ## Failed tiles and channels (R429 to R432) -/

/-- The partition that owns a tile. -/
def State.ownerOf (s : State) (tile : Nat) : Option Nat := (s.parts.find? fun p => p.2.hasTile tile).map (·.1)

/-- A failed tile's strip leaves service and its partition is reset (R431 step 3). -/
def State.loseTile (s : State) (tile : Nat) : State :=
  let s := s.modMd fun m => { m.lose (stripOf tile) with rowx := true }.askReplacement
  match s.ownerOf tile with
  | some p => s.resetPart p
  | none => s

/-- A tile is declared failed: the running contexts of its partition are fenced with TILEDEAD (DEDUCED from the worked case of R433; log
83), then the row's spare is tested, or the strip is lost (R431, R434). A tile that has been declared failed is not declared again. -/
def State.tileFailed (s : State) (tile : Nat) : State :=
  if s.md.shifts.contains tile then s else
  let c := (s.launch tile).ctx
  let s := match s.ownerOf tile with
    | some p =>
      let running := ((s.part p).ctxs.filter fun (x : Nat × Ctx) => x.2.state == 0x02).map fun (x : Nat × Ctx) => x.1
      (running.foldl (fun (s : State) (c : Nat) => s.fenceContext ⟨p, c⟩ 0x06 0 tile 0 0) s).logEntry p 5 c tile 0
    | none => s
  if (s.md.rows.has (rowOf tile)) || s.md.shifts.any fun t => rowOf t == rowOf tile then s.loseTile tile
  else s.modMd fun m => { m with shifts := m.shifts ++ [tile] }

/-- HEALTH_CHECK: the counts rise, but for tiles whose logic does not answer or has reported an error since the last check (R430). As
something that happens to the machine (ok = false), the tile's logic stops answering, or answers again (n = 1). -/
def execHealthCheck (s : State) : Out :=
  let tile := s.cur.tile
  .next (if !s.arg.ok && s.arg.n == 1 then s.modMd fun m => { m with silent := m.silent.erase tile }
    else if !s.arg.ok then
      s.modMd fun m => { m with silent := if m.silent.has tile then m.silent
                                          else m.silent.set tile (m.sampled - (s.tile tile).missed, 0) }
    else
      let s := s.modMd fun m => { m with checks := m.checks + 1 }
      let failing := s.md.silent.map (·.1) ++ s.md.erred.filter fun t => !s.md.silent.has t
      let s := failing.foldl (fun s t => s.modTile t fun x => { x with missed := x.missed + 1 }) s
      let s := s.modMd fun m => { m with erred := [] }
      s.atRef (2 ^ 14) .healthCheck)

/-- HEALTH_SAMPLE: a count that has not advanced in four consecutive samples marks its tile failed (R431). -/
def execHealthSample (s : State) : Out :=
  let next := s.md.silent.map fun (t : Nat × Nat × Nat) =>
    let n := s.md.checks - (s.tile t.1).missed
    (t.1, if n = t.2.1 then (n, t.2.2 + 1) else (n, 0))
  let s := s.modMd fun m => { m with silent := next, sampled := m.checks }
  .next (((next.filter fun t => t.2.2 == 4).foldl (fun s t => s.tileFailed t.1) s).atRef msTicks .healthSample)

/-- LOGIC_ERROR_REPORT: an uncorrectable error in a tile's logic, which the tile's next health check does not pass (R430, R431). -/
def execLogicErrorReport (s : State) : Out :=
  let tile := s.cur.tile
  .next ((s.modMd fun m => { m with erred := tile :: m.erred.filter (· != tile) }).tileFailed tile)

/-- Every line of a tile's slice leaves it, written back or not. -/
def State.emptySlice (s : State) (tile : Nat) (writeBack : Bool) : State :=
  match s.ownerOf tile with
  | some p => ((s.tile tile).slice.flatMap (·.2)).foldl (fun s l =>
      if writeBack then s.sliceEvict tile p l.pl else s.modTile tile fun t => t.sliceDrop l.pl) s
  | none => s

/-- The tile at a column of a tile's row. -/
def atColumn (tile x : Nat) : Nat := tile / 32 * 32 + x

/-- The row is shifted from a logical column on: those tiles are other physical tiles, whose health is their own (R429,
R430, R431). -/
def State.shiftRow (s : State) (tile : Nat) : State :=
  let x := colOf tile
  let cols := (List.range 32).filter (x ≤ ·)
  let owners := (cols.filterMap fun c => s.ownerOf (atColumn tile c)).foldl (fun acc p => if acc.contains p then acc else acc ++ [p]) []
  let s := cols.foldl (fun s c => s.emptySlice (atColumn tile c) (c != x)) s
  let s := owners.foldl State.resetPart s
  let missed := cols.map fun c => (s.tile (atColumn tile (c + 1))).missed
  let s := (cols.zip missed).foldl (fun s (c, m) =>
    s.modTile (atColumn tile c) fun _ => { missed := if c = 31 then 0 else m }) s
  s.modMd fun m => { m with
    rows := m.rows.set (rowOf tile) x
    erred := (m.erred.filter (· != tile)).map fun t => if rowOf t == rowOf tile && x < colOf t then t - 1 else t
    silent := (m.silent.erase tile).map fun (t : Nat × Nat × Nat) =>
      (if rowOf t.1 == rowOf tile && x < colOf t.1 then t.1 - 1 else t.1, t.2) }

/-- ROW_SHIFT: the BIST of a row's spare has ended; the row is shifted, or the strip is lost (R431). Operands: the failed tile,
whether the spare passes. -/
def execRowShift (s : State) : Out :=
  let tile := s.cur.tile
  .next (if !s.md.shifts.contains tile then s
    else
      let s := s.modMd fun m => { m with shifts := m.shifts.erase tile }
      if s.arg.ok then s.shiftRow tile else s.loseTile tile)

/-- HBM_CHANNEL_FAILURE: the contexts with lines mapped through the channel, those of the partition that owns its strip whose tables are
valid, are fenced with CHANFAIL (R432). Operand: the channel 32·d + c. -/
def execHbmChannelFailure (s : State) : Out :=
  let ch := s.arg.n
  .next (if 256 ≤ ch ∨ s.md.chfail.getLsbD ch then s
    else
      let b := chanStrip ch
      let owner := s.parts.find? fun p => p.2.sc0 ≤ b % 32 && b % 32 ≤ p.2.sc1 && p.2.sr0 ≤ b / 32 && b / 32 ≤ p.2.sr1
      let s := match owner with
        | none => s
        | some p => (p.2.ctxs.filter fun (c : Nat × Ctx) => c.2.fenceable && c.2.root.getLsbD 0).foldl
            (fun s (c : Nat × Ctx) => s.fenceContext ⟨p.1, c.1⟩ 0x08 0 0xFFFF 0 0) s
      s.modMd fun m => (m.loseChan ch).askReplacement)

/-! ## Power and cooling (R435) -/

/-- THERMAL_THROTTLE: a deck's clock is slowed by a step above 100 °C or above the cap, and restored below 95 °C; above 115 °C the
module shuts down. Operands: deck n, its temperature m in steps of 0.5 °C, the module's power w in watts. -/
def execThermalThrottle (s : State) : Out :=
  let d : Fin 8 := ⟨s.arg.n % 8, Nat.mod_lt _ (by decide)⟩
  let temp := s.arg.m
  let power := s.arg.w.toNat
  .next (if s.md.state = 3 then s
    else
      let s := s.modMd fun m => { m with temps := m.temps.set d (temp % 256), power := power % 65536 }
      let x := s.decks[d]
      let thr := if 200 < temp ∨ s.md.cap < power then min 15 (x.thr + 1) else if temp < 190 then 0 else x.thr
      let s := { s with decks := s.decks.set d { x with thr := thr } }
      if 230 < temp then s.atRef 0 .thermalShutdown else s)

/-- THERMAL_SHUTDOWN: every context is fenced with STATEUE and the module enters SHUTDOWN (R435); during a start it is the
overtemperature that fails it (R424). -/
def execThermalShutdown (s : State) : Out :=
  .next (if s.md.state = 1 then s.failStart 0x08
    else
      let rs := s.parts.flatMap fun (p : Nat × Part) =>
        (p.2.ctxs.filter fun (c : Nat × Ctx) => c.2.fenceable).map fun (c : Nat × Ctx) =>
          (⟨p.1, c.1⟩ : Rec)
      (rs.foldl (fun s r => s.fenceContext r 0x05 0 0xFFFF 0 0) s).modMd fun m => { m with state := 4 })

/-! ## Management commands (R423, R427, R435) -/

/-- A command reaches the module: in READY it is refused while another runs; Cocoon mode offers only some; before the windows
open nothing arrives (R424, R426, R427). -/
def State.command (s : State) (inCocoon inShutdown : Bool) (f : State → State) : State :=
  let res (n : Nat) : State := s.modMd fun m => { m with res := n }
  match s.md.state with
  | 2 => if s.md.busy then res 2 else f s
  | 3 => if !s.md.meas.has 6 then s else if !inCocoon then res 0xFF else if s.md.busy then res 2 else f s
  | 4 => if inShutdown then f s else s
  | _ => s

/-- A command runs and ends with a result within a number of ticks. -/
def State.runCommand (s : State) (bound res : Nat) (arg : Args := {}) : State :=
  let (k, s) := s.takeFresh
  (s.modMd fun m => { m with busy := true, res := 1 }).atRef (Config.freeLatency k % bound) .mgmtCommandComplete default
    { arg with n := res }

/-- The 16 bytes of a ring entry (R293). -/
def TraceEnt.bytes (e : TraceEnt) : List Byte :=
  natToBytes 8 e.cycle ++ natToBytes 2 e.src.tile
    ++ natToBytes 1 (if e.src.eng then 128 else 8 * e.src.thr.val + e.src.core.val) ++ natToBytes 1 0 ++ natToBytes 4 e.word
/-- A ring entry from its 16 bytes; none for an entry that was never written. -/
def TraceEnt.ofBytes (bs : List Byte) : Option TraceEnt :=
  let f (o n : Nat) : Nat := bytesToNat ((bs.drop o).take n)
  if bs.all (· == 0) then none
  else some ⟨f 0 8, if 128 ≤ f 10 1 then { tile := f 8 2, eng := true } else
    { tile := f 8 2, eng := false, core := (BitVec.ofNat 3 (f 10 1)).toFin, thr := (BitVec.ofNat 4 (f 10 1 / 8)).toFin }, f 12 4⟩

/-- RING_READ: a port's ring, the oldest entry first, goes to the buffer (R423). -/
def State.ringRead (s : State) (tile q : Nat) : State :=
  s.command false false fun s =>
    if !(tileIdOk tile && q ≤ 55) then s.modMd fun m => { m with res := 2 }
    else
      let ring := ((s.tile tile).ports.getD q {}).ring
      let bytes := List.replicate (16 * (256 - ring.length)) 0 ++ ring.flatMap TraceEnt.bytes
      (s.modMd fun m => { m with buffer := m.buffer.writeBytes 0 bytes }).runCommand 112000 0

/-- RING_WRITE: the buffer becomes a port's recorded order (R423, R294). -/
def State.ringWrite (s : State) (tile q : Nat) : State :=
  s.command false false fun s =>
    if !(tileIdOk tile && q ≤ 55) then s.modMd fun m => { m with res := 2 }
    else
      let order := (List.range 256).filterMap fun i => TraceEnt.ofBytes (s.md.buffer.readBytes (16 * i) 16)
      let s := s.modTile tile fun t => { t with ports := t.ports.set q { t.ports.getD q {} with order := order } }
      s.runCommand 112000 0

/-- LEAVE: the failure count is cleared and the module starts afresh (R427). -/
def State.leave (s : State) : State := s.command true true fun s => (s.modMd fun m => { m with fails := 0 }).restart

/-- RESTART: the module starts afresh (R427). -/
def State.restartCmd (s : State) : State := s.command false true State.restart

/-- IMAGE_LOAD: a new image or firmware goes to flash only when its signature verifies (R427, R428). What it holds: whether the signature
verifies (ok); firmware (n = 1) or an image; the digest (d); of an image the repair map as 64·row + column (l), the PUF key in the low
half of e and the sealed seed in the high half, the SKU data (w). -/
def State.imageLoad (s : State) (a : Args) : State :=
  s.command true false fun s =>
    if a.ok then s.runCommand msTicks 0 { a with m := if a.n = 1 then 2 else 1 } else s.modMd fun m => { m with res := 2 }

/-- POWERCAP (R435). -/
def State.powercap (s : State) (w : Nat) : State :=
  s.command false false fun s =>
    if 800 ≤ w ∧ w ≤ 2800 then (s.modMd fun m => { m with cap := w }).runCommand 1 0
    else s.modMd fun m => { m with res := 2 }

/-- What the image at a host address holds: the spec gives it no layout and no verdict, so it is free (log 7). -/
def State.hostImage (s : State) : Args × State :=
  let (k, s) := s.takeFresh
  let (k2, s) := s.takeFresh
  ({ ok := Config.freeBool k, n := if Config.freeBool k2 then 1 else 0, d := Config.freeKey k, e := Config.freeKey k2, w := Config.freeWord k
     l := (List.range 160).filterMap fun row =>
      let b := (Config.freeByte k row).toNat
      if 128 ≤ b ∧ b % 64 ≤ 32 then some (64 * row + b % 64) else none }, s)

/-- A command that is written to the command register, with its argument (R427): tile [23:8] and port [29:24], watts [23:8], or a host
address; any other op is a bad one. -/
def State.mgmtCommand (s : State) (w : Word) : State :=
  let tile := (w.extractLsb' 8 16).toNat
  match w.toNat % 256 with
  | 1 => s.ringRead tile (w.extractLsb' 24 6).toNat
  | 2 => s.ringWrite tile (w.extractLsb' 24 6).toNat
  | 3 => s.leave
  | 4 => s.restartCmd
  | 5 => let (a, s) := s.hostImage; s.imageLoad a
  | 6 => s.powercap tile
  | _ => s.modMd fun m => { m with res := 0xFF }

/-- The rows of the commands: their operands as the command register gives them (R427): the tile and the port n; the watts n; of
IMAGE_LOAD what the image holds. -/
def execRingRead (s : State) : Out := .next (s.ringRead s.cur.tile s.arg.n)
def execRingWrite (s : State) : Out := .next (s.ringWrite s.cur.tile s.arg.n)
def execLeave (s : State) : Out := .next s.leave
def execRestart (s : State) : Out := .next s.restartCmd
def execImageLoad (s : State) : Out := .next (s.imageLoad s.arg)
def execPowercap (s : State) : Out := .next (s.powercap s.arg.n)

/-- MGMT_COMMAND_COMPLETE: the result shows and cseq rises; an image load has replaced the image or the firmware whole (R427, R434).
Operands: the result (n), what was loaded (m: 1 an image, 2 firmware) and what it holds. -/
def execMgmtCommandComplete (s : State) : Out :=
  let a := s.arg
  .next (s.modMd fun m => { m with
    busy := false, res := a.n, cseq := m.cseq + 1
    image := if a.m = 1 then
        { sku := a.w, repair := a.l.foldl (fun (k : KMap Nat) x => k.set (x / 64) (x % 64)) [], digest := a.d.setWidth 384
          key := a.e.extractLsb' 0 256, seed := a.e.extractLsb' 256 256 }
      else m.image
    firmware := if a.m = 2 then a.d.setWidth 384 else m.firmware })

/-! ## Registers that system software writes (R358, R386 to R388, R421, R427) -/

/-- The windows of the physical function are open: from stage 6 on (R424, R426). -/
def Module.open_ (m : Module) : Bool := m.state == 2 || m.state == 4 || m.meas.has 6

/-- A write of 8 bytes to the management window (R421, R423, R427): in Cocoon mode only to the command register (R426). -/
def State.writeMgmt (s : State) (off : Nat) (w : Word) : State :=
  if !s.md.open_ then s
  else if off = 0x1000 then s.mgmtCommand w
  else if s.md.state = 3 then s
  else if 0x2000 ≤ off ∧ off < 0x3000 then s.modMd fun m => { m with buffer := m.buffer.writeNat (off - 0x2000) 8 w.toNat }
  else if 0x4000 ≤ off ∧ off < 0x5000 ∧ s.parts.has ((off - 0x4000) / 0x40) then
    s.modPart ((off - 0x4000) / 0x40) fun x =>
      match off % 0x40 with
      | 0x00 => { x with lbase := w }
      | 0x08 => { x with lsize := w.toNat % 32 }
      | 0x18 => { x with lcons := w }
      | 0x28 => { x with recd := w.getLsbD 0, replay := w.getLsbD 1 }
      | _ => x
  else s

/-- A context descriptor's fields of system software (R387); a FREE slot with a valid root becomes READY. -/
def Ctx.ofDescriptor (x : Ctx) (d : BitVec 512) : Ctx :=
  let f (lo n : Nat) : Nat := d.toNat / 2 ^ lo % 2 ^ n
  { x with
    root := BitVec.ofNat 64 (f 0 64), asid := f 64 12, wmask := BitVec.ofNat 16 (f 80 16), keySlot := f 96 6
    kv := f 102 1 = 1, vf := f 112 8, save := f 192 64, fq := f 256 64, fqn := f 320 32, quantum := f 352 32
    state := if x.state = 0x00 ∧ f 0 1 = 1 then 0x01 else x.state }

/-- A setting of a partition whose register the spec does not place (R242, R273, R344, R367, R368, R370, R371). -/
def Part.setting (x : Part) (which ix : Nat) (w : Word) (d : BitVec 512) : Part :=
  match which with
  | 0 => { x with lane := some w.toNat }
  | 1 => { x with migThr := w.toNat % 16 }
  | 2 => { x with groupBase := w.toNat }
  | 3 => { x with windows := x.windows.set (ix % 1024) (d.setWidth 128) }
  | 4 => { x with shares := x.shares.set ix w.toNat }
  | 5 => { x with hangLimit := w.toNat }
  | 6 => { x with grace := w.toNat }
  | _ => { x with lane := none }

/-- The doubleword at an 8-byte aligned offset of the management window (R421, R423, R427, R435): write-only and reserved places read
zero, and so does what R435 names in Cocoon mode. -/
def State.mgmtWord (s : State) (off : Nat) : Word :=
  let m := s.md
  let bit (b : Bool) (i : Nat) : Nat := if b then 2 ^ i else 0
  let warm : Bool := m.state != 3
  BitVec.ofNat 64 (
    if off = 0x000 then m.state + 2 ^ 8 * m.stage + 2 ^ 16 * m.fails
    else if off = 0x008 then bytesToNat (m.reasons.map (BitVec.ofNat 8 ·))
    else if off = 0x010 then bit m.repl 0 + bit m.rowx 1 + bit m.hbmdeg 2
    else if off = 0x018 then m.unavail.toNat
    else if off = 0x020 then m.ce
    else if 0x040 ≤ off ∧ off < 0x058 then
      (List.range 64).foldl (fun n i => n + bit (m.rows.has (8 * (off - 0x040) + i)) i) 0
    else if 0x060 ≤ off ∧ off < 0x080 then m.chfail.toNat / 2 ^ (8 * (off - 0x060))
    else if off = 0x100 then (if warm then bytesToNat (m.temps.toList.map (BitVec.ofNat 8 ·)) else 0)
    else if off = 0x108 then (if warm then m.power else 0)
    else if off = 0x110 then (if warm then bytesToNat (s.decks.toList.map fun d => BitVec.ofNat 8 d.thr) else 0)
    else if off = 0x1008 then m.res + 2 ^ 8 * m.cseq
    else if 0x2000 ≤ off ∧ off < 0x3000 then m.buffer.readNat (off - 0x2000) 8
    else if 0x4000 ≤ off ∧ off < 0x5000 then
      let x := s.part ((off - 0x4000) / 0x40)
      match off % 0x40 with
      | 0x00 => x.lbase.toNat
      | 0x08 => x.lsize
      | 0x10 => x.lprod.toNat
      | 0x18 => x.lcons.toNat
      | 0x20 => x.lost.toNat
      | 0x28 => bit x.recd 0 + bit x.replay 1
      | 0x30 => x.fabue
      | 0x38 => x.ce
      | _ => 0
    else 0)

/-- What a host read of 8 bytes at an 8-byte aligned offset of a function's BAR0 window returns (R331, R358, R386, R388): the cells and
the partition's counters of the sequencer page, the control page of the function's context. Reserved and write-only places read zero,
and so does the window of a function without a context (DESIGN CHOICE: the spec gives neither; log 107). -/
def State.barWord (s : State) (vf off : Nat) : Word :=
  match s.ofVf vf with
  | none => 0
  | some (p, c) =>
    let x := s.ctx p c
    let q := s.part p
    if off < 0x40 then BitVec.ofNat 64 (lineGet x.jobCell.bits off 8)
    else if off < 0x80 then BitVec.ofNat 64 (lineGet x.echo.bits (off - 0x40) 8)
    else match off with
    | 0x100 => BitVec.ofNat 64 q.ctagdrop
    | 0x108 => BitVec.ofNat 64 q.stale
    | 0x110 => BitVec.ofNat 64 q.badkind
    | 0x118 => BitVec.ofNat 64 q.gwpurge
    | 0x1000 => x.fqprod
    | 0x1008 => x.fqcons
    | 0x1020 => x.tbdone
    | 0x1028 => zx x.wmask
    | 0x1030 => zx x.state
    | _ => 0

/-- A host write of 8 bytes in a function's BAR0 window: the control page's registers that can be written, of the function's own context;
anything else is dropped (R331, R386, R388). -/
def State.barWrite (s : State) (vf off : Nat) (w : Word) : State :=
  match off with
  | 0x1008 => s.putFqcons vf w
  | 0x1010 => s.putSettle vf w
  | 0x1018 => s.putTbinv vf w
  | 0x1028 => s.forVf vf fun p c => s.putMask p c (w.setWidth 16)
  | _ => s

/-- A correctable error is counted in its partition and in the module; one in 2^16 of a partition's enters its log (R418,
R422). -/
def State.countCorrected (s : State) (p c tile : Nat) : State :=
  let n := (s.part p).ce + 1
  let s := (s.modPart p fun x => { x with ce := n }).modMd fun m => { m with ce := m.ce + 1 }
  if n % 2 ^ 16 = 0 then s.logEntry p 6 c tile 0 else s

/-- A record that the record cache holds is found to be damaged and leaves it (R418): line l of the address. -/
def CopyUnit.dropRec (c : CopyUnit) (l : Nat) : CopyUnit := { c with recs := c.recs.filter fun x => lineIx x.2.1 != l }

/-- The clean copies of a line leave a core's caches (R270). -/
def Core.dropClean (c : Core) (l : Nat) : Core :=
  let c := match c.lineGet? l with
    | some x => if x.dirty then c else c.lineDrop l
    | none => c
  { c with rolines := c.rolines.filter fun x => x.tag != l }

/-- REGISTER_WRITE: a write of the host or of system software to a register or memory that has no behaviour of its own.
Operand n is the space: 0 management window (offset m, value w); 1 a function's window (l = [function], offset m); 2 a context
descriptor (l = [partition, context], d); 3 a partition's settings (l = [partition, which], index m, w, d); 4 partition physical
memory (l = [partition, context], address w, m bytes of d); 5 host memory (address w, m bytes of d); 6 settings of the module
(m = 0 the PCIe timeout, 1 its number in the pod). Four spaces stand for errors that happen to storage (R270, R418, log 11): 7 an
uncorrectable error in word m of the local memory of the tile and core; 8 a correctable error met in a tile (l = [partition,
context]); 9 a parity error in what the core's caches or the tile's record cache hold of line m, clean, which is fetched again when it is
next needed; 10 the line of
host memory at address w, whose next read by a command or an engine comes back poisoned. -/
def execRegisterWrite (s : State) : Out :=
  let a := s.arg
  let bytes := (lineBytes a.d).take a.m
  .next (match a.n, a.l with
    | 0, _ => s.writeMgmt a.m a.w
    | 1, [vf] => s.barWrite vf a.m a.w
    | 2, [p, c] => if s.parts.has p ∧ c < 16 then s.modCtx p c fun x => (x.ofDescriptor a.d).maskFrom x s.clock else s
    | 3, [p, which] => if s.parts.has p then s.modPart p fun x => x.setting which a.m a.w a.d else s
    | 4, [p, c] =>
      if s.parts.has p ∧ a.w.toNat + bytes.length ≤ (s.part p).physSize then s.physWrite p c a.w.toNat bytes else s
    | 5, _ => { s with host := s.host.writeBytes a.w.toNat bytes, hostFog := carve a.w.toNat bytes.length s.hostFog }
    | 10, _ => { s with hostBad := s.hostBad.set (a.w.toNat / 64) () }
    | 6, _ => if a.m = 0 then { s with hostTimeout := a.w.toNat } else { s with gw := { s.gw with me := a.w.toNat } }
    | 7, _ =>
      if tileIdOk s.cur.tile then s.modCore s.cur.tile s.cur.core fun c => { c with lmUE := c.lmUE.set (a.m % 65536) () } else s
    | 8, [p, c] => if s.parts.has p then s.countCorrected p c s.cur.tile else s
    | 9, [p, c] =>
      if s.parts.has p then
        ((s.modCore s.cur.tile s.cur.core fun x => x.dropClean a.m).modCopy s.cur.tile fun x => x.dropRec a.m).countCorrected p c s.cur.tile
      else s
    | _, _ => s)

end Sys2Proof.Machine
end

