-- ==== Sys2Proof/Machine/Serve.lean ====
section
/-!
DEFINITION. The memory ports: which access performs next at a tile's ports, in the order of the banks (spec/06 R162, R164, R173,
R179 to R182) and of a recorded run (spec/10 R294), and what it does there.
-/
namespace Sys2Proof.Machine

/-! ## Counter operations (R123) -/

/-- A spawn at its counter's home port: refused by a marked counter or a full deque, else the count rises, the record goes into the
deque and the counter is the unit's child counter (R126). -/
def State.performSpawn (s : State) (a : Access) (d : SReg) (w : Vector W32 16) (key : Option (Nat × Nat)) (kept : Bool)
    (due : Nat) : State :=
  let tile := a.r.tile
  let c := a.va.toNat
  let x := s.ctr tile c
  let lag := max a.lag (due - s.now tile)
  let s := s.modTile tile fun t => t.dropAccess a.r a.op
  let s := if kept then s.modCore tile a.r.core fun co => { co with kept := co.kept - 1 } else s
  if ctrMark x || (!kept && (s.core tile a.r.core).dequeFull) then s.resolveIn a.r a.op lag { s := [(d, 0)] }
  else
    let s := (s.setCtr tile c (ctrPut (ctrCount x + 1) false) (some a.r)).modThread a.r fun t => { t with w1 := setChild t.w1 c }
    (s.modCore tile a.r.core fun co => co.pushBottom { w := w, key := key }).resolveIn a.r a.op lag { s := [(d, 1)] }

/-- A cancel at the unit level acts at its counter's home port (R134). -/
def State.performMark (s : State) (a : Access) (d : SReg) (due : Nat) : State :=
  let s := (s.modTile a.r.tile fun t => t.dropAccess a.r a.op).resolveIn a.r a.op (max a.lag (due - s.now a.r.tile)) { s := [(d, 1)] }
  s.cancelCounters a.r.tile (some a.r) cancelFuel [a.va.toNat]

/-- The order in which the accesses of one cycle perform: writes, full/empty stores among them, then atoms, then reads and waiting
loads of full words (R170, R182; log 9). -/
def Act.rank : Act → Nat
  | .store _ _ => 0
  | .stf _ => 0
  | .clre => 0
  | .line _ => 0
  | .fe .stef _ _ _ => 0
  | .spawn _ _ _ _ _ => 0
  | .mark _ _ => 0
  | .dec => 0
  | .atom _ _ _ _ _ _ _ => 1
  | _ => 2

/-- The instruction of an access still waits for it: its wait has not timed out and has not been abandoned. -/
def State.awaited (s : State) (a : Access) : Bool :=
  match a.act with
  | .store _ _ => true
  | .stf _ => true
  | .clre => true
  | .line _ => true
  | .spawn _ _ _ _ _ => true
  | .mark _ _ => true
  | .dec => true
  | _ => match ((s.thread a.r).op? a.op).map Outst.cond with
    | some (.port _) => true
    | _ => false

/-- The bank of an atom is free for it: a holder's rel, and one that holds nothing, need not wait; any other waits while the
bank is reserved or an earlier request stands at it (R180). -/
def State.bankFree (s : State) (a : Access) (before : List Access) : Bool :=
  match a.act, a.banks with
  | .atom op _ _ _ _ _ _, b :: _ =>
    op == .rel || (!s.bankHeld a.r.tile b && !(before.any fun e => e.since.isNone && match e.act, e.banks with
      | .atom op' _ _ _ _ _ _, b' :: _ => op' != .rel && b' == b && e.at_ ≤ s.now a.r.tile
      | _, _ => false))
  | _, _ => true

/-- A line that an access needs is missing (R270, R179). -/
def State.lacksLine (s : State) (a : Access) : Bool :=
  a.place == .glob && (match a.act with
    | .line _ => false
    | _ => true) && ((s.core a.r.tile (homeCore (lineIx a.va))).lineGet? (lineIx a.va)).isNone

/-- A miss of the line is being served. -/
def Tile.missing (t : Tile) (va : Word) : Bool :=
  t.misses.any fun m => m.what == .line (lineIx va) (homeCore (lineIx va)) false

/-- An access to a host word waits for the unit's earlier accesses of it (R141). -/
def State.hostWaits (s : State) (a : Access) : Bool :=
  match s.xlat a.r.tile a.va false false with
  | .host pa => s.hostOrder a pa
  | _ => false

/-- What an access at its port can do in this cycle. -/
inductive Turn where
  /-- Nothing: it waits. -/
  | wait
  /-- It leaves: its instruction waits for it no more. -/
  | leave
  /-- It asks for its line. -/
  | fetch
  /-- It enters the side buffer of its port (R294). -/
  | hold
  | perform
  deriving DecidableEq, Repr

/-- The turn of an access, `before` standing before it. -/
def State.turnOf (s : State) (a : Access) (before : List Access) : Turn :=
  let t := s.tile a.r.tile
  if s.now a.r.tile < a.at_ then .wait
  else if !s.awaited a then .leave
  else if heldBack a before || a.since.isSome then .wait
  else if !s.bankFree a before then .wait
  else if s.lacksLine a then (if t.missing a.va || s.hostWaits a then .wait else .fetch)
  else if (s.part (s.launch a.r.tile).part).replay && t.mustWait (s.now a.r.tile) a then .hold
  else match a.act with
    | .fe form _ _ _ => if s.feReady a form then .perform else .wait
    | _ => .perform

/-- An access performs. -/
def State.perform (s : State) (a : Access) : State :=
  match a.act with
  | .load f => s.performLoad a f []
  | .view f tab => s.performLoad a f tab
  | .store v mask => s.performStore a v mask
  | .stf v => s.performStf a (some v)
  | .clre => s.performStf a none
  | .fe form d data tp => s.performFe a form d data tp
  | .atom op t x old d frm held => s.performAtom a op t x old d frm held
  | .line drop => s.performLine a drop
  | .spawn d w key kept due => s.performSpawn a d w key kept due
  | .mark d due => s.performMark a d due
  | .dec => (s.modTile a.r.tile fun t => t.dropAccess a.r a.op).decCtr a.r.tile a.va.toNat (some a.r)

/-- Takes a turn. -/
def State.takeTurn (s : State) (a : Access) : Turn → State
  | .wait => s
  | .leave => s.modTile a.r.tile fun t => t.dropAccess a.r a.op
  | .fetch => s.startMiss a.r.tile a.va (.line (lineIx a.va) (homeCore (lineIx a.va)) false)
  | .hold => s.modTile a.r.tile fun t =>
      { t with accs := t.accs.map fun b => if b.r == a.r && b.op == a.op then { b with since := some (s.now a.r.tile) } else b }
  | .perform => s.perform a

/-- The access of a rank that has a turn, the first in order of arrival. -/
def State.nextOf (s : State) (rank : Nat) : List Access → List Access → Option (Access × Turn)
  | _, [] => none
  | before, a :: rest =>
    let turn := if a.act.rank = rank then s.turnOf a before else .wait
    if turn = .wait then State.nextOf s rank (before ++ [a]) rest else some (a, turn)

/-- The access that has the next turn at a tile's ports. -/
def State.nextAccess (s : State) (tile : Nat) : Option (Access × Turn) :=
  let l := (s.tile tile).accs
  (s.nextOf 0 [] l).or ((s.nextOf 1 [] l).or (s.nextOf 2 [] l))

/-- The ports of a tile serve what they can in this cycle; `fuel` bounds the turns. -/
def State.servePorts (s : State) (tile : Nat) : Nat → State × Bool
  | 0 => (s, false)
  | k + 1 =>
    match s.nextAccess tile with
    | none => (s, false)
    | some (a, turn) => ((State.servePorts (s.takeTurn a turn) tile k).1, true)

/-- Turns enough for every access of a tile: each is fetched for, held and performed. -/
def State.portFuel (s : State) (tile : Nat) : Nat := 4 * (s.tile tile).accs.length + 4

/-- The store that leaves the side buffers of a tile next, unless it waits for its line. -/
def State.leaving (s : State) (tile : Nat) : Option Access :=
  (s.tile tile).accs.find? fun a => (s.tile tile).mayLeave (s.now tile) a && !(s.lacksLine a && (s.tile tile).missing a.va)

/-- REPLAY_STORE_RELEASE (R294): a store leaves the side buffers and performs. Operand: the tile. -/
def execReplayStoreRelease (s : State) : Out :=
  .next (match s.leaving s.cur.tile with
    | none => s
    | some a => if s.lacksLine a then s.takeTurn a .fetch else s.perform a)

/-- A store of a tile may leave the side buffers. -/
def State.pollReplay (s : State) (tile : Nat) : State × Bool :=
  match s.leaving tile with
  | none => (s, false)
  | some _ => (s.atTile tile 0 .replayStoreRelease ⟨tile, 0, 0⟩, true)

end Sys2Proof.Machine
end

