-- ==== Sys2Proof/Machine/Threads.lean ====
section
/-!
DEFINITION. The steps of threads and cores that no instruction word names (spec/01 R12 to R20, spec/04 R119, R124, R133, spec/16
R337 to R340, spec/09 R273, spec/05 R155).
-/
namespace Sys2Proof.Machine

/-! ## Results, traps and CANCEL -/

/-- RESULT_ARRIVAL (R15): a trap entry or suspension that waited for the result follows. -/
def execResultArrival (s : State) : Out :=
  .next (((s.clearCaches s.cur s.arg.n).arrive s.cur s.arg.n).settleThread s.cur)

/-- TRAP_ENTRY (R19): what the entry waited for may have moved the next unissued instruction on. A precise trap has left the pc at
its instruction; BREAK and SYSCALL name the one after it (R18). -/
def execTrapEntry (s : State) : Out :=
  .next (match s.th.trap with
    | some p =>
      let p := if p.cause = .brk ∨ p.cause = .syscall then p else { p with tpc := s.th.pc }
      if s.th.settled then s.enterNow s.cur p else s
    | none => s)

/-- The thread leaves its waits at once; each is marked as abandoned, those that a displacement has abandoned before too, and a
waiting form's advance is made (R119). -/
def Thread.abandonWaits (t : Thread) : Thread :=
  let held := t.outst.find? fun o => o.hold && o.waits
  let t : Thread := { t with
    laidOff := []
    outst := (t.laidOff.map (·.1)).foldl (fun l o =>
        l.filter (fun x => x.id < o.id) ++ { o with cond := .faulted .cancel 0 } :: l.filter (fun x => o.id < x.id))
      (t.outst.map fun o => if o.waits then { o with cond := .faulted .cancel 0 } else o)
    st := if t.st = .waiting then .running else t.st }
  match held with
  | some o => t.advanceFrom o.addr
  | none => t

/-- A CANCEL reaches a thread (R20, R119): it is held in a handler, while another trap entry waits and while a reservation
lasts; a waiting thread leaves its wait; a suspension that has not taken effect is taken back. The k.tval of the entry is 0 (DESIGN
CHOICE: R18, R19 and R119 give none; log 40). -/
def State.cancelThread (s : State) (r : ThreadRef) : State :=
  let t := s.thread r
  if t.st = .empty ∨ t.st = .stopped ∨ t.susp = some .cancelEnd then s
  else if t.ih then s.modThread r fun t => { t with hcx := true }
  else if t.resv.isSome then s.modThread r fun t => { t with cxWait := true }
  else match t.trap with
  | some p => if p.cause = .cancel then s else s.modThread r fun t => { t with hcx := true }
  | none =>
    if t.st = .waiting ∧ t.outst.any fun o => o.hold && !o.waits then s.atTile r.tile 1 .cancel r
    else
      let s := if t.susp = some .displace then s.modCore r.tile r.core fun c => { c with displacing := none } else s
      let s := s.modThread r fun t => { t.abandonWaits with susp := none }
      let s := s.modTile r.tile fun x => { x with accs := x.accs.filter fun a =>
        !(a.r == r && ((s.thread r).op? a.op).any Outst.isFault) }
      let pc := (s.thread r).pc
      s.raise r ⟨.cancel, 0, pc, pc, false⟩

def execCancel (s : State) : Out := .next (s.cancelThread s.cur)

/-- CANCEL_BUDGET_END: the thread issues nothing more and meets its cancellation end (R119). -/
def execCancelBudgetEnd (s : State) : Out :=
  let t := s.th
  .next (if t.cxh && (t.st == .running || t.st == .waiting) then s.beginSuspend s.cur .cancelEnd else s)

/-- WAIT_TIMEOUT (R158, R202, R340): a wait-parked timeout, or that of an open condition. A push whose fence still runs is
decided when the fence has ended; a wait that a save is about to abandon does not end (R394). -/
def execWaitTimeout (s : State) : Out :=
  let r := s.cur
  .next (if s.arg.m = 1 then s.waitParkExpire r.tile r.core s.arg.n
    else if (s.tile r.tile).frozen && (s.thread r).resv.isNone then s
    else match (s.thread r).op? s.arg.n with
    | none => s
    | some o =>
      match o.cond with
      | .push (_ :: _) _ _ _ => s.atTile r.tile 1 .waitTimeout r s.arg true
      | _ => s.timeOut r s.arg.n)

/-- BANK_ECHO: the bank answers once the thread's earlier accesses have performed there; its k.tbm bit is cleared. An echo of a fence
that has timed out or has been abandoned changes nothing (R158, R165). Operands: the bank n and the fence's number m. -/
def execBankEcho (s : State) : Out :=
  let r := s.cur
  let b := s.arg.n
  .next (if !((s.thread r).outst.any fun o => o.id == s.arg.m && o.cond.banks.contains b) then s
    else if (s.tile r.tile).unperformed (s.thread r).owner b then s.atTile r.tile 1 .bankEcho r s.arg
    else s.modThread r fun t => { t with
      tbm := t.tbm &&& ~~~((1 : Word) <<< b)
      outst := t.outst.map fun o => if o.id = s.arg.m then { o with cond := o.cond.echo b } else o })

/-- RESERVATION_WINDOW_EXCEEDED (R183). -/
def execReservationWindowExceeded (s : State) : Out := .next (s.windowExceeded s.cur)

/-- The instruction at the current thread's pc. -/
def State.instrAt (s : State) (r : ThreadRef) : Option Instr :=
  (s.codeWord r.tile (s.thread r).pc.toNat).bind fun w => (decodeWord w).toOption

/-- The wait limit of a stream instruction has passed: what was not ready then is noted (R155). -/
def State.pollStarve (s : State) (r : ThreadRef) : State × Bool :=
  let t := s.thread r
  match t.strmWait, s.instrAt r with
  | some n, some i =>
    if t.st != .running || !t.starved.isEmpty then (s, false)
    else match t.strmGate (regUse i) with
    | .wait limit who =>
      if limit ≤ s.now r.tile - n then (s.modThread r fun t => { t with starved := who.map (·.1) }, true) else (s, false)
    | _ => (s, false)
  | _, _ => (s, false)

/-- STREAM_WAIT_EXPIRY: in the thread's next slot after the wait limit has passed the instruction is skipped, whatever has come
since (R155). -/
def execStreamWaitExpiry (s : State) : Out :=
  let t := s.th
  .next (if t.starved.isEmpty then s
    else s.skipStream (t.starved.filterMap fun v => (t.binds.get? v.toNat).map fun b => (v, b)))

/-- NOT_AN_INSTRUCTION: the word at the pc is no instruction (R76, R77), or cannot be fetched (R390, log 12). -/
def execNotAnInstruction (s : State) : Out :=
  .next (match s.codeWord s.cur.tile s.th.pc.toNat with
    | some w => s.trap .illegal (zx w)
    | none => s.trap (s.codeFault s.cur.tile s.th.pc.toNat) s.th.pc)

/-- RUN_PAST_CODE_SEGMENT: sequential execution has reached the end of the code segment (R107). -/
def execRunPastCodeSegment (s : State) : Out := .next (s.trap .prot s.th.pc)

/-! ## Pick-up, stealing, displacement, migration -/

/-- A slot may pick up (R337). -/
def State.slotEmpty (s : State) (r : ThreadRef) : Bool := (s.thread r).vacant (s.now r.tile)

/-- PICK_UP (R124, R337). -/
def execPickUp (s : State) : Out := .next (if s.slotEmpty s.cur then s.pickUp s.cur else s)

/-- The entry a victim gives: the top of the highest level that has an entry with pin 0; a displaced one only when both
cores have a free frame (R338). -/
def Core.victimEntry (v thief : Core) : Option Entry :=
  let pick (q : Fin 4) : Option Entry :=
    (v.deque[q].reverse.map v.entryNow).find? fun e => !w1Pin e.w[1] && !w1Det e.w[1]
  match (pick 3).or ((pick 2).or ((pick 1).or (pick 0))) with
  | none => none
  | some e => if e.frame.isSome && (v.freeFrame.isNone || thief.freeFrame.isNone) then none else some e

/-- Moves a displaced frame to another core of the tile (R336, R338). -/
def State.moveFrame (s : State) (tile : Nat) (src dst : Fin 8) (f g : Nat) : State :=
  let l := s.launch tile
  let x := (s.core tile src).frames.getD f {}
  let bytes := (s.core tile src).lm.readBytes (frameOff l f) 1024
  let s := s.modCore tile src fun c => { c with frames := c.frames.erase f }
  s.modCore tile dst fun c => { c with lm := c.lm.writeBytes (frameOff l g) bytes, frames := c.frames.set g x }

/-- STEAL_REQUEST: one sibling is asked; its entry arrives 12 or 48 cycles after the request (R338). -/
def execStealRequest (s : State) : Out :=
  let tile := s.cur.tile
  let me := s.cur.core
  let c := s.core tile me
  let k := c.stealNext
  let v : Fin 8 := ⟨(me.val + k) % 8, Nat.mod_lt _ (by decide)⟩
  let s := s.modCore tile me fun c => { c with stealNext := if k = 7 then 1 else k + 1, stealLast := s.now tile }
  .next (match (s.core tile v).victimEntry c with
    | none => s
    | some e =>
      let s := s.modCore tile v fun x => x.removeEntry e
      match e.frame, c.freeFrame with
      | some f, some g =>
        let s := (s.moveFrame tile v me f g).modCore tile me fun c =>
          { c with stealBusy := true, stealing := some { e with frame := some g } }
        s.atTile tile 48 .stolenEntryArrival ⟨tile, me, 0⟩
      | _, _ =>
        let s := s.modCore tile me fun c => { c with stealBusy := true, stealing := some e }
        s.atTile tile 12 .stolenEntryArrival ⟨tile, me, 0⟩)

/-- STOLEN_ENTRY_ARRIVAL: the entry goes to the bottom of its level (R338). -/
def execStolenEntryArrival (s : State) : Out :=
  .next (s.modCore s.cur.tile s.cur.core fun c =>
    match c.stealing with
    | some e => { c.pushBottom e with stealing := none, stealBusy := false }
    | none => { c with stealBusy := false })

/-- A core asks for work: an Empty slot, an empty deque, no request outstanding, one request per 4 cycles (R338). -/
def State.maySteal (s : State) (tile : Nat) (k : Fin 8) : Bool :=
  let t := s.tile tile
  let c := t.cores[k]
  match t.launch with
  | none => false
  | some l =>
    !l.det && !c.stealBusy && c.entries == 0 && c.stealLast + 4 ≤ s.now tile &&
      (c.threads.toList.any fun x => x.vacant (s.now tile))

/-- Whether a thread may be a victim of displacement (R339). -/
def Thread.victim (t : Thread) (det : Bool) (q : Nat) : Bool :=
  (t.st == .running || t.st == .waiting) && t.mayDisplace det && (prioOf t.w1).val < q

/-- The victim of a displacement: the lowest priority, the most recently picked up among equals (R339). -/
def State.chooseVictim (s : State) (tile : Nat) (k : Fin 8) : Option (Fin 16) :=
  let l := s.launch tile
  let c := s.core tile k
  match c.entryList.head? with
  | none => none
  | some e =>
    let q := (prioOf (c.entryNow e).w[1]).val
    if c.displacing.isSome || c.freeFrame.isNone || (c.threads.toList.any fun t => t.vacant (s.now tile)) then none
    else
      (List.finRange 16).foldl (fun best h =>
        let t := c.threads[h]
        if !t.victim l.det q then best
        else match best with
        | none => some h
        | some b =>
          let u := c.threads[b]
          if (prioOf t.w1).val < (prioOf u.w1).val || ((prioOf t.w1).val == (prioOf u.w1).val && u.picked < t.picked)
          then some h else best) none

/-- DISPLACEMENT: at the victim's turn its waiting instructions are abandoned, to be issued again, and the thread suspends to
its frame (R339). -/
def execDisplacement (s : State) : Out :=
  let r := s.cur
  let t := s.th
  .next (if (s.core r.tile r.core).displacing ≠ some r.thr then s
    else if !((t.st == .running || t.st == .waiting) && t.mayDisplace (s.launch r.tile).det) then
      s.modCore r.tile r.core fun c => { c with displacing := none }
    else
      (s.layOff r).beginSuspend r .displace)

/-- A waiting instruction that was abandoned issues again, with its full timeout (R339, R394). -/
def State.reissue (s : State) (r : ThreadRef) (o : Outst) (access : Option Access) : State :=
  let tile := r.tile
  let op := (s.thread r).nextOp
  let (cond, s) : Cond × State := match o.cond with
    | .sample _ dst cell d tp =>
      let (ref, s) := s.takeRef tile
      let s := s.modCopy tile fun c => { c with samples := c.samples.set ref (.thread r.core r.thr op) }
      (.sample ref dst cell d tp, s.sendFlit tile { flit := s.mkFlit tile 0 dst ref (.sampleReq cell false) })
    | .bar d tp => (.bar d tp, if (s.copyUnit tile).bar.isSome then s else s.barrierStart tile)
    | c => (c, s)
  let reach := match access.map Access.place with
    | some (.lm core _) => s.portReach r core
    | _ => o.reach
  let s := s.modThread r fun t => { t with
    nextOp := op + 1, outst := t.outst ++ [{ o with id := op, cond := cond, start := s.now tile + reach }] }
  let s := match o.limit with
    | some w => s.atTile tile (if w = 0 then reach else w) .waitTimeout r { n := op } true
    | none => s
  let s := match access with
    | some a => (s.modThread r fun t => t.touch a.banks).sendAccess
        { a with r := r, owner := (s.thread r).owner, op := op, at_ := s.now tile + reach }
    | none => s
  match cond with
  | .bar _ _ => s.barrierRun tile 17
  | _ => s

/-- What was abandoned of a thread that has its slot again issues again, before the thread goes on (R339, R394). -/
def State.pollAgain (s : State) (r : ThreadRef) : State × Bool :=
  let t := s.thread r
  if t.laidOff.isEmpty || t.st == .empty || t.susp.isSome || s.now r.tile + 1 < t.notBefore || (s.tile r.tile).frozen then (s, false)
  else (t.laidOff.foldl (fun s x => s.reissue r x.1 x.2) (s.modThread r fun t => { t with laidOff := [] }), true)

/-- MIGRATION: once the thread's accesses have performed at their banks, as for a fence.tile, it moves into an Empty slot of the home core and its
access issues there; with no such slot it goes over the crossbar (R273). Operands: the home core (cur), the old core n and
pick-up m. -/
def execMigration (s : State) : Out :=
  let tile := s.cur.tile
  let home := s.cur.core
  let src : ThreadRef := ⟨tile, ⟨s.arg.n % 8, Nat.mod_lt _ (by decide)⟩, s.cur.thr⟩
  let t := s.thread src
  .next (if !(t.st == .waiting && t.outst.isEmpty && t.picked == s.arg.m) then s
    else if (s.tile tile).accs.any fun a => a.owner == t.owner && !a.banks.isEmpty then s.atTile tile 1 .migration s.cur s.arg
    else match (List.finRange 16).find? fun h => s.slotEmpty ⟨tile, home, h⟩ with
    | none => s.modThread src fun t => { t with st := .running, mig := (home, 0), noMig := true, tbm := 0 }
    | some h =>
      let dst : ThreadRef := ⟨tile, home, h⟩
      let s := s.modThread dst fun o => { t with
        st := .running, tbm := 0, mig := (home, 0), mseq := o.mseq, cseq := o.cseq
        nextOp := max t.nextOp o.nextOp, notBefore := s.now tile, picked := (s.core tile home).picks + 1 }
      let s := s.modCore tile home fun c => { c with picks := c.picks + 1 }
      s.modThread src Thread.clear)

/-- CORE_RESTART: Stopped threads of the core become Empty (R12). -/
def execCoreRestart (s : State) : Out :=
  let tile := s.cur.tile
  let core := s.cur.core
  .next ((List.finRange 16).foldl (fun s h =>
    let r : ThreadRef := ⟨tile, core, h⟩
    if (s.thread r).st = .stopped then s.emptySlot r else s) s)

end Sys2Proof.Machine
end

