-- ==== Sys2Proof/Machine/Poll.lean ====
section
/-!
DEFINITION. What the machine does of itself in a cycle, in order (log 1): the fabric brings its flits; the copy units and engines
act; the memory ports and the cell arrays of each tile perform the accesses and posts of the cycle, its phase 1 (spec/06 R170, R263);
the conditions of waiting instructions are tested, its phase 2; then cores, launches, partitions and links act.
-/
namespace Sys2Proof.Machine

/-- It waits for a watched word. -/
def Outst.watches (o : Outst) : Bool :=
  match o.cond with
  | .watch _ => true
  | _ => false

/-- Tests one open condition of an outstanding instruction; none: it goes on waiting. -/
def State.tryCond (s : State) (r : ThreadRef) (o : Outst) : Option State :=
  match o.cond with
  | .watch tp => s.tryWatch r o tp
  | .send dst x tp => s.trySend r o dst x tp
  | .recv f src d tp => s.tryRecv r o f src d tp
  | .cell _ _ _ _ => s.tryCell r o
  | .snap _ _ _ => s.tryCell r o
  | .count _ _ => s.tryCell r o
  | .xid k x d tp => s.tryXid r o k x d tp
  | .jid e j d tp => s.tryJid r o e j d tp
  | .fence _ _ _ _ => s.tryFence r o
  | .push [] w d tp => s.tryPush r o w d tp
  | .bind [] d a => some (s.tryBind r o d a)
  | .post v a => s.tryPost r o v a
  | _ => none

/-- Tests the conditions of a thread whose time has come; answers whether any was resolved. -/
def State.pollThread (s : State) (r : ThreadRef) : State × Bool :=
  ((s.thread r).outst.filter fun o => o.start ≤ s.now r.tile).foldl (fun (s, any) o =>
    match s.tryCond r o with
    | some s' => (s', true)
    | none => (s, any)) (s, false)

/-- A held CANCEL is raised once the reservation is over; a suspension whose thread has nothing outstanding is made when it is due,
a wait-parking when nothing but its wait is; one whose wait has ended is not made (R119, R127 to R130, R133, R340). -/
def State.pollSettle (s : State) (r : ThreadRef) : State × Bool :=
  let t := s.thread r
  if t.cxWait && t.resv.isNone then
    ((s.modThread r fun t => { t with cxWait := false }).atTile r.tile 0 .cancel r, true)
  else match t.susp with
  | none => (s, false)
  | some .waitPark =>
    if !t.outst.any Outst.watches then (s.modThread r Thread.unsuspend, true)
    else if t.outst.all Outst.watches && Suspend.waitPark.due (s.now r.tile) r.thr then (s.waitPark r, true)
    else (s, false)
  | some x =>
    if t.st == .suspending && t.outst.isEmpty && x.due (s.now r.tile) r.thr then
      let s' := s.suspend r x
      (s', (s'.thread r).st != .suspending || (s'.thread r).susp != some x)
    else (s, false)

/-- What a core starts of itself: messages that may cross, a steal request, a displacement (R32, R338, R339). -/
def State.pollCore (s : State) (tile : Nat) (c : Fin 8) : State × Bool :=
  let crossing := (List.finRange 8).filter fun k => s.mayCross tile c k
  let s1 := crossing.foldl (fun s k => s.atTile tile 0 .messageCrossing ⟨tile, c, 0⟩ { n := k.val }) s
  let frozen := (s.tile tile).frozen
  -- the slot of a displacement is Empty, and found nothing to pick up; one that has not begun when a save begins is given up (R394)
  let s1 := match (s1.core tile c).displacing with
    | some h =>
      let t := s1.thread ⟨tile, c, h⟩
      if t.vacant (s.now tile) || (frozen && t.susp != some .displace) then s1.modCore tile c fun x => { x with displacing := none }
      else s1
    | none => s1
  let steal := !frozen && s.maySteal tile c
  let s2 := if steal then s1.atTile tile 0 .stealRequest ⟨tile, c, 0⟩ else s1
  match if frozen then none else s2.chooseVictim tile c with
  | some h => (s2.modCore tile c fun x => { x with displacing := some h }, true)
  | none => (s2, !crossing.isEmpty || steal)

/-- Posts whose turn has come at the cell array (R190, R263). -/
def State.pollCells (s : State) (tile : Nat) : State × Bool :=
  let (s, moved) := s.movePosts tile
  let t := s.tile tile
  let cells := ((t.intake.map (·.cell)).filter fun k => t.cellReady (s.now tile) k).foldr
    (fun k acc => if acc.contains k then acc else k :: acc) []
  (cells.foldl (fun s k => s.atTile tile 0 .postPerform ⟨tile, 0, 0⟩ { n := k }) s, moved || !cells.isEmpty)

/-- Runs one poll after another on a state, keeping whether any did something. -/
def State.polls (s : State) (fs : List (State → State × Bool)) : State × Bool :=
  fs.foldl (fun (s, any) f => let (s', b) := f s; (s', any || b)) (s, false)

/-- Runs one poll after another until one did something. -/
def State.stages (s : State) : List (State → State × Bool) → State × Bool
  | [] => (s, false)
  | f :: rest =>
    match f s with
    | (s, true) => (s, true)
    | (s, false) => State.stages s rest

/-- Phase 1 of a tile: its memory ports and its cell array (R170, R263). -/
def State.pollPorts (s : State) (tile : Nat) : State × Bool :=
  s.polls [fun s => s.servePorts tile (s.portFuel tile), fun s => s.pollReplay tile, fun s => s.pollCells tile]

/-- Phase 2 of a tile: what its threads wait for (R155, R170). -/
def State.pollThreads (s : State) (tile : Nat) : State × Bool :=
  let all := tileThreads tile
  s.polls (all.map (fun r => fun s => s.pollThread r) ++ all.map (fun r => fun s => s.pollSettle r) ++
    all.map (fun r => fun s => s.pollStarve r) ++ all.map fun r => fun s => s.pollAgain r)

/-- The tile has nothing left to do for its retired launch (R260). -/
def Tile.spent (t : Tile) : Bool :=
  (t.launch.getD {}).retired && t.idle && t.intake.isEmpty && t.copy.posts.isEmpty && t.copy.late.isEmpty && t.cores.toList.all fun c => c.posts.isEmpty

/-- No tile of a tile's launch has anything left to do for it: the launch leaves its tiles (R334, R345; log 73). -/
def State.launchOver (s : State) (tile : Nat) : Bool :=
  let l := s.launch tile
  s.tiles.all fun t => match t.2.launch with
    | some k => !(k.recAddr == l.recAddr && k.part == l.part && k.ctx == l.ctx) || t.2.spent
    | none => true

/-- What a tile does of itself with its launch: it stops at an activation boundary, retires, becomes free, reports a hang
(R3, R242, R260, R334, R344). -/
def State.pollLaunch (s : State) (tile : Nat) : State × Bool :=
  let t := s.tile tile
  let limit := (s.part (s.launch tile).part).hangLimit
  if t.actOver || t.canRetire then (s.atTile tile 0 .activationRetire, true)
  else if t.spent && s.launchOver tile then (((s.flushLines tile).dropAgenda tile).modTile tile Tile.vacate, true)
  else if t.atBoundary then (s.modTile tile fun t => { t with frozen := true }, true)
  else if limit != 0 && limit ≤ t.watchdog then (s.atTile tile 0 .groupWatchdog, true)
  else (s, false)

/-- The tile's context has been torn down: whatever command it is given ends CANCELLED (R376). -/
def State.tornDown (s : State) (tile : Nat) : Bool :=
  let l := s.launch tile
  (s.ctx l.part l.ctx).state == 0x04

/-- The copy unit and the engines of a tile that runs a launch: what they write performs in phase 1 (R170, R182). -/
def State.pollEngines (s : State) (tile : Nat) : State × Bool :=
  if s.tornDown tile then
    (if (s.tile tile).hasCommand then (s.modTile tile Tile.cancelAll, true) else (s, false))
  else s.polls ([fun s => s.pollLate tile, fun s => s.pollPull tile, fun s => s.pollStalled tile, fun s => s.pollMx tile] ++
    (if (s.tile tile).frozen then [] else [fun s => s.pollStarts tile, fun s => s.pollEv tile]))

/-- The cores of a tile that runs a launch, and the launch. -/
def State.pollTile (s : State) (tile : Nat) : State × Bool :=
  s.polls ((List.finRange 8).map (fun c => fun s => s.pollCore tile c) ++ [fun s => s.pollLaunch tile])

/-- What a partition's sequencer does of itself: it starts jobs and launches, restores and saves contexts (R333, R334,
R344). -/
def State.pollPart (s : State) (p : Nat) : State × Bool :=
  let x := s.part p
  let jobs := x.startable.map fun j => (Instr.jobStart, { n := p, m := j.ctx, w := BitVec.ofNat 64 j.record : Args })
  let claims := (s.grantable p).map fun c => match c with
    | .start _ => (Instr.launchStart, { n := p : Args })
    | .restore c => (Instr.contextRestore, { n := p, m := c : Args })
  let saves := (x.ctxs.filter fun c => c.2.stopping && (c.2.state != 0x02 || s.ctxQuiet ⟨p, c.1⟩)).map fun c =>
    (Instr.contextSave, { n := p, m := c.1 : Args })
  match (jobs ++ claims ++ saves).head? with
  | some (i, a) => (s.atRef 0 i default a, true)
  | none => (s, false)

/-- What the module does of itself: logs take their reports, sequencers and links work. -/
def State.pollModule (s : State) : State × Bool :=
  s.polls ([fun s => if s.reports.isEmpty then (s, false) else (s.drainReports, true)] ++
    s.parts.map (fun p => fun s => s.pollPart p.1) ++ [State.pollLinks])

end Sys2Proof.Machine
end

