-- ==== Sys2Proof/Machine/Scalar.lean ====
section
/-!
DEFINITION. Integer arithmetic and comparisons: alu, alui, lui, mdv, cmp and cmpi (spec/04 R96 to R103).
-/
namespace Sys2Proof.Machine

/-! ## Shared operations -/

/-- A width-generic operation applied at the width of `wd`; a .w result is sign-extended (R97). -/
def atWidth (wd : Wd) (f : (w : Nat) → BitVec w → BitVec w → BitVec w) (x y : Word) : Word :=
  match wd with
  | .d => f 64 x y
  | .w => sx (f 32 (x.setWidth 32) (y.setWidth 32))

/-- The shift amount of a W-bit shift: the low log2 W bits of y (R97). -/
def shAmt (w : Nat) (y : BitVec w) : Nat := y.toNat % w

/-- Number of leading zeros of an x of width w (R96 clz). -/
def clzOf (w : Nat) (x : BitVec w) : BitVec w :=
  BitVec.ofNat w (if x.toNat = 0 then w else w - 1 - x.toNat.log2)

/-- Number of one bits (R96 popc). -/
def popcOf (w : Nat) (x : BitVec w) : BitVec w :=
  BitVec.ofNat w ((List.range w).foldl (fun n i => if x.getLsbD i then n + 1 else n) 0)

/-- alu of one slot: s[d] ← op(s[a], s[b]) at the width (R97). -/
def aluForm (i : Instr) (d a b : SReg) (wd : Wd) (f : (w : Nat) → BitVec w → BitVec w → BitVec w) (s : State) : Out :=
  .next (s.issue i false (onRegs fun t => t.setS d (atWidth wd f (t.getS a) (t.getS b))))

/-- alui of one slot: s[d] ← op(s[a]) (R98). -/
def aluiForm (i : Instr) (d a : SReg) (f : Word → Word) (s : State) : Out :=
  .next (s.issue i false (onRegs fun t => t.setS d (f (t.getS a))))

/-- Cycles of an mdv function (R100). -/
def mdvForm (i : Instr) (d a b : SReg) (wd : Wd) (la : BitVec 4) (latD latW : Nat)
    (f : (w : Nat) → BitVec w → BitVec w → BitVec w) (s : State) : Out :=
  .next (s.issue i true fun s => .next (s.deferRes la [.s d] (match wd with
      | .d => latD
      | .w => latW)
    { s := [(d, atWidth wd f (s.th.getS a) (s.th.getS b))] }))

/-- mulh, mulhu: bits [2W-1:W] of the exact product (R101). -/
def mulhOf (signed : Bool) (w : Nat) (x y : BitVec w) : BitVec w :=
  if signed then ((x.signExtend (2 * w) * y.signExtend (2 * w)).extractLsb' w w)
  else ((x.setWidth (2 * w) * y.setWidth (2 * w)).extractLsb' w w)

/-- div, divu (R101). -/
def divOf (signed : Bool) (w : Nat) (x y : BitVec w) : BitVec w :=
  if y = 0 then BitVec.allOnes w
  else if signed then BitVec.ofInt w (x.toInt.tdiv y.toInt) else BitVec.ofNat w (x.toNat / y.toNat)

/-- rem, remu (R101). -/
def remOf (signed : Bool) (w : Nat) (x y : BitVec w) : BitVec w :=
  if y = 0 then x
  else if signed then BitVec.ofInt w (x.toInt.tmod y.toInt) else BitVec.ofNat w (x.toNat % y.toNat)

/-- The comparisons of cmp and cmpi (R102, R103). -/
inductive Rel where
  | eq
  | ne
  | lt
  | ge
  | ltu
  | geu
  deriving DecidableEq, Repr

/-- A comparison of two W-bit operands. -/
def relHolds (r : Rel) {w : Nat} (x y : BitVec w) : Bool :=
  match r with
  | .eq => x == y
  | .ne => x != y
  | .lt => x.slt y
  | .ge => !x.slt y
  | .ltu => x.ult y
  | .geu => !x.ult y

/-- A comparison at the width of `wd` (R102). -/
def relAt (wd : Wd) (r : Rel) (x y : Word) : Bool :=
  match wd with
  | .d => relHolds r x y
  | .w => relHolds r (x.setWidth 32) (y.setWidth 32)

/-- cmp: SetPred(d, x rel y) (R102). -/
def cmpForm (i : Instr) (d : PReg) (a b : SReg) (wd : Wd) (r : Rel) (s : State) : Out :=
  .next (s.issue i false (onRegs fun t => t.setP d (relAt wd r (t.getS a) (t.getS b))))

/-- The predicate functions of cmp (R102). -/
def predForm (i : Instr) (d a b : PReg) (f : Bool → Bool → Bool) (s : State) : Out :=
  .next (s.issue i false (onRegs fun t => t.setP d (f (t.getP a) (t.getP b))))

/-- cmpi: SetPred(d, s[a] rel SX(imm13, 64)) (R103). -/
def cmpiForm (i : Instr) (d : PReg) (a : SReg) (imm : BitVec 13) (r : Rel) (s : State) : Out :=
  .next (s.issue i false (onRegs fun t => t.setP d (relHolds r (t.getS a) (sx imm))))

/-! ## alu (R96, R97) -/

def execAluAdd (d a b : SReg) (wd : Wd) (s : State) : Out :=
  aluForm (.aluAdd d a b wd) d a b wd (fun _ x y => x + y) s
def execAluSub (d a b : SReg) (wd : Wd) (s : State) : Out :=
  aluForm (.aluSub d a b wd) d a b wd (fun _ x y => x - y) s
def execAluAnd (d a b : SReg) (wd : Wd) (s : State) : Out :=
  aluForm (.aluAnd d a b wd) d a b wd (fun _ x y => x &&& y) s
def execAluOr (d a b : SReg) (wd : Wd) (s : State) : Out :=
  aluForm (.aluOr d a b wd) d a b wd (fun _ x y => x ||| y) s
def execAluXor (d a b : SReg) (wd : Wd) (s : State) : Out :=
  aluForm (.aluXor d a b wd) d a b wd (fun _ x y => x ^^^ y) s
def execAluAndn (d a b : SReg) (wd : Wd) (s : State) : Out :=
  aluForm (.aluAndn d a b wd) d a b wd (fun _ x y => x &&& ~~~y) s
def execAluShl (d a b : SReg) (wd : Wd) (s : State) : Out :=
  aluForm (.aluShl d a b wd) d a b wd (fun w x y => x <<< shAmt w y) s
def execAluShr (d a b : SReg) (wd : Wd) (s : State) : Out :=
  aluForm (.aluShr d a b wd) d a b wd (fun w x y => x >>> shAmt w y) s
def execAluSar (d a b : SReg) (wd : Wd) (s : State) : Out :=
  aluForm (.aluSar d a b wd) d a b wd (fun w x y => x.sshiftRight (shAmt w y)) s
def execAluMul (d a b : SReg) (wd : Wd) (s : State) : Out :=
  aluForm (.aluMul d a b wd) d a b wd (fun _ x y => x * y) s
def execAluMin (d a b : SReg) (wd : Wd) (s : State) : Out :=
  aluForm (.aluMin d a b wd) d a b wd (fun _ x y => if x.slt y then x else y) s
def execAluMax (d a b : SReg) (wd : Wd) (s : State) : Out :=
  aluForm (.aluMax d a b wd) d a b wd (fun _ x y => if x.slt y then y else x) s
def execAluMinu (d a b : SReg) (wd : Wd) (s : State) : Out :=
  aluForm (.aluMinu d a b wd) d a b wd (fun _ x y => if x.ult y then x else y) s
def execAluMaxu (d a b : SReg) (wd : Wd) (s : State) : Out :=
  aluForm (.aluMaxu d a b wd) d a b wd (fun _ x y => if x.ult y then y else x) s
def execAluAdds (d a b : SReg) (wd : Wd) (s : State) : Out :=
  aluForm (.aluAdds d a b wd) d a b wd (fun w x y => satS w (x.toInt + y.toInt)) s
def execAluSubs (d a b : SReg) (wd : Wd) (s : State) : Out :=
  aluForm (.aluSubs d a b wd) d a b wd (fun w x y => satS w (x.toInt - y.toInt)) s
def execAluClz (d a : SReg) (wd : Wd) (s : State) : Out :=
  aluForm (.aluClz d a wd) d a a wd (fun w x _ => clzOf w x) s
def execAluPopc (d a : SReg) (wd : Wd) (s : State) : Out :=
  aluForm (.aluPopc d a wd) d a a wd (fun w x _ => popcOf w x) s

/-! ## alui and lui (R98, R99) -/

def execAluiAdd (d a : SReg) (imm : BitVec 13) (s : State) : Out :=
  aluiForm (.aluiAdd d a imm) d a (fun x => x + sx imm) s
def execAluiAnd (d a : SReg) (imm : BitVec 13) (s : State) : Out :=
  aluiForm (.aluiAnd d a imm) d a (fun x => x &&& sx imm) s
def execAluiOr (d a : SReg) (imm : BitVec 13) (s : State) : Out :=
  aluiForm (.aluiOr d a imm) d a (fun x => x ||| sx imm) s
def execAluiXor (d a : SReg) (imm : BitVec 13) (s : State) : Out :=
  aluiForm (.aluiXor d a imm) d a (fun x => x ^^^ sx imm) s
def execAluiShl (d a : SReg) (imm : BitVec 6) (s : State) : Out :=
  aluiForm (.aluiShl d a imm) d a (fun x => x <<< imm.toNat) s
def execAluiShr (d a : SReg) (imm : BitVec 6) (s : State) : Out :=
  aluiForm (.aluiShr d a imm) d a (fun x => x >>> imm.toNat) s
def execAluiSar (d a : SReg) (imm : BitVec 6) (s : State) : Out :=
  aluiForm (.aluiSar d a imm) d a (fun x => x.sshiftRight imm.toNat) s
def execLui (d : SReg) (imm : BitVec 21) (s : State) : Out :=
  .next (s.issue (.lui d imm) false (onRegs fun t => t.setS d (imm ++ (0 : BitVec 43))))

/-! ## mdv (R100, R101) -/

def execMdvMulh (d a b : SReg) (wd : Wd) (la : BitVec 4) (s : State) : Out :=
  mdvForm (.mdvMulh d a b wd la) d a b wd la 12 8 (mulhOf true) s
def execMdvMulhu (d a b : SReg) (wd : Wd) (la : BitVec 4) (s : State) : Out :=
  mdvForm (.mdvMulhu d a b wd la) d a b wd la 12 8 (mulhOf false) s
def execMdvDiv (d a b : SReg) (wd : Wd) (la : BitVec 4) (s : State) : Out :=
  mdvForm (.mdvDiv d a b wd la) d a b wd la 70 38 (divOf true) s
def execMdvDivu (d a b : SReg) (wd : Wd) (la : BitVec 4) (s : State) : Out :=
  mdvForm (.mdvDivu d a b wd la) d a b wd la 70 38 (divOf false) s
def execMdvRem (d a b : SReg) (wd : Wd) (la : BitVec 4) (s : State) : Out :=
  mdvForm (.mdvRem d a b wd la) d a b wd la 70 38 (remOf true) s
def execMdvRemu (d a b : SReg) (wd : Wd) (la : BitVec 4) (s : State) : Out :=
  mdvForm (.mdvRemu d a b wd la) d a b wd la 70 38 (remOf false) s

/-! ## cmp and cmpi (R102, R103) -/

def execCmpEq (d : PReg) (a b : SReg) (wd : Wd) (s : State) : Out :=
  cmpForm (.cmpEq d a b wd) d a b wd .eq s
def execCmpNe (d : PReg) (a b : SReg) (wd : Wd) (s : State) : Out :=
  cmpForm (.cmpNe d a b wd) d a b wd .ne s
def execCmpLt (d : PReg) (a b : SReg) (wd : Wd) (s : State) : Out :=
  cmpForm (.cmpLt d a b wd) d a b wd .lt s
def execCmpGe (d : PReg) (a b : SReg) (wd : Wd) (s : State) : Out :=
  cmpForm (.cmpGe d a b wd) d a b wd .ge s
def execCmpLtu (d : PReg) (a b : SReg) (wd : Wd) (s : State) : Out :=
  cmpForm (.cmpLtu d a b wd) d a b wd .ltu s
def execCmpGeu (d : PReg) (a b : SReg) (wd : Wd) (s : State) : Out :=
  cmpForm (.cmpGeu d a b wd) d a b wd .geu s
def execCmpPand (d a b : PReg) (s : State) : Out :=
  predForm (.cmpPand d a b) d a b (fun x y => x && y) s
def execCmpPor (d a b : PReg) (s : State) : Out :=
  predForm (.cmpPor d a b) d a b (fun x y => x || y) s
def execCmpPxor (d a b : PReg) (s : State) : Out :=
  predForm (.cmpPxor d a b) d a b (fun x y => xor x y) s
def execCmpPandn (d a b : PReg) (s : State) : Out :=
  predForm (.cmpPandn d a b) d a b (fun x y => x && !y) s
def execCmpiEq (d : PReg) (a : SReg) (imm : BitVec 13) (s : State) : Out :=
  cmpiForm (.cmpiEq d a imm) d a imm .eq s
def execCmpiNe (d : PReg) (a : SReg) (imm : BitVec 13) (s : State) : Out :=
  cmpiForm (.cmpiNe d a imm) d a imm .ne s
def execCmpiLt (d : PReg) (a : SReg) (imm : BitVec 13) (s : State) : Out :=
  cmpiForm (.cmpiLt d a imm) d a imm .lt s
def execCmpiGe (d : PReg) (a : SReg) (imm : BitVec 13) (s : State) : Out :=
  cmpiForm (.cmpiGe d a imm) d a imm .ge s
def execCmpiLtu (d : PReg) (a : SReg) (imm : BitVec 13) (s : State) : Out :=
  cmpiForm (.cmpiLtu d a imm) d a imm .ltu s
def execCmpiGeu (d : PReg) (a : SReg) (imm : BitVec 13) (s : State) : Out :=
  cmpiForm (.cmpiGeu d a imm) d a imm .geu s

end Sys2Proof.Machine
end

