-- ==== Sys2Proof/Machine/Schedule.lean ====
section
/-!
DEFINITION. What the machine does next (log 1): an input of the outside world, a due event, an issue slot of the barrel (spec/01
R11), the tests of phase 2, a late event, or the passing of one reference tick (R7, R435).
-/
namespace Sys2Proof.Machine

/-! ## The agenda -/

/-- The time of a clock. -/
def State.timeOf (s : State) : Clk → Nat
  | .deck d => s.decks[d].tcyc
  | .ref => s.clock

/-- One reference tick of a deck: its tile clock runs at (16 - thr)/16 of its rate (R435). -/
def Deck.tick (d : Deck) : Deck :=
  let a := d.acc + (16 - d.thr)
  if 16 ≤ a then { d with tcyc := d.tcyc + 1, acc := a - 16 } else { d with acc := a }

/-- The reference tick is the last of the deck's tile cycle: of a throttled deck a cycle lasts several (R435). -/
def Deck.ends (d : Deck) : Bool := d.tick.tcyc != d.tcyc

/-- The reference tick is the last of the cycle of a clock. -/
def State.ending (s : State) : Clk → Bool
  | .deck d => s.decks[d].ends
  | .ref => true

/-- Takes the first due entry of the agenda; a late one when its cycle ends. -/
def State.takeDue (s : State) (late : Bool) : Option (Agenda × State) :=
  match takeFirst (fun e => e.late == late && e.due ≤ s.timeOf e.clk && (!late || s.ending e.clk)) s.agenda with
  | some (e, rest) => some (e, { s with agenda := rest })
  | none => none

/-! ## Issue slots (R11, R12, R15, R17) -/

/-- The instruction that a running thread issues in its slot, or the step that takes its place. -/
def State.runningSlot (s : State) (r : ThreadRef) : Option Instr :=
  let t := s.thread r
  let now := s.now r.tile
  if now < t.notBefore || (t.busy && (t.look == 0 || t.held)) || !t.laidOff.isEmpty then none
  else if (t.resv.map (·.window)) == some 0 then some .reservationWindowExceeded
  else if (s.launch r.tile).csize ≤ t.pc.toNat then some .runPastCodeSegment
  else match s.instrAt r with
  | none => some .notAnInstruction
  | some i =>
    some (if t.starved.isEmpty then i else .streamWaitExpiry)

/-- What a slot does: a tile whose save has begun lets only holders of reservations issue (R394); an Empty slot
picks up, a victim of displacement issues nothing, a running thread issues. -/
def State.slotInstr (s : State) (r : ThreadRef) : Option Instr :=
  let t := s.thread r
  let c := s.core r.tile r.core
  if (s.tile r.tile).launch.isNone || ((s.tile r.tile).frozen && t.resv.isNone) then none
  else if c.displacing = some r.thr && (t.st == .running || t.st == .waiting) && t.susp.isNone then some .displacement
  else match t.st with
  | .empty => if t.vacant (s.now r.tile) && (c.nextEntry (s.launch r.tile).det).isSome then some .pickUp else none
  | .running => s.runningSlot r
  | _ => none

/-- A slot in which no step is taken: a task.park whose pending set is empty arms its word (R128). -/
def State.slotRest (s : State) (r : ThreadRef) : State :=
  match (s.thread r).susp with
  | some (.park w) => if (s.thread r).outst.isEmpty then s.modThread r fun t => t.arm w else s
  | _ => s

/-! ## The clocks (R7, R10, R435) -/

/-- The slots of a tile cycle: on each core the thread n mod 16 (R11). -/
def State.tileSlots (s : State) (tile : Nat) : List ThreadRef :=
  let h : Fin 16 := ⟨s.now tile % 16, Nat.mod_lt _ (by decide)⟩
  (List.finRange 8).map fun c => ⟨tile, c, h⟩

/-- Some flit is on its way, so that ages must rise (R350). -/
def State.flying (s : State) : Bool :=
  !s.hops.isEmpty || !s.gw.wait.isEmpty || !s.gw.out.isEmpty || !s.gw.arrived.isEmpty || !s.gw.wire.isEmpty ||
    (s.gw.links.any fun l => !l.2.egress.isEmpty) || s.tiles.any fun t => !t.2.copy.inj.isEmpty

/-- One reference tick passes: routers are free again; the tiles of the decks whose clock ticked get their slots, and their
watchdogs count (R242); ages rise at multiples of 64 ticks (R350). -/
def State.tick (s : State) : State :=
  let s' := { s with clock := s.clock + 1, routers := [], decks := Vector.ofFn fun d : Fin 8 => s.decks[d].tick }
  let ran := (s.tiles.filter fun t => t.2.launch.isSome && s'.now t.1 != s.now t.1).map (·.1)
  let s' := { s' with
    slots := ran.flatMap s'.tileSlots
    tiles := s.tiles.map fun t => if ran.contains t.1 then (t.1, t.2.watch) else t }
  if s'.clock % 64 = 0 && s.flying then s'.atRef 0 .flitAgeTick else s'

/-! ## The next step -/

/-- A poll of every tile that runs a launch. -/
def State.pollTiles (s : State) (f : State → Nat → State × Bool) : State × Bool :=
  s.polls ((s.tiles.filter fun t => t.2.launch.isSome).map fun t => fun s => f s t.1)

/-- A poll of every tile that runs a launch and whose tile cycle ends with this tick: all that comes in the cycle has come. -/
def State.pollEnding (s : State) (f : State → Nat → State × Bool) : State × Bool :=
  s.pollTiles fun s tile => if s.decks[deckOf tile].ends then f s tile else (s, false)

/-- What the machine does of itself, stage by stage: a stage begins when those before it have nothing to do in the cycle (log 1). -/
def State.pollAll (s : State) : State × Bool :=
  s.stages [State.pollFabric, fun s => s.pollTiles State.pollEngines, fun s => s.pollEnding State.pollPorts,
    fun s => s.pollEnding State.pollThreads, fun s => s.pollTiles State.pollTile, State.pollModule]

/-- The step that comes next: a step with its state, or a state that has changed without one. -/
inductive Next where
  | run (i : Instr) (s : State)
  | idle (s : State)

/-- What the machine does next. -/
def State.upcoming (s : State) : Next :=
  match s.inputs with
  | (i, cur, arg) :: rest => .run i { s with inputs := rest, cur := cur, arg := arg }
  | [] =>
    match s.takeDue false with
    | some (e, s) => .run e.i { s with cur := e.cur, arg := e.arg }
    | none =>
      match s.slots with
      | r :: rest =>
        let s := { s with slots := rest, cur := r, arg := {} }
        match s.slotInstr r with
        | some i => .run i s
        | none => .idle (s.slotRest r)
      | [] =>
        match s.pollAll with
        | (s, true) => .idle s
        | (s, false) =>
          match s.takeDue true with
          | some (e, s) => .run e.i { s with cur := e.cur, arg := e.arg }
          | none => .idle s.tick

/-! ## Placing an instruction where the next step fetches (log 2) -/

/-- The code address that `placeCode` uses: page 16 of the partition's space. -/
def fetchBase : Word := 0x10_0000

/-- The state in which the next step takes a word: an S-word stands in the line cache at the pc of a running thread whose
slot is due, in a launch of one tile; a T-word is the command that starts next. -/
def State.placeWord (s : State) (nbits w : Nat) : State :=
  let tile := 0
  let r : ThreadRef := ⟨tile, 0, 0⟩
  let home := homeCore (lineIx fetchBase)
  let line : Line := { tag := lineIx fetchBase, data := BitVec.ofNat 512 (w % 2 ^ 32), wr := false, pl := 0 }
  let s := { s with inputs := [], agenda := [], slots := [r], cur := r, arg := {} }
  let s := s.modTile tile fun t => { t with launch := some { code := fetchBase, csize := 64 } }
  let s := s.modCore tile home fun c => c.linePut line
  let s := s.modThread r fun t => { t with st := .running, pc := 0, notBefore := 0, outst := [], trap := none, susp := none }
  if nbits = 256 then
    let x : V256 := BitVec.ofNat 256 w
    let s := (s.enqueue r 0 x).1
    match decodeTWord x with
    | .error _ => s
    | .ok i =>
      match wordEngine x with
      | 1 =>
        let k := wordChan x
        let q := ((s.core tile 0).copyq.head?).getD ⟨x, 0, 0, 0, 0, 0⟩
        let s := s.modCore tile 0 fun c => { c with copyq := [] }
        (s.modChan tile k fun c => { c with run := some { q := q } }).atTile tile 0 i r { n := k }
      | 2 => s.atTile tile 0 i r
      | _ => (s.modTile tile fun t => { t with ev := { t.ev with active := true } }).atTile tile 0 i r
  else s

end Sys2Proof.Machine
end

