-- ==== Sys2Proof/Machine/Vector.lean ====
section
/-!
DEFINITION. Vector arithmetic: valu, vflt, vcvt without tload, vred and vmov (spec/05 R137, R142 to R154).
-/
namespace Sys2Proof.Machine

/-! ## Shared operations -/

/-- A vector instruction of one slot that writes v[d] (R137). -/
def vecForm (i : Instr) (d : VReg) (f : Thread → V256) (s : State) : Out :=
  .next (s.issue i false (onRegs fun t => t.setV d (f t)))

/-- valu: v[d] lane i ← op(v[a] lane i, v[b] lane i) at width W (R143). -/
def valuForm (i : Instr) (d a b : VReg) (lw : LaneW) (f : (w : Nat) → BitVec w → BitVec w → BitVec w) (s : State) : Out :=
  vecForm i d (fun t => mapLanes (laneSize lw) fun k =>
    f (laneSize lw) (lane (laneSize lw) (t.getV a) k) (lane (laneSize lw) (t.getV b) k)) s

/-- x < y by the type's sign. -/
def ltBy (sg : Sgn) {w : Nat} (x y : BitVec w) : Bool :=
  match sg with
  | .i => x.slt y
  | .n => x.ult y

/-- A lane as an integer by the type's sign. -/
def intBy (sg : Sgn) {w : Nat} (x : BitVec w) : Int :=
  match sg with
  | .i => x.toInt
  | .n => x.toNat

/-- Saturation to the range of the type (R36). -/
def satBy (sg : Sgn) (w : Nat) (v : Int) : BitVec w :=
  match sg with
  | .i => satS w v
  | .n => satU w v

/-- All ones or zero. -/
def maskOf (w : Nat) (b : Bool) : BitVec w := if b then BitVec.allOnes w else 0

/-- mulh: bits [2W-1:W] of the exact product (R142). -/
def vmulhOf (sg : Sgn) (w : Nat) (x y : BitVec w) : BitVec w :=
  (BitVec.ofInt (2 * w) (intBy sg x * intBy sg y)).extractLsb' w w

/-- shr: arithmetic for type i, logical for type n (R142). -/
def vshrOf (sg : Sgn) (w : Nat) (x y : BitVec w) : BitVec w :=
  match sg with
  | .i => x.sshiftRight (y.toNat % w)
  | .n => x >>> (y.toNat % w)

/-- Lane i of the FP32 view as a pattern. -/
def f32Lane (v : V256) (i : Nat) : Nat := (lane 32 v i).toNat

/-- Eight 32-bit lane results and the flags of all lanes (R137). -/
def fpLanes (f : Nat → Nat × BitVec 5) : V256 × BitVec 5 :=
  let rs := (List.range 8).map f
  (ofLanes 32 (rs.map fun r => BitVec.ofNat 32 r.1), rs.foldl (fun fl r => fl ||| r.2) 0)

/-- A floating-point instruction of one slot: a vector result and flags (R137, R147). -/
def fpForm (i : Instr) (d : VReg) (f : Thread → V256 × BitVec 5) (s : State) : Out :=
  .next (s.issue i false (onRegs fun t => (t.setV d (f t).1).addFlags (f t).2))

/-- vflt of one slot with two operands. -/
def vfltForm (i : Instr) (d a b : VReg) (rm : RoundSel) (f : RM → Nat → Nat → Nat × BitVec 5) (s : State) : Out :=
  fpForm i d (fun t => fpLanes fun k => f (rmOf rm t.frm) (f32Lane (t.getV a) k) (f32Lane (t.getV b) k)) s

/-- fma and fnma (R145). -/
def vfmaForm (i : Instr) (sub : Bool) (d a b : VReg) (rm : RoundSel) (s : State) : Out :=
  fpForm i d (fun t => fpLanes fun k =>
    ffma sub (rmOf rm t.frm) (f32Lane (t.getV a) k) (f32Lane (t.getV b) k) (f32Lane (t.getV d) k)) s

/-- div and sqrt: the result and the flags arrive 36 cycles after issue (R147). -/
def vfltLong (i : Instr) (d : VReg) (la : BitVec 4) (f : Thread → V256 × BitVec 5) (s : State) : Out :=
  .next (s.issue i true fun s =>
    .next (s.deferRes la [.v d] 36 { v := [(d, (f s.th).1)], flags := (f s.th).2 }))

/-- A floating-point comparison into lane masks (R146). -/
def vfcmpForm (i : Instr) (d a b : VReg) (c : FCmp) (s : State) : Out :=
  fpForm i d (fun t => fpLanes fun k =>
    let r := fcmp c (f32Lane (t.getV a) k) (f32Lane (t.getV b) k)
    (if r.1 then 0xFFFF_FFFF else 0, r.2)) s

/-- A conversion of 32-bit lanes (R151). -/
def vcvtForm (i : Instr) (d a : VReg) (f : Thread → Nat → Nat × BitVec 5) (s : State) : Out :=
  fpForm i d (fun t => fpLanes fun k => f t (f32Lane (t.getV a) k)) s

/-- pkh and pkb: sixteen 16-bit lanes from two registers of FP32 lanes (R150). -/
def vpackForm (i : Instr) (d a b : VReg) (rm : RoundSel) (fmt : FFmt) (s : State) : Out :=
  fpForm i d (fun t =>
    let rs := (List.range 16).map fun k =>
      fromF32 fmt (rmOf rm t.frm) (f32Lane (t.getV (if k < 8 then a else b)) (k % 8))
    (ofLanes 16 (rs.map fun r => BitVec.ofNat 16 r.1), rs.foldl (fun fl r => fl ||| r.2) 0)) s

/-- uplh to uphb: eight 16-bit lanes widened (R150). -/
def vunpackForm (i : Instr) (d a : VReg) (hi : Bool) (fmt : FFmt) (s : State) : Out :=
  fpForm i d (fun t => fpLanes fun k => toF32 fmt (lane 16 (t.getV a) (k + if hi then 8 else 0)).toNat) s

/-- The conversion of an integer to FP32 (R150). -/
def intToF32 (rm : RM) (v : Int) : Nat × BitVec 5 := roundInt f32F rm v 0 false

/-- A table of the current core, with its number of entries (R46). -/
def State.table (s : State) (t : TblSel) : KMap (BitVec 19) × Nat :=
  match t with
  | .t8 => ((s.core s.cur.tile s.cur.core).t8, 256)
  | .t4 => ((s.core s.cur.tile s.cur.core).t4, 16)

/-- enc8 and enc4 (R48, R151). -/
def vencForm (i : Instr) (d a : VReg) (t : TblSel) (rm : RoundSel) (s : State) : Out :=
  .next (s.issue i false fun s =>
    let tab := s.table t
    onRegs (fun h =>
      let r := fpLanes fun k => encodeTab tab.1 tab.2 (rmOf rm h.frm) (f32Lane (h.getV a) k)
      (h.setV d r.1).addFlags r.2) s)

/-- A tree reduction of the eight FP32 lanes (R149). -/
def treeF (op : Nat → Nat → Nat × BitVec 5) (v : V256) : Nat × BitVec 5 :=
  let n (x y : Nat × BitVec 5) : Nat × BitVec 5 :=
    let r := op x.1 y.1
    (r.1, x.2 ||| y.2 ||| r.2)
  let l (k : Nat) : Nat × BitVec 5 := (f32Lane v k, 0)
  n (n (n (l 0) (l 1)) (n (l 2) (l 3))) (n (n (l 4) (l 5)) (n (l 6) (l 7)))

/-- A reduction by the fixed tree into s[d] (R148, R149). -/
def vredTree (i : Instr) (d : SReg) (a : VReg) (op : Thread → Nat → Nat → Nat × BitVec 5) (s : State) : Out :=
  .next (s.issue i false (onRegs fun t =>
    let r := treeF (op t) (t.getV a)
    (t.setS d (BitVec.ofNat 64 r.1)).addFlags r.2))

/-- A lane extended to 64 bits by the type's sign. -/
def extBy (sg : Sgn) {w : Nat} (x : BitVec w) : Word :=
  match sg with
  | .i => sx x
  | .n => zx x

/-- The lanes of a vector, each extended by the sign to 64 bits. -/
def lanesExt (sg : Sgn) (lw : LaneW) (v : V256) : List Word :=
  (List.range (256 / laneSize lw)).map fun k => extBy sg (lane (laneSize lw) v k)

/-- An integer reduction into s[d] (R148). -/
def vredForm (i : Instr) (d : SReg) (f : Thread → Word) (s : State) : Out :=
  .next (s.issue i false (onRegs fun t => t.setS d (f t)))

/-- The best of the lanes under a strict preference. -/
def pickLane (better : Word → Word → Bool) : List Word → Word
  | [] => 0
  | x :: xs => xs.foldl (fun m y => if better y m then y else m) x

/-- Whether every lane of width W is nonzero (R153 all). -/
def allLanes (lw : LaneW) (v : V256) : Bool :=
  (List.range (256 / laneSize lw)).all fun k => lane (laneSize lw) v k != 0

/-! ## valu (R142, R143) -/

def execValuAdd (d a b : VReg) (sg : Sgn) (lw : LaneW) (s : State) : Out :=
  valuForm (.valuAdd d a b sg lw) d a b lw (fun _ x y => x + y) s
def execValuSub (d a b : VReg) (sg : Sgn) (lw : LaneW) (s : State) : Out :=
  valuForm (.valuSub d a b sg lw) d a b lw (fun _ x y => x - y) s
def execValuAdds (d a b : VReg) (sg : Sgn) (lw : LaneW) (s : State) : Out :=
  valuForm (.valuAdds d a b sg lw) d a b lw (fun w x y => satBy sg w (intBy sg x + intBy sg y)) s
def execValuSubs (d a b : VReg) (sg : Sgn) (lw : LaneW) (s : State) : Out :=
  valuForm (.valuSubs d a b sg lw) d a b lw (fun w x y => satBy sg w (intBy sg x - intBy sg y)) s
def execValuMul (d a b : VReg) (sg : Sgn) (lw : LaneW) (s : State) : Out :=
  valuForm (.valuMul d a b sg lw) d a b lw (fun _ x y => x * y) s
def execValuMulh (d a b : VReg) (sg : Sgn) (lw : LaneW) (s : State) : Out :=
  valuForm (.valuMulh d a b sg lw) d a b lw (vmulhOf sg) s
def execValuMin (d a b : VReg) (sg : Sgn) (lw : LaneW) (s : State) : Out :=
  valuForm (.valuMin d a b sg lw) d a b lw (fun _ x y => if ltBy sg y x then y else x) s
def execValuMax (d a b : VReg) (sg : Sgn) (lw : LaneW) (s : State) : Out :=
  valuForm (.valuMax d a b sg lw) d a b lw (fun _ x y => if ltBy sg x y then y else x) s
def execValuAnd (d a b : VReg) (sg : Sgn) (lw : LaneW) (s : State) : Out :=
  valuForm (.valuAnd d a b sg lw) d a b lw (fun _ x y => x &&& y) s
def execValuOr (d a b : VReg) (sg : Sgn) (lw : LaneW) (s : State) : Out :=
  valuForm (.valuOr d a b sg lw) d a b lw (fun _ x y => x ||| y) s
def execValuXor (d a b : VReg) (sg : Sgn) (lw : LaneW) (s : State) : Out :=
  valuForm (.valuXor d a b sg lw) d a b lw (fun _ x y => x ^^^ y) s
def execValuShl (d a b : VReg) (sg : Sgn) (lw : LaneW) (s : State) : Out :=
  valuForm (.valuShl d a b sg lw) d a b lw (fun w x y => x <<< (y.toNat % w)) s
def execValuShr (d a b : VReg) (sg : Sgn) (lw : LaneW) (s : State) : Out :=
  valuForm (.valuShr d a b sg lw) d a b lw (vshrOf sg) s
def execValuCeq (d a b : VReg) (sg : Sgn) (lw : LaneW) (s : State) : Out :=
  valuForm (.valuCeq d a b sg lw) d a b lw (fun w x y => maskOf w (x == y)) s
def execValuClt (d a b : VReg) (sg : Sgn) (lw : LaneW) (s : State) : Out :=
  valuForm (.valuClt d a b sg lw) d a b lw (fun w x y => maskOf w (ltBy sg x y)) s

/-! ## vflt (R144 to R147) -/

def execVfltAdd (d a b : VReg) (rm : RoundSel) (s : State) : Out :=
  vfltForm (.vfltAdd d a b rm) d a b rm fadd s
def execVfltSub (d a b : VReg) (rm : RoundSel) (s : State) : Out :=
  vfltForm (.vfltSub d a b rm) d a b rm fsub s
def execVfltMul (d a b : VReg) (rm : RoundSel) (s : State) : Out :=
  vfltForm (.vfltMul d a b rm) d a b rm fmul s
def execVfltFma (d a b : VReg) (rm : RoundSel) (s : State) : Out :=
  vfmaForm (.vfltFma d a b rm) false d a b rm s
def execVfltFnma (d a b : VReg) (rm : RoundSel) (s : State) : Out :=
  vfmaForm (.vfltFnma d a b rm) true d a b rm s
def execVfltDiv (d a b : VReg) (rm : RoundSel) (la : BitVec 4) (s : State) : Out :=
  vfltLong (.vfltDiv d a b rm la) d la (fun t => fpLanes fun k =>
    fdiv (rmOf rm t.frm) (f32Lane (t.getV a) k) (f32Lane (t.getV b) k)) s
def execVfltSqrt (d a : VReg) (rm : RoundSel) (la : BitVec 4) (s : State) : Out :=
  vfltLong (.vfltSqrt d a rm la) d la (fun t => fpLanes fun k => fsqrt (rmOf rm t.frm) (f32Lane (t.getV a) k)) s
def execVfltMin (d a b : VReg) (s : State) : Out :=
  vfltForm (.vfltMin d a b) d a b .rne (fun _ => fminmax false) s
def execVfltMax (d a b : VReg) (s : State) : Out :=
  vfltForm (.vfltMax d a b) d a b .rne (fun _ => fminmax true) s
def execVfltAbs (d a : VReg) (s : State) : Out :=
  vecForm (.vfltAbs d a) d (fun t => mapLanes 32 fun k => lane 32 (t.getV a) k &&& 0x7FFF_FFFF) s
def execVfltNeg (d a : VReg) (s : State) : Out :=
  vecForm (.vfltNeg d a) d (fun t => mapLanes 32 fun k => lane 32 (t.getV a) k ^^^ 0x8000_0000) s
def execVfltCeq (d a b : VReg) (s : State) : Out :=
  vfcmpForm (.vfltCeq d a b) d a b .ceq s
def execVfltClt (d a b : VReg) (s : State) : Out :=
  vfcmpForm (.vfltClt d a b) d a b .clt s
def execVfltCle (d a b : VReg) (s : State) : Out :=
  vfcmpForm (.vfltCle d a b) d a b .cle s

/-! ## vcvt without tload (R150, R151) -/

def execVcvtToi (d a : VReg) (rm : RoundSel) (s : State) : Out :=
  vcvtForm (.vcvtToi d a rm) d a (fun t x =>
    let r := toIntF (rmOf rm t.frm) (-(2 ^ 31)) (2 ^ 31 - 1) x
    ((BitVec.ofInt 32 r.1).toNat, r.2)) s
def execVcvtTon (d a : VReg) (rm : RoundSel) (s : State) : Out :=
  vcvtForm (.vcvtTon d a rm) d a (fun t x =>
    let r := toIntF (rmOf rm t.frm) 0 (2 ^ 32 - 1) x
    ((BitVec.ofInt 32 r.1).toNat, r.2)) s
def execVcvtFri (d a : VReg) (rm : RoundSel) (s : State) : Out :=
  vcvtForm (.vcvtFri d a rm) d a (fun t x => intToF32 (rmOf rm t.frm) (BitVec.ofNat 32 x).toInt) s
def execVcvtFrn (d a : VReg) (rm : RoundSel) (s : State) : Out :=
  vcvtForm (.vcvtFrn d a rm) d a (fun t x => intToF32 (rmOf rm t.frm) (x : Nat)) s
def execVcvtTox (d a : VReg) (rm : RoundSel) (s : State) : Out :=
  vcvtForm (.vcvtTox d a rm) d a (fun t x =>
    let r := fromF32 x19F (rmOf rm t.frm) x
    ((container (BitVec.ofNat 19 r.1)).toNat, r.2)) s
def execVcvtPkh (d a b : VReg) (rm : RoundSel) (s : State) : Out :=
  vpackForm (.vcvtPkh d a b rm) d a b rm f16F s
def execVcvtPkb (d a b : VReg) (rm : RoundSel) (s : State) : Out :=
  vpackForm (.vcvtPkb d a b rm) d a b rm b16F s
def execVcvtUplh (d a : VReg) (s : State) : Out :=
  vunpackForm (.vcvtUplh d a) d a false f16F s
def execVcvtUphh (d a : VReg) (s : State) : Out :=
  vunpackForm (.vcvtUphh d a) d a true f16F s
def execVcvtUplb (d a : VReg) (s : State) : Out :=
  vunpackForm (.vcvtUplb d a) d a false b16F s
def execVcvtUphb (d a : VReg) (s : State) : Out :=
  vunpackForm (.vcvtUphb d a) d a true b16F s
def execVcvtEnc8 (d a : VReg) (rm : RoundSel) (s : State) : Out :=
  vencForm (.vcvtEnc8 d a rm) d a .t8 rm s
def execVcvtEnc4 (d a : VReg) (rm : RoundSel) (s : State) : Out :=
  vencForm (.vcvtEnc4 d a rm) d a .t4 rm s
def execVcvtDec (d a : VReg) (t : TblSel) (s : State) : Out :=
  .next (s.issue (.vcvtDec d a t) false fun s =>
    let tab := s.table t
    onRegs (fun h => h.setV d (mapLanes 32 fun k => container (tabEntry tab.1 (f32Lane (h.getV a) k % tab.2)))) s)

/-! ## vred (R148, R149) -/

def execVredFadd (d : SReg) (a : VReg) (rm : RoundSel) (s : State) : Out :=
  vredTree (.vredFadd d a rm) d a (fun t => fadd (rmOf rm t.frm)) s
def execVredFmax (d : SReg) (a : VReg) (s : State) : Out :=
  vredTree (.vredFmax d a) d a (fun _ => fminmax true) s
def execVredFmin (d : SReg) (a : VReg) (s : State) : Out :=
  vredTree (.vredFmin d a) d a (fun _ => fminmax false) s
def execVredAdd (d : SReg) (a : VReg) (sg : Sgn) (lw : LaneW) (s : State) : Out :=
  vredForm (.vredAdd d a sg lw) d (fun t => (lanesExt sg lw (t.getV a)).foldl (· + ·) 0) s
def execVredMax (d : SReg) (a : VReg) (sg : Sgn) (lw : LaneW) (s : State) : Out :=
  vredForm (.vredMax d a sg lw) d (fun t => pickLane (fun x y => ltBy sg y x) (lanesExt sg lw (t.getV a))) s
def execVredMin (d : SReg) (a : VReg) (sg : Sgn) (lw : LaneW) (s : State) : Out :=
  vredForm (.vredMin d a sg lw) d (fun t => pickLane (fun x y => ltBy sg x y) (lanesExt sg lw (t.getV a))) s
def execVredAnd (d : SReg) (a : VReg) (s : State) : Out :=
  vredForm (.vredAnd d a) d (fun t =>
    lane 64 (t.getV a) 0 &&& lane 64 (t.getV a) 1 &&& lane 64 (t.getV a) 2 &&& lane 64 (t.getV a) 3) s
def execVredOr (d : SReg) (a : VReg) (s : State) : Out :=
  vredForm (.vredOr d a) d (fun t =>
    lane 64 (t.getV a) 0 ||| lane 64 (t.getV a) 1 ||| lane 64 (t.getV a) 2 ||| lane 64 (t.getV a) 3) s
def execVredXor (d : SReg) (a : VReg) (s : State) : Out :=
  vredForm (.vredXor d a) d (fun t =>
    lane 64 (t.getV a) 0 ^^^ lane 64 (t.getV a) 1 ^^^ lane 64 (t.getV a) 2 ^^^ lane 64 (t.getV a) 3) s

/-! ## vmov (R153, R154) -/

/-- The lane index k = s[b] mod n (R154). -/
def laneIx (lw : LaneW) (x : Word) : Nat := x.toNat % (256 / laneSize lw)

/-- slup and sldn: lane i ← lane j of v[a], or 0 where no lane is named (R153). -/
def slideLanes (lw : LaneW) (v : V256) (src : Nat → Option Nat) : V256 :=
  mapLanes (laneSize lw) fun i =>
    match src i with
    | some j => if j < 256 / laneSize lw then lane (laneSize lw) v j else 0
    | none => 0

def execVmovMov (d a : VReg) (s : State) : Out :=
  vecForm (.vmovMov d a) d (fun t => t.getV a) s
def execVmovSplat (d : VReg) (a : SReg) (lw : LaneW) (s : State) : Out :=
  vecForm (.vmovSplat d a lw) d (fun t => mapLanes (laneSize lw) fun _ => (t.getS a).setWidth (laneSize lw)) s
def execVmovIns (d : VReg) (a b : SReg) (lw : LaneW) (s : State) : Out :=
  vecForm (.vmovIns d a b lw) d (fun t => mapLanes (laneSize lw) fun i =>
    if i = laneIx lw (t.getS b) then (t.getS a).setWidth (laneSize lw) else lane (laneSize lw) (t.getV d) i) s
def execVmovExt (d : SReg) (a : VReg) (b : SReg) (lw : LaneW) (s : State) : Out :=
  vredForm (.vmovExt d a b lw) d (fun t => sx (lane (laneSize lw) (t.getV a) (laneIx lw (t.getS b)))) s
def execVmovExtu (d : SReg) (a : VReg) (b : SReg) (lw : LaneW) (s : State) : Out :=
  vredForm (.vmovExtu d a b lw) d (fun t => zx (lane (laneSize lw) (t.getV a) (laneIx lw (t.getS b)))) s
def execVmovPerm (d a b : VReg) (lw : LaneW) (s : State) : Out :=
  vecForm (.vmovPerm d a b lw) d (fun t => mapLanes (laneSize lw) fun i =>
    lane (laneSize lw) (t.getV a) ((lane (laneSize lw) (t.getV b) i).toNat % (256 / laneSize lw))) s
def execVmovSlup (d a : VReg) (b : SReg) (lw : LaneW) (s : State) : Out :=
  vecForm (.vmovSlup d a b lw) d (fun t => slideLanes lw (t.getV a) fun i =>
    if (t.getS b).toNat ≤ i then some (i - (t.getS b).toNat) else none) s
def execVmovSldn (d a : VReg) (b : SReg) (lw : LaneW) (s : State) : Out :=
  vecForm (.vmovSldn d a b lw) d (fun t => slideLanes lw (t.getV a) fun i => some (i + (t.getS b).toNat)) s
def execVmovSel (d a b : VReg) (s : State) : Out :=
  vecForm (.vmovSel d a b) d (fun t => (t.getV a &&& t.getV d) ||| (t.getV b &&& ~~~t.getV d)) s
/-- any and all: SetPred(d, ...) (R153). -/
def vpredForm (i : Instr) (d : PReg) (f : Thread → Bool) (s : State) : Out :=
  .next (s.issue i false (onRegs fun t => t.setP d (f t)))

def execVmovAny (d : PReg) (a : VReg) (s : State) : Out :=
  vpredForm (.vmovAny d a) d (fun t => t.getV a != 0) s
def execVmovAll (d : PReg) (a : VReg) (lw : LaneW) (s : State) : Out :=
  vpredForm (.vmovAll d a lw) d (fun t => allLanes lw (t.getV a)) s

end Sys2Proof.Machine
end

