-- ==== Sys2Proof/Machine/Dispatch.lean ====
section
/-! DEFINITION. The one match of the machine: each instruction or step to its meaning. -/
namespace Sys2Proof.Machine
open Sys2Proof

def exec (i : Instr) (s : State) : Host.Outcome State Fault Refusal :=
  match i with
  | .sysNop => Sys2Proof.Machine.execSysNop s
  | .sysBreak code => Sys2Proof.Machine.execSysBreak code s
  | .sysScall code => Sys2Proof.Machine.execSysScall code s
  | .sysTret => Sys2Proof.Machine.execSysTret s
  | .sysCxend => Sys2Proof.Machine.execSysCxend s
  | .sysJr a => Sys2Proof.Machine.execSysJr a s
  | .sysCallr a => Sys2Proof.Machine.execSysCallr a s
  | .aluAdd d a b wd => Sys2Proof.Machine.execAluAdd d a b wd s
  | .aluSub d a b wd => Sys2Proof.Machine.execAluSub d a b wd s
  | .aluAnd d a b wd => Sys2Proof.Machine.execAluAnd d a b wd s
  | .aluOr d a b wd => Sys2Proof.Machine.execAluOr d a b wd s
  | .aluXor d a b wd => Sys2Proof.Machine.execAluXor d a b wd s
  | .aluAndn d a b wd => Sys2Proof.Machine.execAluAndn d a b wd s
  | .aluShl d a b wd => Sys2Proof.Machine.execAluShl d a b wd s
  | .aluShr d a b wd => Sys2Proof.Machine.execAluShr d a b wd s
  | .aluSar d a b wd => Sys2Proof.Machine.execAluSar d a b wd s
  | .aluMul d a b wd => Sys2Proof.Machine.execAluMul d a b wd s
  | .aluMin d a b wd => Sys2Proof.Machine.execAluMin d a b wd s
  | .aluMax d a b wd => Sys2Proof.Machine.execAluMax d a b wd s
  | .aluMinu d a b wd => Sys2Proof.Machine.execAluMinu d a b wd s
  | .aluMaxu d a b wd => Sys2Proof.Machine.execAluMaxu d a b wd s
  | .aluClz d a wd => Sys2Proof.Machine.execAluClz d a wd s
  | .aluPopc d a wd => Sys2Proof.Machine.execAluPopc d a wd s
  | .aluAdds d a b wd => Sys2Proof.Machine.execAluAdds d a b wd s
  | .aluSubs d a b wd => Sys2Proof.Machine.execAluSubs d a b wd s
  | .aluiAdd d a imm => Sys2Proof.Machine.execAluiAdd d a imm s
  | .aluiAnd d a imm => Sys2Proof.Machine.execAluiAnd d a imm s
  | .aluiOr d a imm => Sys2Proof.Machine.execAluiOr d a imm s
  | .aluiXor d a imm => Sys2Proof.Machine.execAluiXor d a imm s
  | .aluiShl d a imm => Sys2Proof.Machine.execAluiShl d a imm s
  | .aluiShr d a imm => Sys2Proof.Machine.execAluiShr d a imm s
  | .aluiSar d a imm => Sys2Proof.Machine.execAluiSar d a imm s
  | .lui d imm => Sys2Proof.Machine.execLui d imm s
  | .mdvMulh d a b wd la => Sys2Proof.Machine.execMdvMulh d a b wd la s
  | .mdvMulhu d a b wd la => Sys2Proof.Machine.execMdvMulhu d a b wd la s
  | .mdvDiv d a b wd la => Sys2Proof.Machine.execMdvDiv d a b wd la s
  | .mdvDivu d a b wd la => Sys2Proof.Machine.execMdvDivu d a b wd la s
  | .mdvRem d a b wd la => Sys2Proof.Machine.execMdvRem d a b wd la s
  | .mdvRemu d a b wd la => Sys2Proof.Machine.execMdvRemu d a b wd la s
  | .cmpEq d a b wd => Sys2Proof.Machine.execCmpEq d a b wd s
  | .cmpNe d a b wd => Sys2Proof.Machine.execCmpNe d a b wd s
  | .cmpLt d a b wd => Sys2Proof.Machine.execCmpLt d a b wd s
  | .cmpGe d a b wd => Sys2Proof.Machine.execCmpGe d a b wd s
  | .cmpLtu d a b wd => Sys2Proof.Machine.execCmpLtu d a b wd s
  | .cmpGeu d a b wd => Sys2Proof.Machine.execCmpGeu d a b wd s
  | .cmpPand d a b => Sys2Proof.Machine.execCmpPand d a b s
  | .cmpPor d a b => Sys2Proof.Machine.execCmpPor d a b s
  | .cmpPxor d a b => Sys2Proof.Machine.execCmpPxor d a b s
  | .cmpPandn d a b => Sys2Proof.Machine.execCmpPandn d a b s
  | .cmpiEq d a imm => Sys2Proof.Machine.execCmpiEq d a imm s
  | .cmpiNe d a imm => Sys2Proof.Machine.execCmpiNe d a imm s
  | .cmpiLt d a imm => Sys2Proof.Machine.execCmpiLt d a imm s
  | .cmpiGe d a imm => Sys2Proof.Machine.execCmpiGe d a imm s
  | .cmpiLtu d a imm => Sys2Proof.Machine.execCmpiLtu d a imm s
  | .cmpiGeu d a imm => Sys2Proof.Machine.execCmpiGeu d a imm s
  | .brT p off => Sys2Proof.Machine.execBrT p off s
  | .brF p off => Sys2Proof.Machine.execBrF p off s
  | .brNz a off => Sys2Proof.Machine.execBrNz a off s
  | .brZ a off => Sys2Proof.Machine.execBrZ a off s
  | .jmp off => Sys2Proof.Machine.execJmp off s
  | .call off => Sys2Proof.Machine.execCall off s
  | .loopIn a imm => Sys2Proof.Machine.execLoopIn a imm s
  | .loopOut a imm => Sys2Proof.Machine.execLoopOut a imm s
  | .callatSend d a b la => Sys2Proof.Machine.execCallatSend d a b la s
  | .memLdB d a off la => Sys2Proof.Machine.execMemLdB d a off la s
  | .memLdH d a off la => Sys2Proof.Machine.execMemLdH d a off la s
  | .memLdW d a off la => Sys2Proof.Machine.execMemLdW d a off la s
  | .memLdD d a off la => Sys2Proof.Machine.execMemLdD d a off la s
  | .memLdI8 d a off la => Sys2Proof.Machine.execMemLdI8 d a off la s
  | .memLdI16 d a off la => Sys2Proof.Machine.execMemLdI16 d a off la s
  | .memLdI32 d a off la => Sys2Proof.Machine.execMemLdI32 d a off la s
  | .memLdRo d a off la => Sys2Proof.Machine.execMemLdRo d a off la s
  | .memStB d a off => Sys2Proof.Machine.execMemStB d a off s
  | .memStH d a off => Sys2Proof.Machine.execMemStH d a off s
  | .memStW d a off => Sys2Proof.Machine.execMemStW d a off s
  | .memStD d a off => Sys2Proof.Machine.execMemStD d a off s
  | .atomFaa d a b t la => Sys2Proof.Machine.execAtomFaa d a b t la s
  | .atomSwap d a b t la => Sys2Proof.Machine.execAtomSwap d a b t la s
  | .atomCas d a b t la => Sys2Proof.Machine.execAtomCas d a b t la s
  | .atomFand d a b t la => Sys2Proof.Machine.execAtomFand d a b t la s
  | .atomFor d a b t la => Sys2Proof.Machine.execAtomFor d a b t la s
  | .atomFxor d a b t la => Sys2Proof.Machine.execAtomFxor d a b t la s
  | .atomFmin d a b t la => Sys2Proof.Machine.execAtomFmin d a b t la s
  | .atomFmax d a b t la => Sys2Proof.Machine.execAtomFmax d a b t la s
  | .atomRsv d a t la => Sys2Proof.Machine.execAtomRsv d a t la s
  | .atomRel d a b t la => Sys2Proof.Machine.execAtomRel d a b t la s
  | .atomDrop => Sys2Proof.Machine.execAtomDrop s
  | .syncFenceCore => Sys2Proof.Machine.execSyncFenceCore s
  | .syncFenceTile => Sys2Proof.Machine.execSyncFenceTile s
  | .syncFencePart b tp => Sys2Proof.Machine.execSyncFencePart b tp s
  | .syncWatch a => Sys2Proof.Machine.execSyncWatch a s
  | .syncUnwatch => Sys2Proof.Machine.execSyncUnwatch s
  | .syncWaitw b tp la => Sys2Proof.Machine.execSyncWaitw b tp la s
  | .syncLdf d a b tp la => Sys2Proof.Machine.execSyncLdf d a b tp la s
  | .syncLdfe d a b tp la => Sys2Proof.Machine.execSyncLdfe d a b tp la s
  | .syncStf d a => Sys2Proof.Machine.execSyncStf d a s
  | .syncStef d a b tp la => Sys2Proof.Machine.execSyncStef d a b tp la s
  | .syncClre a => Sys2Proof.Machine.execSyncClre a s
  | .syncRo => Sys2Proof.Machine.execSyncRo s
  | .syncRec => Sys2Proof.Machine.execSyncRec s
  | .syncLwb a => Sys2Proof.Machine.execSyncLwb a s
  | .syncLinv a => Sys2Proof.Machine.execSyncLinv a s
  | .msgSend d a b tp la => Sys2Proof.Machine.execMsgSend d a b tp la s
  | .msgRecv d a b tp la => Sys2Proof.Machine.execMsgRecv d a b tp la s
  | .msgRecvs d a b tp la => Sys2Proof.Machine.execMsgRecvs d a b tp la s
  | .msgRecvr d a b tp la => Sys2Proof.Machine.execMsgRecvr d a b tp la s
  | .msgPeek d a => Sys2Proof.Machine.execMsgPeek d a s
  | .smpPost d a => Sys2Proof.Machine.execSmpPost d a s
  | .smpSample d a b tp la => Sys2Proof.Machine.execSmpSample d a b tp la s
  | .smpCount d a la => Sys2Proof.Machine.execSmpCount d a la s
  | .smpWait d a b tp la => Sys2Proof.Machine.execSmpWait d a b tp la s
  | .smpBar d b tp la => Sys2Proof.Machine.execSmpBar d b tp la s
  | .taskSpawn d a b la => Sys2Proof.Machine.execTaskSpawn d a b la s
  | .taskYield => Sys2Proof.Machine.execTaskYield s
  | .taskPark a => Sys2Proof.Machine.execTaskPark a s
  | .taskJoin a => Sys2Proof.Machine.execTaskJoin a s
  | .taskRetire a => Sys2Proof.Machine.execTaskRetire a s
  | .taskCancel d a b la => Sys2Proof.Machine.execTaskCancel d a b la s
  | .engPush d a b tp => Sys2Proof.Machine.execEngPush d a b tp s
  | .engXidwait d a b tp la => Sys2Proof.Machine.execEngXidwait d a b tp la s
  | .engJidwait d a b tp la => Sys2Proof.Machine.execEngJidwait d a b tp la s
  | .engJidrd d a => Sys2Proof.Machine.execEngJidrd d a s
  | .strmBind d a => Sys2Proof.Machine.execStrmBind d a s
  | .strmUnbind d => Sys2Proof.Machine.execStrmUnbind d s
  | .strmXid d b => Sys2Proof.Machine.execStrmXid d b s
  | .kregRd d imm => Sys2Proof.Machine.execKregRd d imm s
  | .kregWr a imm => Sys2Proof.Machine.execKregWr a imm s
  | .kregSet a imm => Sys2Proof.Machine.execKregSet a imm s
  | .kregClr a imm => Sys2Proof.Machine.execKregClr a imm s
  | .vmemLdV d a off la => Sys2Proof.Machine.execVmemLdV d a off la s
  | .vmemLdSw d a off la => Sys2Proof.Machine.execVmemLdSw d a off la s
  | .vmemLdSd d a off la => Sys2Proof.Machine.execVmemLdSd d a off la s
  | .vmemLdRo d a off la => Sys2Proof.Machine.execVmemLdRo d a off la s
  | .vmemStV d a off => Sys2Proof.Machine.execVmemStV d a off s
  | .vmemStW d a off => Sys2Proof.Machine.execVmemStW d a off s
  | .vmemStD d a off => Sys2Proof.Machine.execVmemStD d a off s
  | .valuAdd d a b sg lw => Sys2Proof.Machine.execValuAdd d a b sg lw s
  | .valuSub d a b sg lw => Sys2Proof.Machine.execValuSub d a b sg lw s
  | .valuAdds d a b sg lw => Sys2Proof.Machine.execValuAdds d a b sg lw s
  | .valuSubs d a b sg lw => Sys2Proof.Machine.execValuSubs d a b sg lw s
  | .valuMul d a b sg lw => Sys2Proof.Machine.execValuMul d a b sg lw s
  | .valuMulh d a b sg lw => Sys2Proof.Machine.execValuMulh d a b sg lw s
  | .valuMin d a b sg lw => Sys2Proof.Machine.execValuMin d a b sg lw s
  | .valuMax d a b sg lw => Sys2Proof.Machine.execValuMax d a b sg lw s
  | .valuAnd d a b sg lw => Sys2Proof.Machine.execValuAnd d a b sg lw s
  | .valuOr d a b sg lw => Sys2Proof.Machine.execValuOr d a b sg lw s
  | .valuXor d a b sg lw => Sys2Proof.Machine.execValuXor d a b sg lw s
  | .valuShl d a b sg lw => Sys2Proof.Machine.execValuShl d a b sg lw s
  | .valuShr d a b sg lw => Sys2Proof.Machine.execValuShr d a b sg lw s
  | .valuCeq d a b sg lw => Sys2Proof.Machine.execValuCeq d a b sg lw s
  | .valuClt d a b sg lw => Sys2Proof.Machine.execValuClt d a b sg lw s
  | .vfltAdd d a b rm => Sys2Proof.Machine.execVfltAdd d a b rm s
  | .vfltSub d a b rm => Sys2Proof.Machine.execVfltSub d a b rm s
  | .vfltMul d a b rm => Sys2Proof.Machine.execVfltMul d a b rm s
  | .vfltFma d a b rm => Sys2Proof.Machine.execVfltFma d a b rm s
  | .vfltFnma d a b rm => Sys2Proof.Machine.execVfltFnma d a b rm s
  | .vfltDiv d a b rm la => Sys2Proof.Machine.execVfltDiv d a b rm la s
  | .vfltSqrt d a rm la => Sys2Proof.Machine.execVfltSqrt d a rm la s
  | .vfltMin d a b => Sys2Proof.Machine.execVfltMin d a b s
  | .vfltMax d a b => Sys2Proof.Machine.execVfltMax d a b s
  | .vfltAbs d a => Sys2Proof.Machine.execVfltAbs d a s
  | .vfltNeg d a => Sys2Proof.Machine.execVfltNeg d a s
  | .vfltCeq d a b => Sys2Proof.Machine.execVfltCeq d a b s
  | .vfltClt d a b => Sys2Proof.Machine.execVfltClt d a b s
  | .vfltCle d a b => Sys2Proof.Machine.execVfltCle d a b s
  | .vcvtToi d a rm => Sys2Proof.Machine.execVcvtToi d a rm s
  | .vcvtTon d a rm => Sys2Proof.Machine.execVcvtTon d a rm s
  | .vcvtFri d a rm => Sys2Proof.Machine.execVcvtFri d a rm s
  | .vcvtFrn d a rm => Sys2Proof.Machine.execVcvtFrn d a rm s
  | .vcvtTox d a rm => Sys2Proof.Machine.execVcvtTox d a rm s
  | .vcvtPkh d a b rm => Sys2Proof.Machine.execVcvtPkh d a b rm s
  | .vcvtPkb d a b rm => Sys2Proof.Machine.execVcvtPkb d a b rm s
  | .vcvtUplh d a => Sys2Proof.Machine.execVcvtUplh d a s
  | .vcvtUphh d a => Sys2Proof.Machine.execVcvtUphh d a s
  | .vcvtUplb d a => Sys2Proof.Machine.execVcvtUplb d a s
  | .vcvtUphb d a => Sys2Proof.Machine.execVcvtUphb d a s
  | .vcvtEnc8 d a rm => Sys2Proof.Machine.execVcvtEnc8 d a rm s
  | .vcvtEnc4 d a rm => Sys2Proof.Machine.execVcvtEnc4 d a rm s
  | .vcvtDec d a t => Sys2Proof.Machine.execVcvtDec d a t s
  | .vcvtTload a t la => Sys2Proof.Machine.execVcvtTload a t la s
  | .vredFadd d a rm => Sys2Proof.Machine.execVredFadd d a rm s
  | .vredFmax d a => Sys2Proof.Machine.execVredFmax d a s
  | .vredFmin d a => Sys2Proof.Machine.execVredFmin d a s
  | .vredAdd d a sg lw => Sys2Proof.Machine.execVredAdd d a sg lw s
  | .vredMax d a sg lw => Sys2Proof.Machine.execVredMax d a sg lw s
  | .vredMin d a sg lw => Sys2Proof.Machine.execVredMin d a sg lw s
  | .vredAnd d a => Sys2Proof.Machine.execVredAnd d a s
  | .vredOr d a => Sys2Proof.Machine.execVredOr d a s
  | .vredXor d a => Sys2Proof.Machine.execVredXor d a s
  | .vmovMov d a => Sys2Proof.Machine.execVmovMov d a s
  | .vmovSplat d a lw => Sys2Proof.Machine.execVmovSplat d a lw s
  | .vmovIns d a b lw => Sys2Proof.Machine.execVmovIns d a b lw s
  | .vmovExt d a b lw => Sys2Proof.Machine.execVmovExt d a b lw s
  | .vmovExtu d a b lw => Sys2Proof.Machine.execVmovExtu d a b lw s
  | .vmovPerm d a b lw => Sys2Proof.Machine.execVmovPerm d a b lw s
  | .vmovSlup d a b lw => Sys2Proof.Machine.execVmovSlup d a b lw s
  | .vmovSldn d a b lw => Sys2Proof.Machine.execVmovSldn d a b lw s
  | .vmovSel d a b => Sys2Proof.Machine.execVmovSel d a b s
  | .vmovAny d a => Sys2Proof.Machine.execVmovAny d a s
  | .vmovAll d a lw => Sys2Proof.Machine.execVmovAll d a lw s
  | .copyAff h ops => Sys2Proof.Machine.execCopyAff h ops s
  | .copyRed h ops => Sys2Proof.Machine.execCopyRed h ops s
  | .copyPull h ops => Sys2Proof.Machine.execCopyPull h ops s
  | .copyMcast h ops => Sys2Proof.Machine.execCopyMcast h ops s
  | .copyEv h ops => Sys2Proof.Machine.execCopyEv h ops s
  | .copyBar h ops => Sys2Proof.Machine.execCopyBar h ops s
  | .copyProbe h ops => Sys2Proof.Machine.execCopyProbe h ops s
  | .copyHatom h ops => Sys2Proof.Machine.execCopyHatom h ops s
  | .copyWb h ops => Sys2Proof.Machine.execCopyWb h ops s
  | .copyInv h ops => Sys2Proof.Machine.execCopyInv h ops s
  | .mxLdw flags ops => Sys2Proof.Machine.execMxLdw flags ops s
  | .mxSwap flags ops => Sys2Proof.Machine.execMxSwap flags ops s
  | .mxRun flags ops => Sys2Proof.Machine.execMxRun flags ops s
  | .mxAcc flags ops => Sys2Proof.Machine.execMxAcc flags ops s
  | .mxSt flags ops => Sys2Proof.Machine.execMxSt flags ops s
  | .mxZero flags ops => Sys2Proof.Machine.execMxZero flags ops s
  | .mxScale flags ops => Sys2Proof.Machine.execMxScale flags ops s
  | .evCfg flags ops => Sys2Proof.Machine.execEvCfg flags ops s
  | .evInj flags ops => Sys2Proof.Machine.execEvInj flags ops s
  | .evHorizon flags ops => Sys2Proof.Machine.execEvHorizon flags ops s
  | .evRun flags ops => Sys2Proof.Machine.execEvRun flags ops s
  | .evRead flags ops => Sys2Proof.Machine.execEvRead flags ops s
  | .resultArrival => Sys2Proof.Machine.execResultArrival s
  | .trapEntry => Sys2Proof.Machine.execTrapEntry s
  | .cancel => Sys2Proof.Machine.execCancel s
  | .cancelBudgetEnd => Sys2Proof.Machine.execCancelBudgetEnd s
  | .waitTimeout => Sys2Proof.Machine.execWaitTimeout s
  | .pickUp => Sys2Proof.Machine.execPickUp s
  | .messageCrossing => Sys2Proof.Machine.execMessageCrossing s
  | .stealRequest => Sys2Proof.Machine.execStealRequest s
  | .stolenEntryArrival => Sys2Proof.Machine.execStolenEntryArrival s
  | .migration => Sys2Proof.Machine.execMigration s
  | .displacement => Sys2Proof.Machine.execDisplacement s
  | .reservationWindowExceeded => Sys2Proof.Machine.execReservationWindowExceeded s
  | .streamWaitExpiry => Sys2Proof.Machine.execStreamWaitExpiry s
  | .streamFill => Sys2Proof.Machine.execStreamFill s
  | .tloadComplete => Sys2Proof.Machine.execTloadComplete s
  | .bankEcho => Sys2Proof.Machine.execBankEcho s
  | .postPerform => Sys2Proof.Machine.execPostPerform s
  | .sampleRequest => Sys2Proof.Machine.execSampleRequest s
  | .sampleReply => Sys2Proof.Machine.execSampleReply s
  | .remoteReadRequest => Sys2Proof.Machine.execRemoteReadRequest s
  | .readReply => Sys2Proof.Machine.execReadReply s
  | .ackReceived => Sys2Proof.Machine.execAckReceived s
  | .barrierToken => Sys2Proof.Machine.execBarrierToken s
  | .copyBarTimeout => Sys2Proof.Machine.execCopyBarTimeout s
  | .probeToken => Sys2Proof.Machine.execProbeToken s
  | .periodTick => Sys2Proof.Machine.execPeriodTick s
  | .activationRetire => Sys2Proof.Machine.execActivationRetire s
  | .launchStart => Sys2Proof.Machine.execLaunchStart s
  | .jobStart => Sys2Proof.Machine.execJobStart s
  | .hostJobPost => Sys2Proof.Machine.execHostJobPost s
  | .submit => Sys2Proof.Machine.execSubmit s
  | .sequencerCancel => Sys2Proof.Machine.execSequencerCancel s
  | .sequencerResume => Sys2Proof.Machine.execSequencerResume s
  | .quantumExpiry => Sys2Proof.Machine.execQuantumExpiry s
  | .preEmption => Sys2Proof.Machine.execPreEmption s
  | .contextSave => Sys2Proof.Machine.execContextSave s
  | .contextRestore => Sys2Proof.Machine.execContextRestore s
  | .groupWatchdog => Sys2Proof.Machine.execGroupWatchdog s
  | .eventIntake => Sys2Proof.Machine.execEventIntake s
  | .timeCellSampleTimeout => Sys2Proof.Machine.execTimeCellSampleTimeout s
  | .matrixService => Sys2Proof.Machine.execMatrixService s
  | .matrixRowWrite => Sys2Proof.Machine.execMatrixRowWrite s
  | .weightLoadDone => Sys2Proof.Machine.execWeightLoadDone s
  | .copyCompletion => Sys2Proof.Machine.execCopyCompletion s
  | .matrixJobCompletion => Sys2Proof.Machine.execMatrixJobCompletion s
  | .eventJobCompletion => Sys2Proof.Machine.execEventJobCompletion s
  | .translationWalk => Sys2Proof.Machine.execTranslationWalk s
  | .faultRecordWrite => Sys2Proof.Machine.execFaultRecordWrite s
  | .faultResume => Sys2Proof.Machine.execFaultResume s
  | .faultAbort => Sys2Proof.Machine.execFaultAbort s
  | .tbinv => Sys2Proof.Machine.execTbinv s
  | .tbinvDone => Sys2Proof.Machine.execTbinvDone s
  | .fqconsWrite => Sys2Proof.Machine.execFqconsWrite s
  | .wmaskWrite => Sys2Proof.Machine.execWmaskWrite s
  | .flitRoute => Sys2Proof.Machine.execFlitRoute s
  | .flitInject => Sys2Proof.Machine.execFlitInject s
  | .flitIngress => Sys2Proof.Machine.execFlitIngress s
  | .flitAgeTick => Sys2Proof.Machine.execFlitAgeTick s
  | .pullReq => Sys2Proof.Machine.execPullReq s
  | .pullPfx => Sys2Proof.Machine.execPullPfx s
  | .pfxPoolExpiry => Sys2Proof.Machine.execPfxPoolExpiry s
  | .grant => Sys2Proof.Machine.execGrant s
  | .pullData => Sys2Proof.Machine.execPullData s
  | .tokenExpiry => Sys2Proof.Machine.execTokenExpiry s
  | .pullTokenSample => Sys2Proof.Machine.execPullTokenSample s
  | .retryResend => Sys2Proof.Machine.execRetryResend s
  | .silentCellResend => Sys2Proof.Machine.execSilentCellResend s
  | .linkTransmit => Sys2Proof.Machine.execLinkTransmit s
  | .linkReceive => Sys2Proof.Machine.execLinkReceive s
  | .linkReplay => Sys2Proof.Machine.execLinkReplay s
  | .linkAck => Sys2Proof.Machine.execLinkAck s
  | .mcastCopyArrival => Sys2Proof.Machine.execMcastCopyArrival s
  | .mcastAck => Sys2Proof.Machine.execMcastAck s
  | .mcastAckTimeout => Sys2Proof.Machine.execMcastAckTimeout s
  | .partitionReset => Sys2Proof.Machine.execPartitionReset s
  | .vfTeardown => Sys2Proof.Machine.execVfTeardown s
  | .contextFence => Sys2Proof.Machine.execContextFence s
  | .replayStoreRelease => Sys2Proof.Machine.execReplayStoreRelease s
  | .lineEviction => Sys2Proof.Machine.execLineEviction s
  | .sliceEviction => Sys2Proof.Machine.execSliceEviction s
  | .hostAtomicCompletion => Sys2Proof.Machine.execHostAtomicCompletion s
  | .hostCompletionTimeout => Sys2Proof.Machine.execHostCompletionTimeout s
  | .healthCheck => Sys2Proof.Machine.execHealthCheck s
  | .healthSample => Sys2Proof.Machine.execHealthSample s
  | .rowShift => Sys2Proof.Machine.execRowShift s
  | .hbmChannelFailure => Sys2Proof.Machine.execHbmChannelFailure s
  | .moduleStart => Sys2Proof.Machine.execModuleStart s
  | .startStage => Sys2Proof.Machine.execStartStage s
  | .startStageTimeout => Sys2Proof.Machine.execStartStageTimeout s
  | .powerLoss => Sys2Proof.Machine.execPowerLoss s
  | .railFault => Sys2Proof.Machine.execRailFault s
  | .thermalThrottle => Sys2Proof.Machine.execThermalThrottle s
  | .thermalShutdown => Sys2Proof.Machine.execThermalShutdown s
  | .ringRead => Sys2Proof.Machine.execRingRead s
  | .ringWrite => Sys2Proof.Machine.execRingWrite s
  | .leave => Sys2Proof.Machine.execLeave s
  | .restart => Sys2Proof.Machine.execRestart s
  | .imageLoad => Sys2Proof.Machine.execImageLoad s
  | .powercap => Sys2Proof.Machine.execPowercap s
  | .mgmtCommandComplete => Sys2Proof.Machine.execMgmtCommandComplete s
  | .keyPut => Sys2Proof.Machine.execKeyPut s
  | .keyDel => Sys2Proof.Machine.execKeyDel s
  | .keyQuery => Sys2Proof.Machine.execKeyQuery s
  | .keyZeroingDone => Sys2Proof.Machine.execKeyZeroingDone s
  | .registerWrite => Sys2Proof.Machine.execRegisterWrite s
  | .notAnInstruction => Sys2Proof.Machine.execNotAnInstruction s
  | .runPastCodeSegment => Sys2Proof.Machine.execRunPastCodeSegment s
  | .coreRestart => Sys2Proof.Machine.execCoreRestart s
  | .hostReadCompletion => Sys2Proof.Machine.execHostReadCompletion s
  | .hbmFill => Sys2Proof.Machine.execHbmFill s
  | .partitionCreation => Sys2Proof.Machine.execPartitionCreation s
  | .partitionDestruction => Sys2Proof.Machine.execPartitionDestruction s
  | .epochBump => Sys2Proof.Machine.execEpochBump s
  | .logicErrorReport => Sys2Proof.Machine.execLogicErrorReport s
  | .securedSession => Sys2Proof.Machine.execSecuredSession s

end Sys2Proof.Machine
end

