-- ==== Sys2Proof/Machine/Step.lean ====
section
/-!
DEFINITION. The step function of the machine, and where the next instruction is fetched (log 1, log 2).
-/
namespace Sys2Proof.Machine

/-- One step: what comes next is executed. -/
def step (s : State) : Host.Outcome State Fault Refusal :=
  match s.upcoming with
  | .run i s' => exec i s'
  | .idle s' => .next s'

/-- The state whose next step fetches and runs the instruction of the given word (log 2): an S-word at the pc of a running
thread whose slot it is; a T-word as the command that starts next. -/
def State.withFetchWord (s : State) (nbits w : Nat) : State := s.placeWord nbits w

end Sys2Proof.Machine
end

