-- ==== Sys2Proof/Safety.lean ====
section
/-!
DEFINITION. The words the claims are stated in: when an instruction issues with its own effect and what its retirement leaves,
and what counts as a safe run (the machine neither faults nor refuses).
-/
namespace Sys2Proof.Machine

/-- n steps of the machine from a state, as long as each answers a next state. -/
def run : Nat → State → Host.Outcome State Fault Refusal
  | 0, s => .next s
  | n + 1, s =>
    match step s with
    | .next s' => run n s'
    | o => o

/-- A run of n steps is safe when it ends in a next state. -/
def safe (n : Nat) (s : State) : Prop := ∃ s', run n s = .next s'

/-- The instruction of the current thread issues with its own effect: no register it names is pending (R16), the window of a
reservation allows it (R183), and no register it names is bound to a stream (R23). -/
def State.clear (s : State) (i : Instr) : Prop :=
  s.th.conflict (regUse i) = false ∧ (s.th.resv.isSome && forbiddenInWindow i) = false ∧
    s.th.bound (regUse i).reads = [] ∧ s.th.bound (regUse i).writes = []

/-- The state after an instruction of one slot that changes the thread's registers by `f`: the issue is counted (R15, R119,
R183) and the pc advances, with the hardware loops (R107, R110). -/
def State.retired (s : State) (f : Thread → Thread) : State :=
  (s.countIssue false).modTh fun t => (f t).advanceFrom s.th.pc

/-- The state after the issue of a long-latency instruction whose result is known: it is outstanding, with its destinations
pending and RESULT_ARRIVAL due `lat` tile cycles later (R15). -/
def State.issuedLong (s : State) (la : BitVec 4) (dests : List RegRef) (lat : Nat) (w : Writes) : State :=
  ((s.countIssue true).deferRes la dests lat w).modTh fun t => t.advanceFrom s.th.pc

/-- A target that the check of R107 lets pass: a multiple of 4 inside the code segment of the launch. -/
def State.targetOk (s : State) (tgt : Word) : Prop := tgt.toNat % 4 = 0 ∧ tgt.toNat < (s.launch s.cur.tile).csize

/-- The state after a taken transfer of an instruction that changes the thread's registers by `f`: it leaves the loops it
jumps out of, and its target is held while registers are pending (R111, R17). -/
def State.transferred (s : State) (f : Thread → Thread) (tgt : Word) : State :=
  (s.countIssue false).modTh fun t => ((f t).leaveLoops tgt).goto tgt

/-! ## What a write to local memory may touch beside its bytes -/

/-- The bytes of a core's local memory that waking on a word may write: the ready bits of the displaced frames that watch the
word, and the spill region when a record is parked on it (R169, R336, R340). -/
def Core.wokenByte (c : Core) (l : Launch) (w a : Nat) : Prop :=
  (∃ f ∈ c.frames, f.2.watch = some w ∧ a = frameOff l f.1 + 0x301) ∨
    ((∃ e ∈ c.park, (match e.1 with
      | .word x => x == w
      | .waitw x _ => x == w
      | .counter _ => false) = true) ∧ c.area ≤ a ∧ a < c.area + 64 * 512)

/-! ## The invariant of every step -/

/-- Keys in rising order. -/
abbrev KMap.Rising {α : Type} (m : KMap α) : Prop := m.Pairwise fun p q => p.1 < q.1

/-- The outstanding instructions of a thread, and those it has to issue again, have numbers it has given. -/
def Thread.numbered (t : Thread) : Prop := (∀ o ∈ t.outst, o.id < t.nextOp) ∧ ∀ x ∈ t.laidOff, x.1.id < t.nextOp

/-- A core's memory, full/empty bits and line cache are in canonical form, and its threads number their instructions. -/
def Core.wf (c : Core) : Prop :=
  c.lm.wf = true ∧ c.full.Rising ∧ c.lines.Rising ∧ (∀ h : Fin 16, c.threads[h].numbered) ∧ ∀ e ∈ c.frames, e.2.numbered

def Tile.wf (t : Tile) : Prop := (∀ k : Fin 8, t.cores[k].wf) ∧ t.mx.acc.wf = true

/-- A partition's memory is in canonical form, and so are the tiles of its saved contexts. -/
def Part.wf (p : Part) : Prop := p.hbm.wf = true ∧ ∀ e ∈ p.ctxs, ∀ x ∈ e.2.saved, x.2.1.wf

/-- Every memory of the machine is in canonical form: equal contents are equal data. -/
def State.Inv (s : State) : Prop :=
  (∀ e ∈ s.tiles, e.2.wf) ∧ (∀ e ∈ s.parts, e.2.wf) ∧ s.host.wf = true ∧ s.md.buffer.wf = true

end Sys2Proof.Machine
end

