-- ==== Sys2Proof/Certificates/Slice0/Obligations.lean ====
section
/-!
DEFINITION. The statements about this machine, from the numbered rules of spec/. Each says that the instructions or steps it
names answer a next state, and what that state holds.
-/
open Sys2Proof Sys2Proof.Machine

/-! ## Scalar and vector arithmetic (spec/04, spec/05) -/

/-- R96, R97: an alu instruction writes s[d] with its function of s[a] and s[b], at 64 bits or, for .w, at 32 bits with the
result sign-extended; nothing else of the thread changes but what retirement changes. R96: clz and popc count the leading
zeros and the one bits of s[a], of its low 32 bits for .w. R98, R99: an alui instruction writes s[d] with its function of
s[a] and the immediate, SX(imm13, 64) or a shift amount of 6 bits; lui writes ZX(imm21, 64) shifted left by 43. -/
def Obligations.ScalarResults : Prop :=
  (
    ∀ row ∈ ([(.aluAdd, fun _ x y => x + y), (.aluSub, fun _ x y => x - y), (.aluAnd, fun _ x y => x &&& y),
        (.aluOr, fun _ x y => x ||| y), (.aluXor, fun _ x y => x ^^^ y), (.aluAndn, fun _ x y => x &&& ~~~y),
        (.aluShl, fun w x y => x <<< (y.toNat % w)), (.aluShr, fun w x y => x >>> (y.toNat % w)),
        (.aluSar, fun w x y => x.sshiftRight (y.toNat % w)), (.aluMul, fun _ x y => x * y),
        (.aluMin, fun _ x y => if x.slt y then x else y), (.aluMax, fun _ x y => if x.slt y then y else x),
        (.aluMinu, fun _ x y => if x.ult y then x else y), (.aluMaxu, fun _ x y => if x.ult y then y else x),
        (.aluAdds, fun w x y => BitVec.ofInt w (max (-(2 ^ (w - 1))) (min (2 ^ (w - 1) - 1) (x.toInt + y.toInt)))),
        (.aluSubs, fun w x y => BitVec.ofInt w (max (-(2 ^ (w - 1))) (min (2 ^ (w - 1) - 1) (x.toInt - y.toInt))))] :
        List ((SReg → SReg → SReg → Wd → Instr) × ((w : Nat) → BitVec w → BitVec w → BitVec w))),
      ∀ (s : State) (d a b : SReg),
        (s.clear (row.1 d a b .d) → exec (row.1 d a b .d) s =
          .next (s.retired fun t => t.setS d (row.2 64 (t.getS a) (t.getS b)))) ∧
        (s.clear (row.1 d a b .w) → exec (row.1 d a b .w) s =
          .next (s.retired fun t => t.setS d ((row.2 32 ((t.getS a).setWidth 32) ((t.getS b).setWidth 32)).signExtend 64)))) ∧
  (
    ∀ (s : State) (d a : SReg),
      (∀ wd, s.clear (.aluClz d a wd) → ∃ n : Nat, n ≤ wdSize wd ∧
        exec (.aluClz d a wd) s = .next (s.retired fun t => t.setS d (BitVec.ofNat 64 n)) ∧
        (∀ j < n, (s.th.getS a).getLsbD (wdSize wd - 1 - j) = false) ∧
        (n < wdSize wd → (s.th.getS a).getLsbD (wdSize wd - 1 - n) = true)) ∧
      (∀ wd, s.clear (.aluPopc d a wd) → exec (.aluPopc d a wd) s = .next (s.retired fun t => t.setS d (BitVec.ofNat 64
        ((List.range (wdSize wd)).countP fun i => (s.th.getS a).getLsbD i))))) ∧
  (
    ∀ (s : State) (d a : SReg),
      (∀ row ∈ ([(.aluiAdd, fun x y => x + y), (.aluiAnd, fun x y => x &&& y), (.aluiOr, fun x y => x ||| y),
          (.aluiXor, fun x y => x ^^^ y)] : List ((SReg → SReg → BitVec 13 → Instr) × (Word → Word → Word))),
        ∀ imm, s.clear (row.1 d a imm) →
          exec (row.1 d a imm) s = .next (s.retired fun t => t.setS d (row.2 (t.getS a) (imm.signExtend 64)))) ∧
      (∀ row ∈ ([(.aluiShl, fun x n => x <<< n), (.aluiShr, fun x n => x >>> n), (.aluiSar, fun x n => x.sshiftRight n)] :
          List ((SReg → SReg → BitVec 6 → Instr) × (Word → Nat → Word))),
        ∀ imm, s.clear (row.1 d a imm) →
          exec (row.1 d a imm) s = .next (s.retired fun t => t.setS d (row.2 (t.getS a) imm.toNat))) ∧
      ∀ imm : BitVec 21, s.clear (.lui d imm) →
        exec (.lui d imm) s = .next (s.retired fun t => t.setS d (imm.setWidth 64 <<< 43)))

/-- R100, R101: an mdv instruction is outstanding for 12 cycles (mulh, mulhu) or 70 cycles (division) at 64 bits, 8 or 38 at
32, and its result is the high half of the exact product, the quotient rounded toward zero or the remainder; division by
zero gives all ones and the dividend. -/
def Obligations.MdvResults : Prop :=
  ∀ row ∈ ([(.mdvMulh, 12, 8, fun w x y => BitVec.ofInt w (x.toInt * y.toInt / 2 ^ w)),
      (.mdvMulhu, 12, 8, fun w x y => BitVec.ofNat w (x.toNat * y.toNat / 2 ^ w)),
      (.mdvDiv, 70, 38, fun w x y => if y = 0 then BitVec.allOnes w else BitVec.ofInt w (x.toInt.tdiv y.toInt)),
      (.mdvDivu, 70, 38, fun w x y => if y = 0 then BitVec.allOnes w else BitVec.ofNat w (x.toNat / y.toNat)),
      (.mdvRem, 70, 38, fun w x y => if y = 0 then x else BitVec.ofInt w (x.toInt.tmod y.toInt)),
      (.mdvRemu, 70, 38, fun w x y => if y = 0 then x else BitVec.ofNat w (x.toNat % y.toNat))] :
      List ((SReg → SReg → SReg → Wd → BitVec 4 → Instr) × Nat × Nat × ((w : Nat) → BitVec w → BitVec w → BitVec w))),
    ∀ (s : State) (d a b : SReg) (la : BitVec 4),
      (s.clear (row.1 d a b .d la) → exec (row.1 d a b .d la) s = .next (s.issuedLong la [.s d] row.2.1
        { s := [(d, row.2.2.2 64 (s.th.getS a) (s.th.getS b))] })) ∧
      (s.clear (row.1 d a b .w la) → exec (row.1 d a b .w la) s = .next (s.issuedLong la [.s d] row.2.2.1
        { s := [(d, (row.2.2.2 32 ((s.th.getS a).setWidth 32) ((s.th.getS b).setWidth 32)).signExtend 64)] }))

/-- R102, R103: a comparison sets p[d] to whether s[a] stands in its relation to s[b], at 64 or 32 bits, or to SX(imm13,
64); the predicate functions set it to their function of p[a] and p[b]. -/
def Obligations.CompareResults : Prop :=
  let rel : List ((PReg → SReg → SReg → Wd → Instr) × (PReg → SReg → BitVec 13 → Instr) ×
      ((w : Nat) → BitVec w → BitVec w → Bool)) :=
    [(.cmpEq, .cmpiEq, fun _ x y => x == y), (.cmpNe, .cmpiNe, fun _ x y => x != y),
     (.cmpLt, .cmpiLt, fun _ x y => x.slt y), (.cmpGe, .cmpiGe, fun _ x y => y.sle x),
     (.cmpLtu, .cmpiLtu, fun _ x y => x.ult y), (.cmpGeu, .cmpiGeu, fun _ x y => y.ule x)]
  ∀ s : State,
    (∀ row ∈ rel, ∀ (d : PReg) (a b : SReg) (imm : BitVec 13),
      (s.clear (row.1 d a b .d) →
        exec (row.1 d a b .d) s = .next (s.retired fun t => t.setP d (row.2.2 64 (t.getS a) (t.getS b)))) ∧
      (s.clear (row.1 d a b .w) → exec (row.1 d a b .w) s =
        .next (s.retired fun t => t.setP d (row.2.2 32 ((t.getS a).setWidth 32) ((t.getS b).setWidth 32)))) ∧
      (s.clear (row.2.1 d a imm) →
        exec (row.2.1 d a imm) s = .next (s.retired fun t => t.setP d (row.2.2 64 (t.getS a) (imm.signExtend 64))))) ∧
    ∀ row ∈ ([(.cmpPand, fun x y => x && y), (.cmpPor, fun x y => x || y), (.cmpPxor, fun x y => x != y),
        (.cmpPandn, fun x y => x && !y)] : List ((PReg → PReg → PReg → Instr) × (Bool → Bool → Bool))),
      ∀ d a b : PReg, s.clear (row.1 d a b) →
        exec (row.1 d a b) s = .next (s.retired fun t => t.setP d (row.2 (t.getP a) (t.getP b)))

/-- R142, R143: a valu instruction writes every lane of v[d] with its function of the same lanes of v[a] and v[b], at the
lane width of its type and by the type's sign. -/
def Obligations.ValuResults : Prop :=
  let int (sg : Sgn) (w : Nat) (x : BitVec w) : Int := match sg with
    | .i => x.toInt
    | .n => (x.toNat : Int)
  let lo (sg : Sgn) (w : Nat) : Int := match sg with
    | .i => -(2 ^ (w - 1))
    | .n => 0
  let hi (sg : Sgn) (w : Nat) : Int := match sg with
    | .i => 2 ^ (w - 1) - 1
    | .n => 2 ^ w - 1
  ∀ row ∈ ([(.valuAdd, fun _ _ x y => x + y), (.valuSub, fun _ _ x y => x - y),
      (.valuAdds, fun sg w x y => BitVec.ofInt w (max (lo sg w) (min (hi sg w) (int sg w x + int sg w y)))),
      (.valuSubs, fun sg w x y => BitVec.ofInt w (max (lo sg w) (min (hi sg w) (int sg w x - int sg w y)))),
      (.valuMul, fun _ _ x y => x * y), (.valuMulh, fun sg w x y => BitVec.ofInt w (int sg w x * int sg w y / 2 ^ w)),
      (.valuMin, fun sg w x y => if int sg w y < int sg w x then y else x),
      (.valuMax, fun sg w x y => if int sg w x < int sg w y then y else x),
      (.valuAnd, fun _ _ x y => x &&& y), (.valuOr, fun _ _ x y => x ||| y), (.valuXor, fun _ _ x y => x ^^^ y),
      (.valuShl, fun _ w x y => x <<< (y.toNat % w)),
      (.valuShr, fun sg w x y => match sg with
        | .i => x.sshiftRight (y.toNat % w)
        | .n => x >>> (y.toNat % w)),
      (.valuCeq, fun _ w x y => if x = y then BitVec.allOnes w else 0),
      (.valuClt, fun sg w x y => if int sg w x < int sg w y then BitVec.allOnes w else 0)] :
      List ((VReg → VReg → VReg → Sgn → LaneW → Instr) × (Sgn → (w : Nat) → BitVec w → BitVec w → BitVec w))),
    ∀ (s : State) (d a b : VReg) (sg : Sgn) (lw : LaneW), s.clear (row.1 d a b sg lw) → ∃ x : V256,
      exec (row.1 d a b sg lw) s = .next (s.retired fun t => t.setV d x) ∧
      ∀ k < 256 / laneSize lw, lane (laneSize lw) x k =
        row.2 sg (laneSize lw) (lane (laneSize lw) (s.th.getV a) k) (lane (laneSize lw) (s.th.getV b) k)

/-- R137, R144 to R146: a vflt instruction of one slot writes the eight FP32 lanes of v[d] with its operation of the lanes
of v[a], v[b] and, for fma and fnma, v[d], rounded under its mode or k.frm, and ORs the flags of all lanes into k.fflags.
R147: vflt.div and vflt.sqrt are outstanding, with v[d] pending, and deliver the lanes and the flags 36 cycles after issue.
-/
def Obligations.VfltResults : Prop :=
  (
    let ln (v : V256) (k : Nat) : Nat := (lane 32 v k).toNat
    let mask (r : Bool × BitVec 5) : Nat × BitVec 5 := (if r.1 then 0xFFFF_FFFF else 0, r.2)
    let out (s : State) (d : VReg) (f : Nat → Nat × BitVec 5) : State :=
      s.retired fun t => (t.setV d (fpLanes f).1).addFlags (fpLanes f).2
    (∀ row ∈ ([(.vfltAdd, fun rm x y _ => fadd rm x y), (.vfltSub, fun rm x y _ => fsub rm x y),
        (.vfltMul, fun rm x y _ => fmul rm x y), (.vfltFma, fun rm x y z => ffma false rm x y z),
        (.vfltFnma, fun rm x y z => ffma true rm x y z)] :
        List ((VReg → VReg → VReg → RoundSel → Instr) × (RM → Nat → Nat → Nat → Nat × BitVec 5))),
      ∀ (s : State) (d a b : VReg) (rm : RoundSel), s.clear (row.1 d a b rm) →
        exec (row.1 d a b rm) s = .next (out s d fun k =>
          row.2 (rmOf rm s.th.frm) (ln (s.th.getV a) k) (ln (s.th.getV b) k) (ln (s.th.getV d) k))) ∧
    (∀ row ∈ ([(.vfltMin, fun x y => fminmax false x y), (.vfltMax, fun x y => fminmax true x y),
        (.vfltCeq, fun x y => mask (fcmp .ceq x y)), (.vfltClt, fun x y => mask (fcmp .clt x y)),
        (.vfltCle, fun x y => mask (fcmp .cle x y))] :
        List ((VReg → VReg → VReg → Instr) × (Nat → Nat → Nat × BitVec 5))),
      ∀ (s : State) (d a b : VReg), s.clear (row.1 d a b) →
        exec (row.1 d a b) s = .next (out s d fun k => row.2 (ln (s.th.getV a) k) (ln (s.th.getV b) k))) ∧
    ∀ (s : State) (d a : VReg),
      (s.clear (.vfltAbs d a) → ∃ x, exec (.vfltAbs d a) s = .next (s.retired fun t => t.setV d x) ∧
        ∀ j < 256, x.getLsbD j = (j % 32 != 31 && (s.th.getV a).getLsbD j)) ∧
      (s.clear (.vfltNeg d a) → ∃ x, exec (.vfltNeg d a) s = .next (s.retired fun t => t.setV d x) ∧
        ∀ j < 256, x.getLsbD j = ((j % 32 == 31) != (s.th.getV a).getLsbD j))) ∧
  (
    ∀ (s : State) (d a b : VReg) (rm : RoundSel) (la : BitVec 4),
      (s.clear (.vfltDiv d a b rm la) → exec (.vfltDiv d a b rm la) s = .next (
        let r := fpLanes fun k => fdiv (rmOf rm s.th.frm) (lane 32 (s.th.getV a) k).toNat (lane 32 (s.th.getV b) k).toNat
        s.issuedLong la [.v d] 36 { v := [(d, r.1)], flags := r.2 })) ∧
      (s.clear (.vfltSqrt d a rm la) → exec (.vfltSqrt d a rm la) s = .next (
        let r := fpLanes fun k => fsqrt (rmOf rm s.th.frm) (lane 32 (s.th.getV a) k).toNat
        s.issuedLong la [.v d] 36 { v := [(d, r.1)], flags := r.2 })))

/-- R150, R151: a vcvt conversion writes v[d] with the converted lanes of its sources (packed, widened, encoded or decoded
by the core's tables) and ORs the flags of the lanes into k.fflags. Where it shows a choice of the model, not a rule: log
92. -/
def Obligations.VcvtResults : Prop :=
  let ln (v : V256) (k : Nat) : Nat := (lane 32 v k).toNat
  let out (s : State) (d : VReg) (r : V256 × BitVec 5) : State := s.retired fun t => (t.setV d r.1).addFlags r.2
  let bits32 (r : Int × BitVec 5) : Nat × BitVec 5 := ((BitVec.ofInt 32 r.1).toNat, r.2)
  (∀ row ∈ ([(.vcvtToi, fun _ rm x => bits32 (toIntF rm (-(2 ^ 31)) (2 ^ 31 - 1) x)),
      (.vcvtTon, fun _ rm x => bits32 (toIntF rm 0 (2 ^ 32 - 1) x)),
      (.vcvtFri, fun _ rm x => roundInt f32F rm (BitVec.ofNat 32 x).toInt 0 false),
      (.vcvtFrn, fun _ rm x => roundInt f32F rm (x : Int) 0 false),
      (.vcvtTox, fun _ rm x => ((fromF32 x19F rm x).1 % 2 ^ 19 * 2 ^ 13, (fromF32 x19F rm x).2)),
      (.vcvtEnc8, fun c rm x => encodeTab c.t8 256 rm x), (.vcvtEnc4, fun c rm x => encodeTab c.t4 16 rm x)] :
      List ((VReg → VReg → RoundSel → Instr) × (Core → RM → Nat → Nat × BitVec 5))),
    ∀ (s : State) (d a : VReg) (rm : RoundSel), s.clear (row.1 d a rm) →
      exec (row.1 d a rm) s = .next (out s d (fpLanes fun k =>
        row.2 (s.core s.cur.tile s.cur.core) (rmOf rm s.th.frm) (ln (s.th.getV a) k)))) ∧
  (∀ row ∈ ([(.vcvtPkh, f16F), (.vcvtPkb, b16F)] : List ((VReg → VReg → VReg → RoundSel → Instr) × FFmt)),
    ∀ (s : State) (d a b : VReg) (rm : RoundSel), s.clear (row.1 d a b rm) →
      let r (k : Nat) := fromF32 row.2 (rmOf rm s.th.frm) (ln (s.th.getV (if k < 8 then a else b)) (k % 8))
      exec (row.1 d a b rm) s = .next (out s d (ofLanes 16 ((List.range 16).map fun k => BitVec.ofNat 16 (r k).1),
        (List.range 16).foldl (fun fl k => fl ||| (r k).2) 0))) ∧
  (∀ row ∈ ([(.vcvtUplh, 0, f16F), (.vcvtUphh, 8, f16F), (.vcvtUplb, 0, b16F), (.vcvtUphb, 8, b16F)] :
      List ((VReg → VReg → Instr) × Nat × FFmt)),
    ∀ (s : State) (d a : VReg), s.clear (row.1 d a) →
      exec (row.1 d a) s = .next (out s d (fpLanes fun k => toF32 row.2.2 (lane 16 (s.th.getV a) (k + row.2.1)).toNat))) ∧
  ∀ (s : State) (d a : VReg) (t : TblSel), s.clear (.vcvtDec d a t) → ∃ x,
    exec (.vcvtDec d a t) s = .next (s.retired fun h => h.setV d x) ∧
    ∀ k < 8, lane 32 x k = container (match t with
      | .t8 => tabEntry (s.core s.cur.tile s.cur.core).t8 (ln (s.th.getV a) k % 256)
      | .t4 => tabEntry (s.core s.cur.tile s.cur.core).t4 (ln (s.th.getV a) k % 16))

/-- R148, R149: a vred instruction writes s[d] with the reduction of the lanes of v[a]: the fixed tree for fadd, fmax and
fmin, with the flags of every node; the sum, the extreme or the bitwise function of the integer lanes. -/
def Obligations.VredResults : Prop :=
  (∀ row ∈ ([(fun d a rm => .vredFadd d a rm, fadd), (fun d a _ => .vredFmax d a, fun _ => fminmax true),
      (fun d a _ => .vredFmin d a, fun _ => fminmax false)] :
      List ((SReg → VReg → RoundSel → Instr) × (RM → Nat → Nat → Nat × BitVec 5))),
    ∀ (s : State) (d : SReg) (a : VReg) (rm : RoundSel), s.clear (row.1 d a rm) →
      let op := row.2 (rmOf rm s.th.frm)
      let l (k : Nat) : Nat := (lane 32 (s.th.getV a) k).toNat
      let t0 := op (l 0) (l 1)
      let t1 := op (l 2) (l 3)
      let t2 := op (l 4) (l 5)
      let t3 := op (l 6) (l 7)
      let u0 := op t0.1 t1.1
      let u1 := op t2.1 t3.1
      let r := op u0.1 u1.1
      exec (row.1 d a rm) s = .next (s.retired fun t => (t.setS d (BitVec.ofNat 64 r.1)).addFlags
        (t0.2 ||| t1.2 ||| t2.2 ||| t3.2 ||| u0.2 ||| u1.2 ||| r.2))) ∧
  (∀ (s : State) (d : SReg) (a : VReg) (sg : Sgn) (lw : LaneW),
    let ext (k : Nat) : Word := match sg with
      | .i => (lane (laneSize lw) (s.th.getV a) k).signExtend 64
      | .n => (lane (laneSize lw) (s.th.getV a) k).setWidth 64
    let ord (x : Word) : Int := match sg with
      | .i => x.toInt
      | .n => (x.toNat : Int)
    (s.clear (.vredAdd d a sg lw) → exec (.vredAdd d a sg lw) s = .next (s.retired fun t =>
      t.setS d (((List.range (256 / laneSize lw)).map ext).foldl (· + ·) 0))) ∧
    (s.clear (.vredMax d a sg lw) → ∃ j < 256 / laneSize lw,
      exec (.vredMax d a sg lw) s = .next (s.retired fun t => t.setS d (ext j)) ∧
      ∀ k < 256 / laneSize lw, ord (ext k) ≤ ord (ext j)) ∧
    (s.clear (.vredMin d a sg lw) → ∃ j < 256 / laneSize lw,
      exec (.vredMin d a sg lw) s = .next (s.retired fun t => t.setS d (ext j)) ∧
      ∀ k < 256 / laneSize lw, ord (ext j) ≤ ord (ext k))) ∧
  ∀ row ∈ ([(.vredAnd, fun x y => x &&& y), (.vredOr, fun x y => x ||| y), (.vredXor, fun x y => x ^^^ y)] :
      List ((SReg → VReg → Instr) × (Word → Word → Word))),
    ∀ (s : State) (d : SReg) (a : VReg), s.clear (row.1 d a) →
      let l (k : Nat) : Word := lane 64 (s.th.getV a) k
      exec (row.1 d a) s = .next (s.retired fun t => t.setS d (row.2 (row.2 (row.2 (l 0) (l 1)) (l 2)) (l 3)))

/-- R153, R154: a vmov instruction moves lanes: a copy, a splat, one lane in or out (index modulo the lane count), a
permutation, slides with zeros, a bitwise selection by v[d], and the tests any and all. -/
def Obligations.VmovResults : Prop :=
  ∀ s : State,
    (∀ d a : VReg, s.clear (.vmovMov d a) → exec (.vmovMov d a) s = .next (s.retired fun t => t.setV d (t.getV a))) ∧
    (∀ d a b : VReg, s.clear (.vmovSel d a b) → ∃ x, exec (.vmovSel d a b) s = .next (s.retired fun t => t.setV d x) ∧
      ∀ j < 256, x.getLsbD j = if (s.th.getV d).getLsbD j then (s.th.getV a).getLsbD j else (s.th.getV b).getLsbD j) ∧
    (∀ (d : PReg) (a : VReg), s.clear (.vmovAny d a) →
      exec (.vmovAny d a) s = .next (s.retired fun t => t.setP d (t.getV a != 0))) ∧
    ∀ lw : LaneW,
      let w := laneSize lw
      let n := 256 / w
      let writesV (i : Instr) (d : VReg) (f : Nat → BitVec w) : Prop :=
        s.clear i → ∃ x, exec i s = .next (s.retired fun t => t.setV d x) ∧ ∀ k < n, lane w x k = f k
      (∀ (d : VReg) (a : SReg), writesV (.vmovSplat d a lw) d fun _ => (s.th.getS a).setWidth w) ∧
      (∀ (d : VReg) (a b : SReg), writesV (.vmovIns d a b lw) d fun k =>
        if k = (s.th.getS b).toNat % n then (s.th.getS a).setWidth w else lane w (s.th.getV d) k) ∧
      (∀ d a b : VReg, writesV (.vmovPerm d a b lw) d fun k => lane w (s.th.getV a) ((lane w (s.th.getV b) k).toNat % n)) ∧
      (∀ (d a : VReg) (b : SReg), writesV (.vmovSlup d a b lw) d fun k =>
        if (s.th.getS b).toNat ≤ k then lane w (s.th.getV a) (k - (s.th.getS b).toNat) else 0) ∧
      (∀ (d a : VReg) (b : SReg), writesV (.vmovSldn d a b lw) d fun k =>
        if k + (s.th.getS b).toNat < n then lane w (s.th.getV a) (k + (s.th.getS b).toNat) else 0) ∧
      (∀ (d : SReg) (a : VReg) (b : SReg), s.clear (.vmovExt d a b lw) → exec (.vmovExt d a b lw) s =
        .next (s.retired fun t => t.setS d ((lane w (t.getV a) ((t.getS b).toNat % n)).signExtend 64))) ∧
      (∀ (d : SReg) (a : VReg) (b : SReg), s.clear (.vmovExtu d a b lw) → exec (.vmovExtu d a b lw) s =
        .next (s.retired fun t => t.setS d ((lane w (t.getV a) ((t.getS b).toNat % n)).setWidth 64))) ∧
      (∀ (d : PReg) (a : VReg), s.clear (.vmovAll d a lw) → ∃ b, exec (.vmovAll d a lw) s =
        .next (s.retired fun t => t.setP d b) ∧ (b = true ↔ ∀ k < n, lane w (s.th.getV a) k ≠ 0))

/-! ## Control transfers, loops, traps, control registers (spec/01, spec/04) -/

/-- R104 to R106: a branch whose condition holds, a jump and a call transfer to PC + 4 + SX(offset)·4, sys.jr and sys.callr
to s[a]; a call writes s31 with the return address after reading s[a]; a branch whose condition does not hold falls through.
R107: a taken transfer to a target that is not a multiple of 4 raises ALIGN, one to a target outside the code segment raises
PROT, precise on the transfer with the target as trap value and without effect. R111, R112: a taken transfer out of the body
of an active loop deactivates it (only its active bit changes); in a handler none changes. R17: the target is held while the
pending set is not empty. -/
def Obligations.Transfers : Prop :=
  (
    let taken (s : State) (i : Instr) (f : Thread → Thread) (tgt : Word) : Prop :=
      s.clear i → s.targetOk tgt → exec i s = .next (s.transferred f tgt)
    let link (s : State) (t : Thread) : Thread := t.setS 31 (s.th.pc + 4)
    (∀ (s : State) (off : BitVec 16) (p : PReg) (a : SReg),
      let tgt : Word := s.th.pc + 4 + (off.signExtend 64) * 4
      ∀ row ∈ ([(.brT p off, s.th.getP p), (.brF p off, !s.th.getP p), (.brNz a off, decide (s.th.getS a ≠ 0)),
          (.brZ a off, decide (s.th.getS a = 0))] : List (Instr × Bool)),
        (row.2 = true → taken s row.1 id tgt) ∧
        (row.2 = false → s.clear row.1 → exec row.1 s = .next (s.retired id))) ∧
    ∀ (s : State) (off : BitVec 26) (a : SReg),
      let tgt : Word := s.th.pc + 4 + (off.signExtend 64) * 4
      taken s (.jmp off) id tgt ∧ taken s (.call off) (link s) tgt ∧
      taken s (.sysJr a) id (s.th.getS a) ∧ taken s (.sysCallr a) (link s) (s.th.getS a)) ∧
  (
    ∀ (s : State) (off : BitVec 16) (off26 : BitVec 26) (p : PReg) (a : SReg),
      let rel : Word := s.th.pc + 4 + (off.signExtend 64) * 4
      let rel26 : Word := s.th.pc + 4 + (off26.signExtend 64) * 4
      ∀ row ∈ ([(.brT p off, rel, s.th.getP p), (.brF p off, rel, !s.th.getP p),
          (.brNz a off, rel, decide (s.th.getS a ≠ 0)), (.brZ a off, rel, decide (s.th.getS a = 0)),
          (.jmp off26, rel26, true), (.call off26, rel26, true), (.sysJr a, s.th.getS a, true),
          (.sysCallr a, s.th.getS a, true)] : List (Instr × Word × Bool)),
        s.clear row.1 → row.2.2 = true →
          (row.2.1.toNat % 4 ≠ 0 → exec row.1 s = .next (s.trap .align row.2.1)) ∧
          (row.2.1.toNat % 4 = 0 → (s.launch s.cur.tile).csize ≤ row.2.1.toNat →
            exec row.1 s = .next (s.trap .prot row.2.1))) ∧
  (
    ∀ (t : Thread) (tgt : Word),
      let t' := (t.leaveLoops tgt).goto tgt
      t'.pc = tgt ∧ t'.held = t.busy ∧ t'.s = t.s ∧ t'.v = t.v ∧ t'.p = t.p ∧
      ∀ outer : Bool,
        let l := t.loopLvl outer
        t'.loopLvl outer = { l with active := l.active && (t.ih || (decide (l.start ≤ tgt.toNat) && decide (tgt.toNat ≤ l.last))) })

/-- R108, R109: a loop instruction that passes its checks activates its level with the count, the start and the end of its
body and goes on at the start; with count 0 it skips the body. One that fails them raises LOOP. R24, R108: the fields of a
loop level hold what is put into them, and leave the other level alone. R110, R112: after the last instruction of an active
loop's body the count falls and the start follows, or the loop ends and the outer one is handled if its body ends there too;
in a handler nothing of this happens. Where it shows a choice of the model, not a rule: log 31, log 93. -/
def Obligations.HardwareLoops : Prop :=
  (
    ∀ (s : State) (a : SReg) (imm : BitVec 13),
      let t := s.th
      let A := t.pc.toNat
      let last := A + 4 + 4 * imm.toNat
      let inn := t.loopLvl false
      let out := t.loopLvl true
      let count := (t.getS a).toNat % 2 ^ 32
      let skip : Word := BitVec.ofNat 64 (last + 4)
      ∀ row ∈ ([(false, .loopIn a imm, !inn.active && (!out.active ||
            (decide (last ≤ out.last) && decide (out.start ≤ A) && decide (A ≤ out.last)))),
          (true, .loopOut a imm, !inn.active && !out.active)] : List (Bool × Instr × Bool)),
        s.clear row.2.1 →
          (row.2.2 = true → (s.countIssue false).loopEndOk last = true →
            (count ≠ 0 → exec row.2.1 s = .next ((s.countIssue false).modTh fun t =>
              { t.setLoop row.1 ⟨count, A + 4, last, true⟩ with pc := t.pc + 4 })) ∧
            (count = 0 → s.targetOk skip → ¬(row.1 = false ∧ t.ih = false ∧ out.active = true ∧ out.last = last) →
              exec row.2.1 s = .next ((s.countIssue false).modTh fun t => t.goto skip)) ∧
            (count = 0 → s.targetOk skip → row.1 = false → t.ih = false → out.active = true → out.last = last →
              exec row.2.1 s = .next ((s.countIssue false).modTh fun t =>
                if 1 < out.cnt then (t.setLoop true { out with cnt := out.cnt - 1 }).goto (BitVec.ofNat 64 out.start)
                else (t.setLoop true { out with cnt := 0, active := false }).goto skip))) ∧
          (row.2.2 = false ∨ (s.countIssue false).loopEndOk last = false →
            ∃ w, encodeWord row.2.1 = some w ∧ exec row.2.1 s = .next (s.trap .loop (w.setWidth 64)))) ∧
  (
    ∀ (t : Thread) (outer : Bool) (l : LoopLvl), l.cnt < 2 ^ 32 → l.start < 2 ^ 32 → l.last < 2 ^ 32 → l.last % 4 = 0 →
      (t.setLoop outer l).loopLvl outer = l ∧ (t.setLoop outer l).loopLvl (!outer) = t.loopLvl (!outer)) ∧
  (
    ∀ s : State, s.clear .sysNop → ∃ s', exec .sysNop s = .next s' ∧
      let t := s.th
      let t' := s'.th
      let inn := t.loopLvl false
      let out := t.loopLvl true
      let inEnds : Bool := !t.ih && inn.active && decide (inn.last = t.pc.toNat)
      let outEnds : Bool := !t.ih && out.active && decide (out.last = t.pc.toNat)
      (inEnds = false ∧ outEnds = false → t'.pc = t.pc + 4 ∧ t'.loopLvl false = inn ∧ t'.loopLvl true = out) ∧
      (inEnds = true ∧ 1 < inn.cnt → t'.pc = BitVec.ofNat 64 inn.start ∧ t'.held = t.busy ∧
        t'.loopLvl false = { inn with cnt := inn.cnt - 1 } ∧ t'.loopLvl true = out) ∧
      (inEnds = true ∧ inn.cnt ≤ 1 → t'.loopLvl false = { inn with cnt := 0, active := false }) ∧
      (inEnds = true ∧ inn.cnt ≤ 1 ∧ outEnds = false → t'.pc = t.pc + 4 ∧ t'.loopLvl true = out) ∧
      ((inEnds = false ∨ inn.cnt ≤ 1) ∧ outEnds = true ∧ 1 < out.cnt → t'.pc = BitVec.ofNat 64 out.start ∧
        t'.held = t.busy ∧ t'.loopLvl true = { out with cnt := out.cnt - 1 }) ∧
      ((inEnds = false ∨ inn.cnt ≤ 1) ∧ outEnds = true ∧ out.cnt ≤ 1 → t'.pc = t.pc + 4 ∧
        t'.loopLvl true = { out with cnt := 0, active := false }))

/-- R18, R19: a precise trap of a thread with nothing outstanding saves the instruction, the return address, the cause and
the value, and goes to the handler of k.tvec with IH set; without a handler, or in one, a DOUBLE-TRAP report is made and the
thread stops, or, R119, meets its cancellation end when its unit is being cancelled. The registers keep their values and a reservation is revoked. R116: sys.break and sys.scall raise BREAK and
SYSCALL as precise traps with their word as trap value; sys.nop does nothing. R117, R118, R20: sys.tret in a handler waits
until nothing of its thread is outstanding, then goes to k.tpc and clears IH, as a transfer that changes no loop; with no
CANCEL or other trap held it is only that. A target that fails the check of R107 traps on the sys.tret. In the clean-up of a
cancelled unit sys.tret and sys.cxend end the unit. Outside a handler, and outside a clean-up, they are ILLEGAL. Where it
shows a choice of the model, not a rule: log 96. -/
def Obligations.TrapsAndReturn : Prop :=
  (
    ∀ (s : State) (c : Cause) (v : Word), s.th.outst = [] → s.th.laidOff = [] →
      let tvec := (s.launch s.cur.tile).tvec &&& ~~~3
      let t := s.th
      let s' := s.trap c v
      let t' := s'.th
      t'.tinst = t.pc ∧ t'.tpc = (if c = .brk ∨ c = .syscall then t.pc + 4 else t.pc) ∧ t'.tval = v ∧
      t'.tcause = c.code.setWidth 64 ∧ t'.s = t.s ∧ t'.v = t.v ∧ t'.p = t.p ∧ t'.resv = none ∧ t'.fflags = t.fflags ∧
      t'.loopcnt = t.loopcnt ∧ t'.loopstart = t.loopstart ∧ t'.loopend = t.loopend ∧
      (t.ih = false → tvec ≠ 0 → t'.ih = true ∧ t'.pc = tvec ∧ t'.st = .running ∧ s'.reports = s.reports) ∧
      (t.ih = true ∨ tvec = 0 →
        s'.reports = s.reports ++ [⟨s.cur.tile, 2, BitVec.ofNat 64 (16 * s.cur.core.val + s.cur.thr.val), 0, none⟩] ∧
        (t.cxh = false → t.hcx = false → c ≠ .cancel → t'.st = .stopped) ∧
        (t.cxh = true ∨ t.hcx = true ∨ c = .cancel → t'.st = .suspending ∧ t'.susp = some .cancelEnd)) ∧
      s'.parts = s.parts ∧ s'.host = s.host ∧ s'.hostFog = s.hostFog ∧ s'.agenda = s.agenda ∧
      (∀ tile core, (s'.core tile core).lm = (s.core tile core).lm) ∧ ∀ r, r ≠ s.cur → s'.thread r = s.thread r) ∧
  (
    ∀ (s : State) (code : BitVec 10),
      (∀ row ∈ ([(.sysBreak code, .brk), (.sysScall code, .syscall)] : List (Instr × Cause)), s.clear row.1 →
        ∃ w, encodeWord row.1 = some w ∧ exec row.1 s = .next (s.trap row.2 (w.setWidth 64))) ∧
      (s.clear .sysNop → exec .sysNop s = .next (s.retired id))) ∧
  (
    ∀ s : State,
      let suspended (x : Suspend) : State := (s.countIssue false).modTh fun t => { t with st := .suspending, susp := some x }
      let live : Prop := s.th.cxh = false ∨ 1 < s.th.budget
      (s.clear .sysTret →
        (s.th.ih = true → live → s.th.outst ≠ [] → exec .sysTret s = .next (suspended .tret)) ∧
        (s.th.ih = true → s.th.cxh = true → s.th.budget ≤ 1 → s.th.outst ≠ [] →
          exec .sysTret s = .next (suspended .cancelEnd)) ∧
        (s.th.ih = true → live → s.th.outst = [] →
          (s.targetOk s.th.tpc → s.th.cxh = false → s.th.hcx = false → s.th.heldAsync = [] →
            exec .sysTret s = .next ((s.countIssue false).modTh fun t =>
              { (t.goto t.tpc) with st := .running, susp := none, ih := false })) ∧
          (s.targetOk s.th.tpc → s.th.cxh = true → exec .sysTret s = .next (suspended .cancelEnd)) ∧
          (∀ c, targetFault (s.launch s.cur.tile).csize s.th.tpc = some c → exec .sysTret s = .next
            (((s.countIssue false).modTh fun t => { t with st := .running, susp := none }).trap c s.th.tpc))) ∧
        (s.th.ih = false → ∃ w, encodeWord .sysTret = some w ∧ exec .sysTret s = .next (s.trap .illegal (w.setWidth 64)))) ∧
      (s.clear .sysCxend →
        (s.th.cxh = true → exec .sysCxend s = .next ((s.countIssue false).beginSuspend s.cur .cancelEnd)) ∧
        (s.th.cxh = false → ∃ w, encodeWord .sysCxend = some w ∧ exec .sysCxend s = .next (s.trap .illegal (w.setWidth 64)))))

/-- R113, R24 to R31: kreg.rd writes s[d] with the control register: the identifiers, counters and clocks of the tile and
the launch, and the thread's own registers, with their reserved bits 0. -/
def Obligations.ControlRegisterReads : Prop :=
  ∀ row ∈ ([(.tile, fun s => BitVec.ofNat 64 (s.cur.tile % 0x2000)), (.core, fun s => BitVec.ofNat 64 s.cur.core.val),
      (.thread, fun s => BitVec.ofNat 64 s.cur.thr.val), (.deck, fun s => BitVec.ofNat 64 (s.cur.tile / 1024 % 8)),
      (.part, fun s => BitVec.ofNat 64 (s.launch s.cur.tile).part), (.period, fun s => (s.tile s.cur.tile).kperiod.setWidth 64),
      (.act, fun s => (s.tile s.cur.tile).kact), (.drift, fun s => BitVec.ofNat 64 ((s.launch s.cur.tile).drift % 2 ^ 24)),
      (.driftalarm, fun s => BitVec.ofNat 64 ((s.tile s.cur.tile).alarmCount.toNat * 2 ^ 16 + (s.tile s.cur.tile).alarm.toNat)),
      (.overrun, fun s => (s.tile s.cur.tile).koverrun.setWidth 64), (.clock, fun s => BitVec.ofNat 64 s.clock),
      (.tcyc, fun s => BitVec.ofNat 64 (s.now s.cur.tile)), (.tbm, fun s => s.th.tbm &&& 0x00FF_FFFF_FFFF_FFFF),
      (.fflags, fun s => s.th.fflags.setWidth 64), (.frm, fun s => s.th.frm.setWidth 64),
      (.tvec, fun s => (s.launch s.cur.tile).tvec &&& ~~~3), (.tpc, fun s => s.th.tpc), (.tinst, fun s => s.th.tinst),
      (.tcause, fun s => s.th.tcause &&& 0xFFFF_01FF), (.tval, fun s => s.th.tval),
      (.tstat, fun s => BitVec.ofNat 64 (s.th.ih.toNat + 2 * s.th.hcx.toNat + 4 * s.th.cxh.toNat)),
      (.loopcnt, fun s => s.th.loopcnt), (.loopstart, fun s => s.th.loopstart),
      (.loopend, fun s => s.th.loopend &&& 0xFFFF_FFFD_FFFF_FFFD), (.mxw, fun s => (s.tile s.cur.tile).kmxw.setWidth 64),
      (.seed, fun s => (s.launch s.cur.tile).seed),
      (.epoch, fun s => (s.ctx (s.launch s.cur.tile).part (s.launch s.cur.tile).ctx).epoch.setWidth 64)] :
      List (KReg × (State → Word))),
    ∀ (s : State) (d : SReg), s.clear (.kregRd d row.1) →
      exec (.kregRd d row.1) s = .next (s.retired fun t => t.setS d (row.2 s))

/-- R113, R115, R24: kreg.wr, kreg.set and kreg.clr write an RW register with s[a], its value or s[a], its value and not
s[a]; the loop registers from the next instruction on, when an active loop keeps the geometry of R108 (R112), else LOOP is
raised; k.driftalarm is cleared by a 1; a management thread writes k.tvec and k.mxw for its tile. R115: a write to a
read-only register, a set or clear of a register that is not RW, and a program thread's write to k.tvec or k.mxw raise PRIV
with the word of the instruction. Where it shows a choice of the model, not a rule: log 85, log 93. -/
def Obligations.ControlRegisterWrites : Prop :=
  (
    ∀ (s : State) (a : SReg),
      let x := s.th.getS a
      let forms (k : KReg) (old : Word) : List (Instr × Word) :=
        [(.kregWr a k, x), (.kregSet a k, old ||| x), (.kregClr a k, old &&& ~~~x)]
      (∀ row ∈ ([(.tbm, fun t => t.tbm &&& 0x00FF_FFFF_FFFF_FFFF, fun y t => { t with tbm := y &&& 0x00FF_FFFF_FFFF_FFFF }),
          (.fflags, fun t => t.fflags.setWidth 64, fun y t => { t with fflags := y.setWidth 5 }),
          (.frm, fun t => t.frm.setWidth 64, fun y t => { t with frm := y.setWidth 2 }),
          (.tpc, fun t => t.tpc, fun y t => { t with tpc := y }), (.tinst, fun t => t.tinst, fun y t => { t with tinst := y }),
          (.tcause, fun t => t.tcause &&& 0xFFFF_01FF, fun y t => { t with tcause := y &&& 0xFFFF_01FF }),
          (.tval, fun t => t.tval, fun y t => { t with tval := y })] :
          List (KReg × (Thread → Word) × (Word → Thread → Thread))),
        ∀ f ∈ forms row.1 (row.2.1 s.th), s.clear f.1 → exec f.1 s = .next (s.retired (row.2.2 f.2))) ∧
      (∀ row ∈ ([(.loopcnt, fun t => t.loopcnt, fun y t => { t with loopcnt := y }),
          (.loopstart, fun t => t.loopstart, fun y t => { t with loopstart := y }),
          (.loopend, fun t => t.loopend &&& 0xFFFF_FFFD_FFFF_FFFD, fun y t => { t with loopend := y &&& 0xFFFF_FFFD_FFFF_FFFD })] :
          List (KReg × (Thread → Word) × (Word → Thread → Thread))),
        ∀ f ∈ forms row.1 (row.2.1 s.th), s.clear f.1 →
          let s1 := s.countIssue false
          (s1.loopGeomOk (row.2.2 f.2 s1.th) = true →
            exec f.1 s = .next (s1.modTh fun t => row.2.2 f.2 (t.advanceFrom t.pc))) ∧
          (s1.loopGeomOk (row.2.2 f.2 s1.th) = false →
            ∃ w, encodeWord f.1 = some w ∧ exec f.1 s = .next (s.trap .loop (w.setWidth 64)))) ∧
      (s.clear (.kregWr a .driftalarm) → ∃ s', exec (.kregWr a .driftalarm) s = .next s' ∧
        (s'.tile s.cur.tile).alarm = ((s.tile s.cur.tile).alarm && !x.getLsbD 0) ∧
        (s'.tile s.cur.tile).alarmCount = (s.tile s.cur.tile).alarmCount) ∧
      ((s.launch s.cur.tile).mgmt = true → (s.tile s.cur.tile).launch.isSome →
        (s.clear (.kregWr a .tvec) → ∃ s', exec (.kregWr a .tvec) s = .next s' ∧
          (s'.launch s.cur.tile).tvec = x &&& ~~~3 ∧ (s'.tile s.cur.tile).kmxw = (s.tile s.cur.tile).kmxw) ∧
        (s.clear (.kregWr a .mxw) → ∃ s', exec (.kregWr a .mxw) s = .next s' ∧
          (s'.tile s.cur.tile).kmxw = x.setWidth 32 ∧ s'.launch s.cur.tile = s.launch s.cur.tile))) ∧
  (
    let ro : List KReg := [.tile, .core, .thread, .deck, .part, .period, .act, .drift, .overrun, .clock, .tcyc, .tstat, .seed, .epoch]
    let priv (s : State) (i : Instr) : Prop :=
      s.clear i → ∃ w, encodeWord i = some w ∧ exec i s = .next (s.trap .priv (w.setWidth 64))
    ∀ (s : State) (a : SReg),
      (∀ k ∈ ro, priv s (.kregWr a k)) ∧
      (∀ k ∈ ro ++ [.driftalarm, .tvec, .mxw], priv s (.kregSet a k) ∧ priv s (.kregClr a k)) ∧
      ((s.launch s.cur.tile).mgmt = false → ∀ k ∈ ([.tvec, .mxw] : List KReg), priv s (.kregWr a k)))

/-! ## Units of work (spec/04 R120 to R136) -/

/-- R120, R127 to R129: a thread with nothing outstanding that yields leaves its slot Empty and its record (the next
address, the state words with the retry mark, the predicates, s1 to s12) at the top of its deque; one with something
outstanding is Suspending until nothing is. A park and a join make their thread Suspending; when the suspension is due, a
park on a word that has not been written, and a join of a counter that is not 0 at its port, leave the slot Empty and the
record (for join its own address) in the park table, or as a yield when that is full; a park on a word that has been
written, and a join of a counter at 0, go on. R119, R121, R134: the record of a cancelled unit carries its mark (cx); such a unit
meets its cancellation end where it would park, and the 256th instruction of a clean-up suspends nothing: the unit meets its end.
R164: a join is tested after the unit's earlier accesses of the counter's bank. R112, R195: yield, park and join while a loop is active raise LOOP, while a
register is bound STREAM; R128, R129: a park address that is misaligned or no own-core local word, and a counter operand
that names no counter, trap. Where it shows a choice of the model, not a rule: log 36, log 40, log 93, log 95, log 98. -/
def Obligations.Suspensions : Prop :=
  (
    ∀ (s : State) (a : SReg),
      let t := s.th
      let x := t.getS a
      let core (s : State) : Core := s.core s.cur.tile s.cur.core
      let free (i : Instr) : Prop := s.clear i ∧ t.binds = [] ∧ (t.loopLvl false).active = false ∧ (t.loopLvl true).active = false
      let can (i : Instr) : Prop := free i ∧ (t.cxh = false ∨ 1 < t.budget)
      let cancelled : Bool := t.cxh || t.hcx
      let record (pc : Word) (rw : Bool) (e : Entry) : Prop :=
        e.frame = none ∧ e.w[0] = pc.setWidth 32 ∧ e.w[2] = t.w2 ∧
        (∀ j < 32, e.w[1].getLsbD j = if j = 12 then rw else t.w1.getLsbD j || (decide (j = 10) && cancelled)) ∧
        (∀ j < 32, e.w[3].getLsbD j = if j = 0 then false else if j < 8 then t.getP (BitVec.ofNat 3 j) else t.w3.getLsbD j) ∧
        ∀ i : Fin 12, e.w[4 + i.val] = (t.getS (BitVec.ofNat 5 (i.val + 1))).setWidth 32
      let inSpill (tile : Nat) (k : Fin 8) (b : Nat) : Prop :=
        tile = s.cur.tile ∧ k = s.cur.core ∧ (core s).area ≤ b ∧ b < (core s).area + 64 * 512
      let left (s' : State) : Prop := s'.th.st = .empty ∧ s'.cur = s.cur ∧ (∀ r, r ≠ s.cur → s'.thread r = s.thread r) ∧
        ∀ tile k b, ¬ inSpill tile k b → (s'.core tile k).lm.readByte b = (s.core tile k).lm.readByte b
      let yields (s' : State) (pc : Word) (rw : Bool) : Prop := ∃ e, left s' ∧ record pc rw e ∧
        (core s').deque = (core s).deque.set (prioOf e.w[1]) ((core s).deque[prioOf e.w[1]] ++ [e]) ∧
        (core s').park = (core s).park
      let parks (s' : State) (k : ParkKey) (pc : Word) (rw : Bool) : Prop := ∃ e, left s' ∧
        record pc rw e ∧ (core s').park = (core s).park ++ [(k, e)] ∧ (core s').deque = (core s).deque
      let suspended (x : Suspend) (t : Thread) : Thread := { t with st := .suspending, susp := some x }
      let word := (lmPlace (s.launch s.cur.tile) x).off / 4
      let wf := (core s).lm.wf = true
      (can .taskYield →
        (t.outst = [] → wf → ∃ s', exec .taskYield s = .next s' ∧ yields s' (t.pc + 4) false) ∧
        (t.outst ≠ [] → exec .taskYield s = .next ((s.countIssue false).modTh (suspended .yield)))) ∧
      (can (.taskPark a) → x.toNat % 4 = 0 → ownLm (s.launch s.cur.tile) s.cur.tile x 4 = true → amCore x = s.cur.core →
        (t.outst ≠ [] → exec (.taskPark a) s = .next ((s.countIssue false).modTh (suspended (.park word)))) ∧
        (t.outst = [] → t.watch = some word → exec (.taskPark a) s = .next ((s.countIssue false).modTh (suspended (.park word)))) ∧
        (t.outst = [] → t.watch ≠ some word → exec (.taskPark a) s =
          .next ((s.countIssue false).modTh fun t => suspended (.park word) { t with watch := some word, ready := false }))) ∧
      (can (.taskJoin a) →
        (x = 0 → exec (.taskJoin a) s = .next (s.retired id)) ∧
        (x ≠ 0 → counterOk x = true →
          exec (.taskJoin a) s = .next ((s.countIssue false).modTh (suspended (.join x.toNat none))))) ∧
      ((∀ i ∈ ([.taskYield, .taskPark a, .taskRetire a] : List Instr), free i → t.cxh = true → t.budget ≤ 1 → t.outst ≠ [] →
          (i = .taskPark a → x.toNat % 4 = 0 ∧ ownLm (s.launch s.cur.tile) s.cur.tile x 4 = true ∧ amCore x = s.cur.core) →
          exec i s = .next ((s.countIssue false).modTh (suspended .cancelEnd))) ∧
        (free .taskYield → t.cxh = true → t.budget ≤ 1 → t.outst = [] →
          exec .taskYield s = .next (((s.countIssue false).modTh (suspended .cancelEnd)).cancelEnd s.cur))) ∧
      (∀ w : Nat, t.binds = [] →
        (t.ready = false ∨ t.watch ≠ some w → cancelled = false → (core s).park.length < 64 → wf →
          parks (s.suspend s.cur (.park w)) (.word w) (t.pc + 4) false) ∧
        (t.ready = false ∨ t.watch ≠ some w → cancelled = false → 64 ≤ (core s).park.length → wf →
          yields (s.suspend s.cur (.park w)) (t.pc + 4) false) ∧
        (t.ready = false ∨ t.watch ≠ some w → cancelled = true → s.suspend s.cur (.park w) = s.cancelEnd s.cur) ∧
        (t.ready = true → t.watch = some w → s.suspend s.cur (.park w) = s.modTh fun t =>
          { t with st := .running, susp := none, ready := false, watch := none }.advanceFrom t.pc)) ∧
      (∀ c n : Nat, t.binds = [] →
        (s.suspend s.cur (.join c none) = s.modTh fun t =>
          { t with susp := some (.join c (some (s.now s.cur.tile + s.portReach s.cur (ctrCore c)))) }) ∧
        ((s.tile s.cur.tile).unperformed t.owner (ctrBank c) = true → s.suspend s.cur (.join c (some n)) = s) ∧
        ((s.tile s.cur.tile).unperformed t.owner (ctrBank c) = false →
        (s.ctr s.cur.tile c % 2 ^ 63 ≠ 0 → cancelled = false → (core s).park.length < 64 → wf →
          parks (s.suspend s.cur (.join c (some n))) (.counter c) t.pc true) ∧
        (s.ctr s.cur.tile c % 2 ^ 63 ≠ 0 → cancelled = false → 64 ≤ (core s).park.length → wf →
          yields (s.suspend s.cur (.join c (some n))) t.pc true) ∧
        (s.ctr s.cur.tile c % 2 ^ 63 ≠ 0 → cancelled = true → s.suspend s.cur (.join c (some n)) = s.cancelEnd s.cur) ∧
        (s.ctr s.cur.tile c % 2 ^ 63 = 0 → s.cur.core = ctrCore c → s.suspend s.cur (.join c (some n)) = s.modTh fun t =>
          { t with st := .running, susp := none, notBefore := s.now s.cur.tile }.advanceFrom t.pc))) ∧
      ∀ k : Suspend, t.st = .suspending → t.susp = some k → k ≠ .waitPark → t.outst = [] → t.cxWait = false →
        k.due (s.now s.cur.tile) s.cur.thr = true → (s.pollSettle s.cur).1 = s.suspend s.cur k) ∧
  (
    ∀ (s : State) (a : SReg),
      let t := s.th
      let x := t.getS a
      let looping : Bool := (t.loopLvl false).active || (t.loopLvl true).active
      (∀ i ∈ ([.taskYield, .taskPark a, .taskJoin a] : List Instr), s.clear i → ∃ w, encodeWord i = some w ∧
        (looping = true → exec i s = .next (s.trap .loop (w.setWidth 64))) ∧
        (looping = false → t.binds ≠ [] → exec i s = .next (s.trap .stream (w.setWidth 64)))) ∧
      (looping = false → t.binds = [] →
        (s.clear (.taskPark a) →
          (x.toNat % 4 ≠ 0 → exec (.taskPark a) s = .next (s.trap .align x)) ∧
          (x.toNat % 4 = 0 → ownLm (s.launch s.cur.tile) s.cur.tile x 4 = false ∨ amCore x ≠ s.cur.core →
            exec (.taskPark a) s = .next (s.trap .xscope x))) ∧
        (s.clear (.taskJoin a) → x ≠ 0 → counterOk x = false → exec (.taskJoin a) s = .next (s.trap .xscope x))))

/-- R130, R132: task.retire of a thread with nothing outstanding completes in its own step: the slot is Empty, the decrement of
the unit's completion counter is on its way to the counter's home port, where the count falls by 1 modulo 2^63 and keeps its mark, a
root's end is counted, and the value of a call-at unit goes
to its caller's send queue. With something outstanding, or with that queue full, the thread is Suspending, to retire later.
R134, R123: task.cancel completes: it goes on with its result outstanding. At level 0 the result, 1, or 0 when no counter is
named, is due within 24 cycles and the counter's units are cancelled at its home port; a value that names no counter raises XSCOPE.
At levels 1 to 7 it is due within 1,500 cycles and says whether the record was cancelled. R119, R133, R134: the cancellation
of a counter sets its mark and keeps its count, and every running or waiting unit of it receives CANCEL. Where it shows a
choice of the model, not a rule: log 10, log 40, log 74. -/
def Obligations.RetirementAndCancels : Prop :=
  (
    ∀ (s : State) (a : SReg), s.clear (.taskRetire a) → s.th.cxh = false ∨ 1 < s.th.budget →
      let t := s.th
      let tile := s.cur.tile
      let owed := t.w3.getLsbD 15
      let dst : Fin 8 := (t.w3.extractLsb' 12 3).toFin
      let q (s : State) : List Msg := (s.core tile s.cur.core).sendq[dst]
      (t.outst = [] → owed = false ∨ (q s).length < 8 →
        ∃ s', exec (.taskRetire a) s = .next s' ∧ s'.cur = s.cur ∧ s'.th.st = .empty ∧
          (s'.tile tile).rootsLeft = (if t.w1.getLsbD 8 then (s.tile tile).rootsLeft - 1 else (s.tile tile).rootsLeft) ∧
          q s' = q s ++ (if owed then [⟨t.getS a, s.cur.core, s.cur.thr, t.w3.extractLsb' 16 16,
            some (t.w3.extractLsb' 8 4).toFin, s.now tile + 1⟩] else []) ∧
          (s'.tile tile).accs = (if t.w2 = 0 then (s.tile tile).accs else
            putAccess (s.counterAccess s.cur t.w2.toNat .dec) (s.tile tile).accs) ∧
          ∀ k off n, s'.lmRead tile k off n = s.lmRead tile k off n) ∧
      (t.outst ≠ [] ∨ (owed = true ∧ 8 ≤ (q s).length) → exec (.taskRetire a) s =
        .next ((s.countIssue false).modTh fun t => { t with st := .suspending, susp := some (.retire (s.th.getS a)) }))) ∧
  (
    ∀ (s s1 : State) (c : Nat), c % 8 = 0 → c < 0x20_0000 →
      let tile := s.cur.tile
      let home := s1.core tile (ctrCore c)
      home.lm.wf = true → home.park = [] → home.frames = [] →
      let old := s1.ctr tile c
      (s1.perform (s.counterAccess s.cur c .dec)).ctr tile c =
        (old % 2 ^ 63 + 2 ^ 63 - 1) % 2 ^ 63 + (if 2 ^ 63 ≤ old then 2 ^ 63 else 0)) ∧
  (
    ∀ (s : State) (d a b : SReg) (la : BitVec 4),
      let i : Instr := .taskCancel d a b la
      let tile := s.cur.tile
      let x := s.th.getS a
      let lvl := (s.th.getS b).toNat % 8
      let s1 := s.countIssue true
      let adv (s' : State) : State := s'.modTh fun t => t.advanceFrom s.th.pc
      s.clear i →
      (lvl = 0 → x = 0 → ∃ lat, 1 ≤ lat ∧ lat ≤ 24 ∧
        exec i s = .next (adv ({ s1 with fresh := s.fresh + 1 }.deferRes la [.s d] lat { s := [(d, 0)] }))) ∧
      (lvl = 0 → x ≠ 0 → counterOk x = true → ∃ lat, 1 ≤ lat ∧ lat ≤ 24 ∧
        let acc := s.counterAccess s.cur x.toNat (.mark d (s.now tile + lat))
        exec i s = .next (adv (({ s1 with fresh := s.fresh + 1 }.modTh fun t =>
          t.addOutst [.s d] (some la) (.port none)).sendAccess acc)) ∧
        ∀ s2 : State, s2.perform acc = ((s2.modTile tile fun t => t.dropAccess s.cur s.th.nextOp).resolveIn s.cur s.th.nextOp
          (max acc.lag (s.now tile + lat - s2.now tile)) { s := [(d, 1)] }).cancelCounters tile (some s.cur) cancelFuel [x.toNat]) ∧
      (lvl = 0 → counterOk x = false → exec i s = .next (s.trap .xscope x)) ∧
      (lvl ≠ 0 → ∃ lat s2 done, 1 ≤ lat ∧ lat ≤ 1500 ∧
        { s1 with fresh := s.fresh + 1 }.cancelRecord ⟨(s.launch tile).part, (s.launch tile).ctx⟩
          ({ s1 with fresh := s.fresh + 1 }.jobOf tile) lvl x.toNat = (s2, done) ∧
        exec i s = .next (adv (s2.deferRes la [.s d] lat { s := [(d, if done then 1 else 0)] })))) ∧
  (
    ∀ (s : State) (tile c : Nat) (src : Option ThreadRef), c % 8 = 0 → c < 0x20_0000 →
      (∀ k, (s.core tile k).park = []) → (s.core tile (ctrCore c)).frames = [] → (s.core tile (ctrCore c)).lm.wf = true →
      (∀ r : ThreadRef, r.tile = tile → (s.thread r).st ≠ .stopped) →
      let s' := s.cancelCounters tile src 1 [c]
      s'.ctr tile c = s.ctr tile c % 2 ^ 63 + 2 ^ 63 ∧
      (∀ r, ∃ b v, s'.thread r = { s.thread r with ready := b, resv := v }) ∧
      ∀ (k : Fin 8) (h : Fin 16), (s.core tile k).threads[h].st ≠ .empty → (s.core tile k).threads[h].w2.toNat = c →
        (⟨.deck (deckOf tile), s.now tile, false, ⟨tile, k, h⟩, {}, .cancel⟩ ∈ s'.agenda))

/-- R126, R123: task.spawn completes for every template it can read and every counter of the tile: it goes on to the next
instruction with its result outstanding. Without a counter, and with room in the deque, the result is 1, due within 24 cycles, and
the new unit's record (the template's address and priority, the counter, as many of s1 to s4 as the template asks for)
stands at the bottom of the deque. With a counter, the operation goes to the counter's home port; there the result is 1, the record
stands at the bottom of the deque, the count has risen and the counter is the unit's child counter, when the counter is unmarked and
an entry is kept for it or free; else the result is 0 and nothing is created. R131: callat.send
completes for every aligned address and every core: it goes on with its result outstanding, due within 24 cycles. With room
in the named core's deque the result is the next sequence number and a pinned unit's record (the address, the caller and the
number, s1 to s4) stands at the bottom of that deque; else the result is 0. A misaligned address and a value that is no core
trap. Where it shows a choice of the model, not a rule: log 10, log 29, log 36, log 94. -/
def Obligations.Spawns : Prop :=
  (
    ∀ (s : State) (d a b : SReg) (la : BitVec 4) (tpl : List Byte),
      let i : Instr := .taskSpawn d a b la
      let t := s.th
      let tile := s.cur.tile
      let c := (t.getS b).toNat
      let w1 := recWord tpl 1
      let n := min (w1.extractLsb' 3 3).toNat 4
      let core (s : State) : Core := s.core tile s.cur.core
      let full : Bool := (core s).dequeFull
      let isRecord (w : Vector W32 16) : Prop :=
        w[0] = recWord tpl 0 ∧ w[1].extractLsb' 6 2 = w1.extractLsb' 6 2 ∧ w[2] = BitVec.ofNat 32 c ∧
          w[1].getLsbD 9 = (s.launch tile).det ∧ w[3] = 0 ∧
          ∀ k : Fin 12, w[4 + k.val] = if k.val < n then (t.getS (BitVec.ofNat 5 (k.val + 1))).setWidth 32 else 0
      let goesOn (s' : State) (cond : Cond) : Prop := s'.cur = s.cur ∧
        s'.th.outst = t.outst ++ [{ id := t.nextOp, addr := t.pc, dests := [.s d], cond := cond }] ∧
        s'.th.pc = (t.advanceFrom t.pc).pc ∧ s'.th.s = t.s ∧ s'.th.v = t.v ∧ s'.th.p = t.p
      s.clear i → (t.getS a).toNat % 64 = 0 → s.readRecord tile (t.getS a) 64 (fun k => k == 0 || k == 14) = .ok tpl →
      counterOk (t.getS b) = true → (∀ k < n, t.pending.contains (.s (BitVec.ofNat 5 (k + 1))) = false) →
      ∃ s' lat, exec i s = .next s' ∧ 1 ≤ lat ∧ lat ≤ 24 ∧
        (c = 0 → goesOn s' (.ready { s := [(d, if full then 0 else 1)] }) ∧
          (⟨.deck (deckOf tile), s.now tile + lat, false, s.cur, { n := t.nextOp }, .resultArrival⟩ ∈ s'.agenda) ∧
          (full = true → (core s').deque = (core s).deque ∧ ∀ k off n, s'.lmRead tile k off n = s.lmRead tile k off n) ∧
          (full = false → ∃ e : Entry, (core s').deque = (core s).deque.set (prioOf w1) (e :: (core s).deque[prioOf w1]) ∧
            e.frame = none ∧ isRecord e.w)) ∧
        (c ≠ 0 → goesOn s' (.port none) ∧ (core s').deque = (core s).deque ∧
          (core s').kept = (if full then (core s).kept else (core s).kept + 1) ∧
          (∀ k off n, s'.lmRead tile k off n = s.lmRead tile k off n) ∧
          ∃ w key, isRecord w ∧ (s'.tile tile).accs =
            putAccess (s.counterAccess s.cur c (.spawn d w key (!full) (s.now tile + lat))) (s.tile tile).accs)) ∧
  (
    ∀ (s s1 : State) (d : SReg) (c due : Nat) (w : Vector W32 16) (key : Option (Nat × Nat)) (kept : Bool),
      c % 8 = 0 → c < 0x20_0000 →
      let tile := s.cur.tile
      let acc := s.counterAccess s.cur c (.spawn d w key kept due)
      let lag := max acc.lag (due - s1.now tile)
      let core (s : State) : Core := s.core tile s.cur.core
      let home := s1.core tile (ctrCore c)
      let done := s1.modTile tile fun t => t.dropAccess s.cur s.th.nextOp
      let done := if kept then done.modCore tile s.cur.core fun k => { k with kept := k.kept - 1 } else done
      (2 ^ 63 ≤ s1.ctr tile c ∨ (kept = false ∧ (core s1).dequeFull = true) →
        s1.perform acc = done.resolveIn s.cur s.th.nextOp lag { s := [(d, 0)] }) ∧
      (s1.ctr tile c < 2 ^ 63 → kept = true ∨ (core s1).dequeFull = false →
        let s2 := s1.perform acc
        (∃ e : Entry, (core s2).deque[prioOf w[1]].head? = some e ∧ e.frame = none ∧ e.w = w) ∧
        (s2.thread s.cur).w1 = setChild (s1.thread s.cur).w1 c ∧
        (s2.thread s.cur).outst = ((s1.thread s.cur).setCond s.th.nextOp (.ready { s := [(d, 1)] })).outst ∧
        (⟨.deck (deckOf tile), s1.now tile + lag, false, s.cur, { n := s.th.nextOp }, .resultArrival⟩ ∈ s2.agenda) ∧
        (home.lm.wf = true → home.park = [] → home.frames = [] → (core s1).entries < 32 → s2.ctr tile c = (s1.ctr tile c + 1) % 2 ^ 63))) ∧
  (
    ∀ (s : State) (d a b : SReg) (la : BitVec 4),
      let i : Instr := .callatSend d a b la
      let t := s.th
      let tile := s.cur.tile
      let x := t.getS a
      let y := t.getS b
      let k : Fin 8 := (y.extractLsb' 0 3).toFin
      let seq : BitVec 16 := if t.cseq = 0xFFFF then 1 else t.cseq + 1
      let full := (s.core tile k).dequeFull
      s.clear i →
      (x.toNat % 4 = 0 → y.toNat < 8 → ∃ s' lat, exec i s = .next s' ∧ 1 ≤ lat ∧ lat ≤ 24 ∧ s'.cur = s.cur ∧
        s'.th.outst = t.outst ++
          [{ id := t.nextOp, addr := t.pc, dests := [.s d], cond := .ready { s := [(d, if full then 0 else seq.setWidth 64)] } }] ∧
        s'.th.pc = (t.advanceFrom t.pc).pc ∧ s'.th.s = t.s ∧ s'.th.v = t.v ∧ s'.th.p = t.p ∧
        (⟨.deck (deckOf tile), s.now tile + lat, false, s.cur, { n := t.nextOp }, .resultArrival⟩ ∈ s'.agenda) ∧
        (full = true → s'.th.cseq = t.cseq ∧ (s'.core tile k).deque = (s.core tile k).deque) ∧
        (full = false → s'.th.cseq = seq ∧ ∃ e : Entry,
          (s'.core tile k).deque = (s.core tile k).deque.set (prioOf t.w1) (e :: (s.core tile k).deque[prioOf t.w1]) ∧
          e.w[0] = x.setWidth 32 ∧ e.w[1].getLsbD 11 = true ∧ e.w[1].extractLsb' 6 2 = t.w1.extractLsb' 6 2 ∧ e.w[2] = 0 ∧
          e.w[3] = BitVec.ofNat 32 (seq.toNat * 2 ^ 16 + 2 ^ 15 + s.cur.core.val * 2 ^ 12 + s.cur.thr.val * 2 ^ 8) ∧
          ∀ j : Fin 12, e.w[4 + j.val] = if j.val < 4 then (t.getS (BitVec.ofNat 5 (j.val + 1))).setWidth 32 else 0)) ∧
      (x.toNat % 4 ≠ 0 → exec i s = .next (s.trap .align x)) ∧
      (x.toNat % 4 = 0 → 8 ≤ y.toNat → exec i s = .next (s.trap .illegal y)))

/-! ## Memory (spec/05, spec/06, spec/09) -/

/-- R139, R160, R57: the checks of an access, in order: a misaligned address raises ALIGN; one that is neither global nor a
tile-map address, or a tile-map address out of its window, PROT; one of another tile XSCOPE; a kind that no load or store
serves PROT. The trap value is the address. R139, R162, R267: a load that performs on a local word with an uncorrectable
error raises UE as a deferred trap, with its address as trap value, when its result would have arrived. Where it shows a
choice of the model, not a rule: log 30. -/
def Obligations.AccessTraps : Prop :=
  (
    ∀ (s : State) (d a : SReg) (v : VReg) (off : BitVec 9) (la : BitVec 4),
      ∀ row ∈ ([(.memLdB d a off la, 1), (.memLdH d a off la, 2), (.memLdW d a off la, 4), (.memLdD d a off la, 8),
          (.memLdI8 d a off la, 1), (.memLdI16 d a off la, 2), (.memLdI32 d a off la, 4), (.memLdRo d a off la, 8),
          (.memStB d a off, 1), (.memStH d a off, 2), (.memStW d a off, 4), (.memStD d a off, 8),
          (.vmemLdV v a off la, 32), (.vmemLdSw v a off la, 4), (.vmemLdSd v a off la, 8), (.vmemLdRo v a off la, 32),
          (.vmemStV v a off, 32), (.vmemStW v a off, 4), (.vmemStD v a off, 8)] : List (Instr × Nat)),
        let n := row.2
        let x : Word := s.th.getS a + off.signExtend 64 * BitVec.ofNat 64 n
        let inWindow : Bool := amFormOk x && decide (amOff x + n ≤ windowSize (s.launch s.cur.tile) (amKind x))
        s.clear row.1 →
          (x.toNat % n ≠ 0 → exec row.1 s = .next (s.trap .align x)) ∧
          (x.toNat % n = 0 → isGlobal x = false →
            (isTileMap x = false ∨ inWindow = false → exec row.1 s = .next (s.trap .prot x)) ∧
            (isTileMap x = true → inWindow = true →
              (amTile x ≠ s.cur.tile → exec row.1 s = .next (s.trap .xscope x)) ∧
              (amTile x = s.cur.tile → amKind x ∈ [5, 6, 15] → exec row.1 s = .next (s.trap .prot x))))) ∧
  (
    ∀ (s : State) (acc : Access) (core : Fin 8) (o : Nat) (f : LoadForm), acc.place = .lm core o → acc.act = .load f →
      s.lmBad acc.r.tile core o acc.n = true →
      s.perform acc = (s.modTile acc.r.tile fun t => t.dropAccess acc.r acc.op).failOp acc.r acc.op acc.lag .ue acc.va)

/-- R160, R138, R162, R163: a load of local memory (window kinds 0, 7, 14) completes: it is outstanding with its register
pending, its access stands at the port of its core, in 2 cycles on the own core and after a crossing on another, and the
k.tbm bits of its banks are set. When the access performs, the little-endian bytes as they then stand, zero- or
sign-extended, as a vector or in every lane, are the result, written 4 cycles later on the own core, 2 and a crossing back
later on another. R58, R59, R46: the alias windows show element j of a core's local memory as an FP32 word: a code of the T8
table at byte j, of the T4 table in the nibble j, an F16 or B16 number at byte 2j, with the issuing core's table as it stood
at issue. Where it shows a choice of the model, not a rule: log 16, log 32. -/
def Obligations.LocalLoads : Prop :=
  (
    ∀ (s : State) (d a : SReg) (v : VReg) (off : BitVec 9) (la : BitVec 4),
      ∀ row ∈ ([(.memLdB d a off la, 1, .s d, .zx d 1, fun x => { s := [(d, BitVec.ofNat 64 x)] }),
          (.memLdH d a off la, 2, .s d, .zx d 2, fun x => { s := [(d, BitVec.ofNat 64 x)] }),
          (.memLdW d a off la, 4, .s d, .zx d 4, fun x => { s := [(d, BitVec.ofNat 64 x)] }),
          (.memLdD d a off la, 8, .s d, .zx d 8, fun x => { s := [(d, BitVec.ofNat 64 x)] }),
          (.memLdI8 d a off la, 1, .s d, .sx d 1, fun x => { s := [(d, (BitVec.ofNat 8 x).signExtend 64)] }),
          (.memLdI16 d a off la, 2, .s d, .sx d 2, fun x => { s := [(d, (BitVec.ofNat 16 x).signExtend 64)] }),
          (.memLdI32 d a off la, 4, .s d, .sx d 4, fun x => { s := [(d, (BitVec.ofNat 32 x).signExtend 64)] }),
          (.vmemLdV v a off la, 32, .v v, .vec v, fun x => { v := [(v, BitVec.ofNat 256 x)] }),
          (.vmemLdSw v a off la, 4, .v v, .splat v 4, fun x => { v := [(v, ofLanes 32 (List.replicate 8 (BitVec.ofNat 32 x)))] }),
          (.vmemLdSd v a off la, 8, .v v, .splat v 8, fun x => { v := [(v, ofLanes 64 (List.replicate 4 (BitVec.ofNat 64 x)))] })] :
          List (Instr × Nat × RegRef × LoadForm × (Nat → Writes))),
        let n := row.2.1
        let x : Word := s.th.getS a + off.signExtend 64 * BitVec.ofNat 64 n
        let l := s.launch s.cur.tile
        let core := amCore x
        let o := (lmPlace l x).off
        let reach := if core = s.cur.core then 2 else crossLat s.cur.core core (s.now s.cur.tile)
        let lag := if core = s.cur.core then 4 else 2 + crossLat core s.cur.core (s.now s.cur.tile + reach)
        let acc : Access :=
          { r := s.cur, owner := s.th.owner, op := s.th.nextOp, addr := s.th.pc, va := x, place := .lm core o, n := n
            act := .load row.2.2.2.1, banks := lmBanks core o n, at_ := s.now s.cur.tile + reach, lag := lag }
        (s.clear row.1 → x.toNat % n = 0 → isTileMap x = true → amFormOk x = true → amTile x = s.cur.tile →
          amKind x ∈ [0, 7, 14] → amOff x + n ≤ windowSize l (amKind x) →
          ∃ s', exec row.1 s = .next s' ∧ (s'.tile s.cur.tile).accs = putAccess acc (s.tile s.cur.tile).accs ∧
            s'.th.outst = s.th.outst ++
              [{ id := s.th.nextOp, addr := s.th.pc, dests := [row.2.2.1], cond := .port none }] ∧
            s'.th.pc = (s.th.advanceFrom s.th.pc).pc ∧ s'.th.tbm = (s.th.touch (lmBanks core o n)).tbm ∧
            s'.th.s = s.th.s ∧ s'.th.v = s.th.v ∧ s'.th.p = s.th.p ∧ s'.th.fflags = s.th.fflags ∧
            (∀ r, r ≠ s.cur → s'.thread r = s.thread r) ∧ (∀ tile k, (s'.core tile k).lm = (s.core tile k).lm)) ∧
        ∀ s1 : State, s1.lmBad s.cur.tile core o n = false →
          s1.perform acc = (s1.modTile s.cur.tile fun t => t.dropAccess s.cur s.th.nextOp).resolveIn s.cur s.th.nextOp lag
            (row.2.2.2.2 ((s1.core s.cur.tile core).lm.readNat o n))) ∧
  (
    ∀ (s : State) (d a : SReg) (off : BitVec 9) (la : BitVec 4),
      let x : Word := s.th.getS a + off.signExtend 64 * 4
      let l := s.launch s.cur.tile
      let core := amCore x
      let j := amOff x / 4
      let me := s.core s.cur.tile s.cur.core
      ∀ row ∈ ([(1, me.t8, j, 1, fun m => ((container (tabEntry me.t8 (m.readNat j 1))).toNat, 0)),
          (2, me.t4, j / 2, 1, fun m => ((container (tabEntry me.t4 (m.readNat (j / 2) 1 / 16 ^ (j % 2) % 16))).toNat, 0)),
          (3, [], 2 * j, 2, fun m => toF32 f16F (m.readNat (2 * j) 2)), (4, [], 2 * j, 2, fun m => toF32 b16F (m.readNat (2 * j) 2))] :
          List (Nat × KMap (BitVec 19) × Nat × Nat × (Memory → Nat × BitVec 5))),
        ∃ acc : Access,
          (s.clear (.memLdW d a off la) → x.toNat % 4 = 0 → isTileMap x = true → amFormOk x = true → amTile x = s.cur.tile →
            amKind x = row.1 → amOff x + 4 ≤ windowSize l row.1 →
            exec (.memLdW d a off la) s = .next (((s.countIssue true).sendLoad acc la [.s d]).modTh fun t => t.advanceFrom s.th.pc)) ∧
          acc.r = s.cur ∧ acc.op = s.th.nextOp ∧ acc.place = .view core row.1 j ∧ acc.banks = lmBanks core row.2.2.1 row.2.2.2.1 ∧
          acc.at_ = s.now s.cur.tile + s.portReach s.cur core ∧
          ∀ s1 : State, s1.lmBad s.cur.tile core row.2.2.1 row.2.2.2.1 = false →
            s1.perform acc = (s1.modTile s.cur.tile fun t => t.dropAccess s.cur s.th.nextOp).resolveIn s.cur s.th.nextOp acc.lag
              { s := [(d, BitVec.ofNat 64 ((row.2.2.2.2 (s1.core s.cur.tile core).lm).1 % 2 ^ 32))],
                flags := (row.2.2.2.2 (s1.core s.cur.tile core).lm).2 })

/-- R160, R138, R162: a store to local memory completes: its access, with the low bytes of its register, stands at the port
of its core, and no register, no byte of memory and no other thread changes. When it performs, exactly its bytes become the
register's low bytes, the lowest at the lowest address; every other byte of every core keeps its value, but the ready bits
of displaced frames that watch a stored word and the spill region into which records parked on one move, and so do the
partitions, the host and every register. Where it shows a choice of the model, not a rule: log 9, log 30. -/
def Obligations.LocalStores : Prop :=
  ∀ (s : State) (d a : SReg) (v : VReg) (off : BitVec 9),
    ∀ row ∈ ([(.memStB d a off, 1, (s.th.getS d).toNat), (.memStH d a off, 2, (s.th.getS d).toNat),
        (.memStW d a off, 4, (s.th.getS d).toNat), (.memStD d a off, 8, (s.th.getS d).toNat),
        (.vmemStV v a off, 32, (s.th.getV v).toNat), (.vmemStW v a off, 4, (s.th.getV v).toNat),
        (.vmemStD v a off, 8, (s.th.getV v).toNat)] : List (Instr × Nat × Nat)),
      let n := row.2.1
      let x : Word := s.th.getS a + off.signExtend 64 * BitVec.ofNat 64 n
      let l := s.launch s.cur.tile
      let core := amCore x
      let o := (lmPlace l x).off
      let reach := if core = s.cur.core then 2 else crossLat s.cur.core core (s.now s.cur.tile)
      s.clear row.1 → x.toNat % n = 0 → isTileMap x = true → amFormOk x = true → amTile x = s.cur.tile →
      amKind x ∈ [0, 7, 14] → amOff x + n ≤ windowSize l (amKind x) →
      ∃ s' acc, exec row.1 s = .next s' ∧ (s'.tile s.cur.tile).accs = putAccess acc (s.tile s.cur.tile).accs ∧
        acc.r = s.cur ∧ acc.op = s.th.nextOp ∧ acc.va = x ∧ acc.place = .lm core o ∧ acc.n = n ∧
        acc.banks = lmBanks core o n ∧ acc.at_ = s.now s.cur.tile + reach ∧
        s'.host = s.host ∧ s'.hostFog = s.hostFog ∧ s'.parts = s.parts ∧
        (∀ tile k, (s'.core tile k).lm = (s.core tile k).lm ∧ (s'.core tile k).lines = (s.core tile k).lines ∧
          (s'.tile tile).slice = (s.tile tile).slice) ∧
        (∀ r, r ≠ s.cur → s'.thread r = s.thread r) ∧
        s'.th.s = s.th.s ∧ s'.th.v = s.th.v ∧ s'.th.p = s.th.p ∧
        s'.th.fflags = s.th.fflags ∧ s'.th.frm = s.th.frm ∧ s'.th.outst = s.th.outst ∧ s'.th.st = s.th.st ∧
        s'.th.pc = (s.th.advanceFrom s.th.pc).pc ∧ s'.th.tbm = (s.th.touch (lmBanks core o n)).tbm ∧
        ∀ s1 : State, s1.Inv → s1.lmBad s.cur.tile core o n = false →
          let c1 := s1.core s.cur.tile core
          let woken (b : Nat) : Prop := ∃ w ∈ wordsOf o n, c1.wokenByte (s1.launch s.cur.tile) w b
          let s2 := s1.perform acc
          (∀ b, o ≤ b → b < o + n → ¬ woken b →
            (s2.core s.cur.tile core).lm.readByte b = BitVec.ofNat 8 (row.2.2 / 2 ^ (8 * (b - o)))) ∧
          (∀ tile k b, ¬ (tile = s.cur.tile ∧ k = core ∧ (woken b ∨ (o ≤ b ∧ b < o + n))) →
            (s2.core tile k).lm.readByte b = (s1.core tile k).lm.readByte b) ∧
          s2.host = s1.host ∧ s2.hostFog = s1.hostFog ∧ (∀ p, (s2.part p).hbm = (s1.part p).hbm) ∧
          (∀ tile k, (s2.core tile k).lines = (s1.core tile k).lines ∧ (s2.tile tile).slice = (s1.tile tile).slice) ∧
          ∀ r, (s2.thread r).s = (s1.thread r).s ∧ (s2.thread r).v = (s1.thread r).v ∧ (s2.thread r).p = (s1.thread r).p ∧
            (s2.thread r).pc = (s1.thread r).pc ∧ (s2.thread r).outst = (s1.thread r).outst

/-- R270, R272, R174: a load of global memory whose home core is its own completes: it is outstanding and its access stands
at the line cache; when it performs on a present, readable line the result is the line's bytes, 8 cycles after issue, and
the line becomes the most recently used; on a line without read permission it raises PROT. A read-only load takes a readable
line from the core's read-only cache after 8 cycles. R270, R391: with its line missing it asks for it once: a miss of the line is
recorded; a page that the tile's buffer holds makes it a request to the line's home slice, in another tile by a flit, another page is
walked by the deck's walkers. R270: when the page lies in host memory the access leaves the port and the load becomes a read of host
memory, or PROT without read permission. The reply brings the line into the home core's cache. Where it shows a choice of the model,
not a rule: log 9, log 10. -/
def Obligations.GlobalLoads : Prop :=
  (
  ∀ (s : State) (d a : SReg) (v : VReg) (off : BitVec 9) (la : BitVec 4) (y : Line),
    let ld (n : Nat) : Word := s.th.getS a + off.signExtend 64 * BitVec.ofNat 64 n
    let bytes (x : Word) (n : Nat) : Nat := y.data.toNat / 2 ^ (8 * (x.toNat % 64)) % 2 ^ (8 * n)
    let frame (s' : State) : Prop := s'.cur = s.cur ∧ s'.th.pc = (s.th.advanceFrom s.th.pc).pc ∧
      s'.th.s = s.th.s ∧ s'.th.v = s.th.v ∧ s'.th.p = s.th.p ∧ ∀ tile k, (s'.core tile k).lm = (s.core tile k).lm
    (∀ row ∈ ([(.memLdB d a off la, 1, .s d, .zx d 1, fun x => { s := [(d, BitVec.ofNat 64 x)] }),
        (.memLdH d a off la, 2, .s d, .zx d 2, fun x => { s := [(d, BitVec.ofNat 64 x)] }),
        (.memLdW d a off la, 4, .s d, .zx d 4, fun x => { s := [(d, BitVec.ofNat 64 x)] }),
        (.memLdD d a off la, 8, .s d, .zx d 8, fun x => { s := [(d, BitVec.ofNat 64 x)] }),
        (.memLdI8 d a off la, 1, .s d, .sx d 1, fun x => { s := [(d, (BitVec.ofNat 8 x).signExtend 64)] }),
        (.memLdI16 d a off la, 2, .s d, .sx d 2, fun x => { s := [(d, (BitVec.ofNat 16 x).signExtend 64)] }),
        (.memLdI32 d a off la, 4, .s d, .sx d 4, fun x => { s := [(d, (BitVec.ofNat 32 x).signExtend 64)] }),
        (.vmemLdV v a off la, 32, .v v, .vec v, fun x => { v := [(v, BitVec.ofNat 256 x)] }),
        (.vmemLdSw v a off la, 4, .v v, .splat v 4, fun x => { v := [(v, ofLanes 32 (List.replicate 8 (BitVec.ofNat 32 x)))] }),
        (.vmemLdSd v a off la, 8, .v v, .splat v 8, fun x => { v := [(v, ofLanes 64 (List.replicate 4 (BitVec.ofNat 64 x)))] })] :
        List (Instr × Nat × RegRef × LoadForm × (Nat → Writes))),
      let n := row.2.1
      let x := ld n
      let home := homeCore (lineIx x)
      let acc : Access :=
        { r := s.cur, owner := s.th.owner, op := s.th.nextOp, addr := s.th.pc, va := x, place := .glob, n := n
          act := .load row.2.2.2.1, banks := s.globBanks x, at_ := s.now s.cur.tile + 2, lag := 6 }
      (s.clear row.1 → x.toNat % n = 0 → isGlobal x = true → home = s.cur.core →
        ∃ s', exec row.1 s = .next s' ∧ frame s' ∧ (s'.tile s.cur.tile).accs = putAccess acc (s.tile s.cur.tile).accs ∧
          s'.th.outst = s.th.outst ++
            [{ id := s.th.nextOp, addr := s.th.pc, dests := [row.2.2.1], cond := .port none }]) ∧
      ∀ s1 : State, x.toNat % n = 0 → (s1.core s.cur.tile home).lineGet? (lineIx x) = some y →
        let done := s1.modTile s.cur.tile fun t => t.dropAccess s.cur s.th.nextOp
        (y.rd = true → s1.perform acc = (done.modCore s.cur.tile home fun c => c.linePut y).resolveIn s.cur s.th.nextOp 6
          (row.2.2.2.2 (bytes x n))) ∧
        (y.rd = false → s1.perform acc = done.failOp s.cur s.th.nextOp 6 .prot x)) ∧
    ∀ row ∈ ([(.memLdRo d a off la, 8, .s d, fun x => { s := [(d, BitVec.ofNat 64 x)] }),
        (.vmemLdRo v a off la, 32, .v v, fun x => { v := [(v, BitVec.ofNat 256 x)] })] :
        List (Instr × Nat × RegRef × (Nat → Writes))),
      let x := ld row.2.1
      s.clear row.1 → x.toNat % row.2.1 = 0 → isGlobal x = true →
      (s.core s.cur.tile s.cur.core).rolines.find? (fun z => z.tag == lineIx x) = some y → y.rd = true →
      (∀ o ∈ s.th.outst, o.id ≠ s.th.nextOp) →
      ∃ s', exec row.1 s = .next s' ∧ frame s' ∧ s'.th.outst = s.th.outst ++
          [{ id := s.th.nextOp, addr := s.th.pc, dests := [row.2.2.1], cond := .ready (row.2.2.2 (bytes x row.2.1)) }] ∧
        (⟨.deck (deckOf s.cur.tile), s.now s.cur.tile + 8, false, s.cur, { n := s.th.nextOp }, .resultArrival⟩ ∈ s'.agenda) ∧
        (s'.core s.cur.tile s.cur.core).rolines.head? = some y) ∧
  (
    ∀ (s : State) (acc : Access) (f : LoadForm), acc.place = .glob → acc.act = .load f →
      let tile := acc.r.tile
      let x := acc.va
      let l := s.launch tile
      let home := homeCore (lineIx x)
      let what : MissFor := .line (lineIx x) home false
      let miss : Miss := { tag := (s.tile tile).copy.nextRef, what := what, va := x, walking := true }
      let slice := (s.part l.part).homeTile (lineIx x)
      (s.core tile home).lineGet? (lineIx x) = none → (s.tile tile).missing x = false →
      (acc.at_ ≤ s.now tile → s.awaited acc = true → acc.since = none → s.hostWaits acc = false → s.turnOf acc [] = .fetch) ∧
      (s.tlbHit tile x = false →
        let s1 := s.takeTurn acc .fetch
        (s1.tile tile).misses = (s.tile tile).misses ++ [miss] ∧
        ((∀ w ∈ s.decks[deckOf tile].walks, s.sameAsid l.part l.ctx w.part w.ctx = false ∨ pageOf w.va ≠ pageOf x) →
          s1.decks[deckOf tile].walks = s.decks[deckOf tile].walks ++ [⟨tile, l.part, l.ctx, x⟩] ∧
          (s.decks[deckOf tile].walks.length < 64 → ∃ lat, 1 ≤ lat ∧ (⟨.deck (deckOf tile), s.now tile + lat, false, ⟨tile, 0, 0⟩,
            { n := l.part, m := l.ctx, w := x }, .translationWalk⟩ ∈ s1.agenda)))) ∧
      (∀ e, (s.tile tile).tlb.find? (fun e => e.hits (s.ctx l.part l.ctx).asid x) = some e →
        (∀ pa, (s.part l.part).apply e x false false = .ok pa → slice ≠ tile →
          let s1 := s.takeTurn acc .fetch
          (∃ m ∈ (s1.tile tile).misses, m.tag = miss.tag ∧ m.what = what ∧ m.va = x ∧ m.walking = false ∧ m.pl = pa / 64 ∧
            m.rd = e.r ∧ m.wr = e.w ∧ m.own = false) ∧
          ∃ q, (s1.tile tile).copy.inj = (s.tile tile).copy.inj ++ [q] ∧ q.flit.dst = slice ∧ q.flit.cls = 1 ∧ q.flit.ref = miss.tag ∧
            q.flit.msg = .lineReq (pa / 64)) ∧
        ∀ pa, (s.part l.part).apply e x false false = .host pa → s.accsOn tile (lineIx x) = [acc] →
            (∀ b ∈ (s.tile tile).accs, ∀ v mask, b.owner = acc.owner → b.op < acc.op → b.act ≠ .store v mask) →
          (e.r = true → ∃ lat ok, 1 ≤ lat ∧ (⟨.deck (deckOf tile), s.now tile + lat, false, acc.r, { n := acc.op, ok := ok },
              .hostReadCompletion⟩ ∈ (s.takeTurn acc .fetch).agenda) ∧
            ((s.takeTurn acc .fetch).tile tile).accs = (s.tile tile).accs.filter (fun a => !(a.r == acc.r && a.op == acc.op)) ∧
            ((s.takeTurn acc .fetch).thread acc.r).outst =
              ((s.thread acc.r).setCond acc.op (.host x (pa / 64 * 64 + x.toNat % 64) f)).outst) ∧
          (e.r = false → ((s.takeTurn acc .fetch).thread acc.r).outst = ((s.thread acc.r).setCond acc.op (.faulted .prot x)).outst)) ∧
      ∀ (m : Miss) (data : BitVec 512), m.what = what → m.own = false →
        ((s.lineReply tile m data).core tile home).lineGet? (lineIx x) =
          some { tag := lineIx x, data := data, rd := m.rd, wr := m.wr, pl := m.pl })

/-- R270, R164: a store to global memory whose home core is its own completes: its access stands at the line cache and
nothing of memory changes. When it performs on a present, writable line it changes that line alone: its bytes become the
register's low bytes and it is dirty. Where it shows a choice of the model, not a rule: log 9, log 30, log 88. -/
def Obligations.GlobalStores : Prop :=
  ∀ (s : State) (d a : SReg) (v : VReg) (off : BitVec 9) (y : Line),
    ∀ row ∈ ([(.memStB d a off, 1, (s.th.getS d).toNat), (.memStH d a off, 2, (s.th.getS d).toNat),
        (.memStW d a off, 4, (s.th.getS d).toNat), (.memStD d a off, 8, (s.th.getS d).toNat),
        (.vmemStV v a off, 32, (s.th.getV v).toNat), (.vmemStW v a off, 4, (s.th.getV v).toNat),
        (.vmemStD v a off, 8, (s.th.getV v).toNat)] : List (Instr × Nat × Nat)),
      let n := row.2.1
      let x : Word := s.th.getS a + off.signExtend 64 * BitVec.ofNat 64 n
      let home := homeCore (lineIx x)
      let o := x.toNat % 64
      s.clear row.1 → x.toNat % n = 0 → isGlobal x = true → home = s.cur.core →
      ∃ s' acc, exec row.1 s = .next s' ∧ (s'.tile s.cur.tile).accs = putAccess acc (s.tile s.cur.tile).accs ∧
        acc.r = s.cur ∧ acc.op = s.th.nextOp ∧ acc.va = x ∧ acc.place = .glob ∧ acc.n = n ∧ acc.at_ = s.now s.cur.tile + 2 ∧
        (∀ tile k, (s'.core tile k).lm = (s.core tile k).lm ∧ (s'.core tile k).lines = (s.core tile k).lines ∧
          (s'.tile tile).slice = (s.tile tile).slice) ∧
        s'.host = s.host ∧ s'.hostFog = s.hostFog ∧ s'.parts = s.parts ∧
        s'.th.s = s.th.s ∧ s'.th.v = s.th.v ∧ s'.th.p = s.th.p ∧ s'.th.outst = s.th.outst ∧ s'.th.fflags = s.th.fflags ∧
        s'.th.pc = (s.th.advanceFrom s.th.pc).pc ∧
        ∀ s1 : State, (s1.core s.cur.tile home).lineGet? (lineIx x) = some y → y.wr = true →
          let s2 := s1.perform acc
          (∃ y', (s2.core s.cur.tile home).lineGet? (lineIx x) = some y' ∧
            y'.dirty = true ∧ y'.tag = y.tag ∧ y'.pl = y.pl ∧
            ∀ b < 64, lineGet y'.data b 1 = if o ≤ b ∧ b < o + n then row.2.2 / 2 ^ (8 * (b - o)) % 256 else lineGet y.data b 1) ∧
          (∀ l, l ≠ lineIx x → (s2.core s.cur.tile home).lineGet? l = (s1.core s.cur.tile home).lineGet? l) ∧
          (∀ tile k, (s2.core tile k).lm = (s1.core tile k).lm ∧ (s2.tile tile).slice = (s1.tile tile).slice) ∧
          s2.host = s1.host ∧ s2.hostFog = s1.hostFog ∧ (∀ p, (s2.part p).hbm = (s1.part p).hbm) ∧
          ∀ r, (s2.thread r).s = (s1.thread r).s ∧ (s2.thread r).v = (s1.thread r).v ∧ (s2.thread r).p = (s1.thread r).p ∧
            (s2.thread r).outst = (s1.thread r).outst

/-- R177 to R179: an atom on a word of the tile's local memory completes: it is outstanding and stands, with its operands
and k.frm as they are, at the word's bank. When it performs there it reads and writes the word indivisibly, and the old
value (sign-extended for i32) arrives 8 cycles later on the own core, 4 later than a load's on another; f32 adds under k.frm
with its flags. A word of another tile raises XSCOPE, a misaligned one ALIGN, one with an uncorrectable error UE. R179, R389: an atom
on a word of global memory whose home tile is the own completes too: it stands at the line's bank and the slice's, performs on the
line present in its home core's cache, and its result arrives 6 cycles later than a load's of the line; a line that may not be both
read and written raises PROT; a word changed in the line is changed in the home slice too, and the line is clean. A word whose home
tile is another raises XSCOPE. Where it shows a choice of the model, not a rule: log 9, log 16. -/
def Obligations.AtomResults : Prop :=
  let ext (t : AtomTy) (o : Nat) : Word := if t = .i32 then (BitVec.ofNat 32 o).signExtend 64 else BitVec.ofNat 64 o
  let lt (t : AtomTy) (x y : Nat) : Bool := match t with
    | .i32 => (BitVec.ofNat 32 x).slt (BitVec.ofNat 32 y)
    | .i64 => (BitVec.ofNat 64 x).slt (BitVec.ofNat 64 y)
    | _ => decide (x < y)
  ∀ row ∈ ([(.atomFaa, .faa, fun t rm m o x _ => if t = .f32 then fadd rm o x else ((o + x) % m, 0)),
      (.atomSwap, .swap, fun _ _ _ _ x _ => (x, 0)), (.atomCas, .cas, fun _ _ _ o x old => (if o = old then x else o, 0)),
      (.atomFand, .fand, fun _ _ _ o x _ => (Nat.land o x, 0)), (.atomFor, .for, fun _ _ _ o x _ => (Nat.lor o x, 0)),
      (.atomFxor, .fxor, fun _ _ _ o x _ => (Nat.xor o x, 0)),
      (.atomFmin, .fmin, fun t _ _ o x _ => (if lt t x o then x else o, 0)),
      (.atomFmax, .fmax, fun t _ _ o x _ => (if lt t o x then x else o, 0))] :
      List ((SReg → SReg → SReg → AtomTy → BitVec 4 → Instr) × AtomOp × (AtomTy → RM → Nat → Nat → Nat → Nat → Nat × BitVec 5))),
    ∀ (s : State) (d a b : SReg) (t : AtomTy) (la : BitVec 4),
      let i := row.1 d a b t la
      let x := s.th.getS a
      let n := if t = .i64 ∨ t = .n64 then 8 else 4
      let l := s.launch s.cur.tile
      let core := amCore x
      let o := (lmPlace l x).off
      let bank := 4 * core.val + o / 4 % 4
      let reach := if core = s.cur.core then 2 else crossLat s.cur.core core (s.now s.cur.tile)
      let lag := 4 + if core = s.cur.core then 4 else 2 + crossLat core s.cur.core (s.now s.cur.tile + reach)
      let acc : Access :=
        { r := s.cur, owner := s.th.owner, op := s.th.nextOp, addr := s.th.pc, va := x, place := .lm core o, n := n
          act := .atom row.2.1 t (s.th.getS b) (s.th.getS d) d s.th.frm false, banks := [bank]
          at_ := s.now s.cur.tile + reach, lag := lag }
      (s.clear i →
        (x.toNat % n ≠ 0 → exec i s = .next (s.trap .align x)) ∧
        (x.toNat % n = 0 → isGlobal x = false → isTileMap x = true → amFormOk x = true →
          amOff x + n ≤ windowSize l (amKind x) →
          (amTile x ≠ s.cur.tile → exec i s = .next (s.trap .xscope x)) ∧
          (amTile x = s.cur.tile → amKind x ∈ [0, 14] → ∃ s', exec i s = .next s' ∧ s'.cur = s.cur ∧
            (s'.tile s.cur.tile).accs = putAccess acc (s.tile s.cur.tile).accs ∧
            s'.th.outst = s.th.outst ++ [{ id := s.th.nextOp, addr := s.th.pc, dests := [.s d], cond := .port none }] ∧
            s'.th.pc = (s.th.advanceFrom s.th.pc).pc ∧
            s'.th.s = s.th.s ∧ s'.th.v = s.th.v ∧ s'.th.p = s.th.p ∧ s'.th.fflags = s.th.fflags ∧ s'.th.resv = s.th.resv ∧
            ∀ tile k, (s'.core tile k).lm = (s.core tile k).lm))) ∧
      (let home := homeCore (lineIx x)
        let off := x.toNat % 64
        let gacc : Access := { acc with
          place := .glob, banks := if s.globBanks x = [] then [] else [lcBank x, slBank x], at_ := s.now s.cur.tile + 2, lag := 10 }
        (s.clear i → x.toNat % n = 0 → isGlobal x = true →
          ((s.part l.part).homeTile (lineIx x) ≠ s.cur.tile → exec i s = .next (s.trap .xscope x)) ∧
          ((s.part l.part).homeTile (lineIx x) = s.cur.tile → home = s.cur.core → ∃ s', exec i s = .next s' ∧ s'.cur = s.cur ∧
            (s'.tile s.cur.tile).accs = putAccess gacc (s.tile s.cur.tile).accs ∧
            s'.th.outst = s.th.outst ++ [{ id := s.th.nextOp, addr := s.th.pc, dests := [.s d], cond := .port none }] ∧
            s'.th.pc = (s.th.advanceFrom s.th.pc).pc ∧ s'.th.s = s.th.s ∧ s'.th.v = s.th.v ∧ s'.th.p = s.th.p ∧
            ∀ tile k, (s'.core tile k).lm = (s.core tile k).lm ∧ (s'.core tile k).lines = (s.core tile k).lines)) ∧
        ∀ (s1 : State) (y : Line), x.toNat % n = 0 → (s1.core s.cur.tile home).lineGet? (lineIx x) = some y →
          let old := lineGet y.data off n
          let new := row.2.2 t (RM.ofBits s.th.frm) (2 ^ (8 * n)) old ((s.th.getS b).toNat % 2 ^ (8 * n))
            ((s.th.getS d).toNat % 2 ^ (8 * n))
          let s2 := s1.perform gacc
          (y.rd = false ∨ y.wr = false →
            s2 = ((s1.modTile s.cur.tile fun t => t.dropAccess s.cur s.th.nextOp).modThread s.cur Thread.dropResv).failOp
              s.cur s.th.nextOp 10 .prot x) ∧
          (y.rd = true → y.wr = true →
            (∃ y', (s2.core s.cur.tile home).lineGet? (lineIx x) = some y' ∧ (new.1 ≠ old → y'.dirty = false) ∧
              ∀ b < 64, lineGet y'.data b 1 =
                if off ≤ b ∧ b < off + n then new.1 / 2 ^ (8 * (b - off)) % 256 else lineGet y.data b 1) ∧
            (∀ z ∈ (s1.thread s.cur).outst, z.id = s.th.nextOp →
              { z with cond := .ready { s := [(d, ext t old)], flags := new.2 } } ∈ (s2.thread s.cur).outst) ∧
            (⟨.deck (deckOf s.cur.tile), s1.now s.cur.tile + 10, false, s.cur, { n := s.th.nextOp }, .resultArrival⟩ ∈ s2.agenda) ∧
            (∀ tile k, (s2.core tile k).lm = (s1.core tile k).lm) ∧
            ∀ z, let l1 := s1.launch s.cur.tile
              let slice := (s1.part l1.part).homeTile (lineIx x)
              (s1.tile slice).sliceGet? y.pl = some z → z.ctx = l1.ctx → s1.wayMask l1.part l1.ctx ≠ 0 →
              new.1 ≠ old → y.dirty = false → y.words = 0 →
              ∃ z', (s2.tile slice).sliceGet? y.pl = some z' ∧ z'.dirty = true ∧ z'.ctx = z.ctx ∧
                ∀ b < 64, lineGet z'.data b 1 =
                  if off ≤ b ∧ b < off + n then new.1 / 2 ^ (8 * (b - off)) % 256 else lineGet z.data b 1)) ∧
      ∀ s1 : State, s1.Inv →
        let woken (c : Nat) : Prop := ∃ w ∈ wordsOf o n, (s1.core s.cur.tile core).wokenByte (s1.launch s.cur.tile) w c
        let old := (s1.core s.cur.tile core).lm.readNat o n
        let new := row.2.2 t (RM.ofBits s.th.frm) (2 ^ (8 * n)) old ((s.th.getS b).toNat % 2 ^ (8 * n))
          ((s.th.getS d).toNat % 2 ^ (8 * n))
        let s2 := s1.perform acc
        (s1.lmBad s.cur.tile core o n = true →
          s2 = ((s1.modTile s.cur.tile fun t => t.dropAccess s.cur s.th.nextOp).modThread s.cur Thread.dropResv).failOp
            s.cur s.th.nextOp lag .ue x) ∧
        (s1.lmBad s.cur.tile core o n = false →
          ((∀ c, o ≤ c → c < o + n → ¬ woken c) → s2.lmRead s.cur.tile core o n = new.1 % 2 ^ (8 * n)) ∧
          (∀ tile k c, ¬(tile = s.cur.tile ∧ k = core ∧ (woken c ∨ (o ≤ c ∧ c < o + n))) →
            (s2.core tile k).lm.readByte c = (s1.core tile k).lm.readByte c) ∧
          (∀ y ∈ (s1.thread s.cur).outst, y.id = s.th.nextOp →
            { y with cond := .ready { s := [(d, ext t old)], flags := new.2 } } ∈ (s2.thread s.cur).outst) ∧
          (⟨.deck (deckOf s.cur.tile), s1.now s.cur.tile + lag, false, s.cur, { n := s.th.nextOp }, .resultArrival⟩ ∈ s2.agenda) ∧
          ∀ r, (s2.thread r).s = (s1.thread r).s ∧ (s2.thread r).v = (s1.thread r).v ∧ (s2.thread r).p = (s1.thread r).p)

/-- R180, R181, R183: rsv of a word of the own core completes: it starts a window of 64 instructions and stands at the
word's bank; when it performs the bank is its thread's and the word arrives 4 cycles later. rel of the reserved word stands
at the bank; when it performs it writes the word and gives 1, or gives 0 without a write when another store has broken the
reservation, and ends it; rel without a reservation gives 0; drop ends it; rel of another word is ILLEGAL (R268: through whichever
window it is named). Where it shows a
choice of the model, not a rule: log 9, log 37. -/
def Obligations.Reservations : Prop :=
  ∀ (s : State) (d a b : SReg) (t : AtomTy) (la : BitVec 4),
    let x := s.th.getS a
    let n := if t = .i64 ∨ t = .n64 then 8 else 4
    let l := s.launch s.cur.tile
    let core := s.cur.core
    let o := (lmPlace l x).off
    let bank := 4 * core.val + o / 4 % 4
    let word : Prop := x.toNat % n = 0 ∧ isGlobal x = false ∧ isTileMap x = true ∧ amFormOk x = true ∧
      amOff x + n ≤ windowSize l (amKind x) ∧ amTile x = s.cur.tile ∧ amKind x ∈ [0, 14] ∧ amCore x = core
    let acc (op : AtomOp) (v : Word) (held : Bool) (lag : Nat) : Access :=
      { r := s.cur, owner := s.th.owner, op := s.th.nextOp, addr := s.th.pc, va := x, place := .lm core o, n := n
        act := .atom op t v 0 d s.th.frm held, banks := [bank], at_ := s.now s.cur.tile + 2, lag := lag }
    let sent (s' : State) (c : Access) : Prop := s'.cur = s.cur ∧
      (s'.tile s.cur.tile).accs = putAccess c (s.tile s.cur.tile).accs ∧
      s'.th.outst = s.th.outst ++ [{ id := s.th.nextOp, addr := s.th.pc, dests := [.s d], cond := .port none }] ∧
      s'.th.pc = (s.th.advanceFrom s.th.pc).pc ∧ s'.th.s = s.th.s ∧ s'.th.v = s.th.v ∧ s'.th.p = s.th.p ∧
      ∀ tile k, (s'.core tile k).lm = (s.core tile k).lm
    let gives (s1 s2 : State) (v : Word) (lag : Nat) : Prop :=
      (∀ y ∈ (s1.thread s.cur).outst, y.id = s.th.nextOp → { y with cond := .ready { s := [(d, v)] } } ∈ (s2.thread s.cur).outst) ∧
      (⟨.deck (deckOf s.cur.tile), s1.now s.cur.tile + lag, false, s.cur, { n := s.th.nextOp }, .resultArrival⟩ ∈ s2.agenda)
    let same (s1 s2 : State) : Prop := ∀ tile k, (s2.core tile k).lm = (s1.core tile k).lm
    (s.clear (.atomRsv d a t la) → word → ∃ s', exec (.atomRsv d a t la) s = .next s' ∧ sent s' (acc .rsv 0 false 4) ∧
      s'.th.resv = some { va := x, size := n, bank := bank, addr := s.th.pc }) ∧
    (s.clear (.atomRel d a b t la) → word →
      (s.th.resv = none → ∃ s', exec (.atomRel d a b t la) s = .next s' ∧ sent s' (acc .rel (s.th.getS b) false 8) ∧
        s'.th.resv = none) ∧
      (∀ r, s.th.resv = some r → isGlobal r.va = false → lmPlace l r.va = lmPlace l x → r.size = n → ∃ s', exec (.atomRel d a b t la) s = .next s' ∧
        sent s' (acc .rel (s.th.getS b) true 8) ∧ s'.th.resv = some { r with window := r.window - 1 }) ∧
      (∀ r, s.th.resv = some r → isGlobal r.va = true ∨ lmPlace l r.va ≠ lmPlace l x ∨ r.size ≠ n → exec (.atomRel d a b t la) s = .next (s.trap .illegal x))) ∧
    (s.clear .atomDrop → exec .atomDrop s = .next (s.retired fun t => { t with
      resv := match t.resv with
        | some r => if r.granted then none else some { r with dropped := true }
        | none => none })) ∧
    ∀ s1 : State, s1.Inv → s1.lmBad s.cur.tile core o n = false →
      let old := (s1.core s.cur.tile core).lm.readNat o n
      let woken (c : Nat) : Prop := ∃ w ∈ wordsOf o n, (s1.core s.cur.tile core).wokenByte (s1.launch s.cur.tile) w c
      (∀ v, (s1.thread s.cur).resv = some v →
        let s2 := s1.perform (acc .rsv 0 false 4)
        same s1 s2 ∧ gives s1 s2 (if t = .i32 then (BitVec.ofNat 32 old).signExtend 64 else BitVec.ofNat 64 old) 4 ∧
        (s2.thread s.cur).resv = if v.dropped then none else some { v with granted := true, broken := false }) ∧
      (let s2 := s1.perform (acc .rel (s.th.getS b) false 8);
        same s1 s2 ∧ gives s1 s2 0 8 ∧ (s2.thread s.cur).resv = (s1.thread s.cur).resv) ∧
      ∀ v, (s1.thread s.cur).resv = some v →
        let s2 := s1.perform (acc .rel (s.th.getS b) true 8)
        (s2.thread s.cur).resv = none ∧ gives s1 s2 (if v.broken then 0 else 1) 8 ∧
        (v.broken = true → same s1 s2) ∧
        (v.broken = false →
          ((∀ c, o ≤ c → c < o + n → ¬ woken c) → s2.lmRead s.cur.tile core o n = (s.th.getS b).toNat % 2 ^ (8 * n)) ∧
          ∀ tile k c, ¬(tile = s.cur.tile ∧ k = core ∧ (woken c ∨ (o ≤ c ∧ c < o + n))) →
            (s2.core tile k).lm.readByte c = (s1.core tile k).lm.readByte c)

/-- R165, R174, R175: a fence with nothing to wait for completes at once, and fence.part clears its predicate; otherwise the
thread waits, with a probe on its way to every bank of its scope whose k.tbm bit is set. sync.ro and sync.rec wait as fences
of the tile and end 4 and 16 cycles after the last echo, R165, R174, R175: with no bank touched 4 and 16 cycles later; as it ends
sync.ro empties the core's read-only cache and sync.rec the tile's record cache, and the thread goes on. R176: sync.lwb and
sync.linv of a global line complete: their access stands at the line's bank and nothing of memory changes. When it performs
on a line that the home core's cache holds clean the line stays clean; on a dirty one the words that stores have written go to the
home slice, the line is clean, and the writeback awaits its acknowledgement; linv drops the line. A line the cache does not hold, in a
page that is there, leaves memory as the walk of its page left it; a missing page is a PAGE fault. A local address raises PROT. Where
it shows a choice of the model, not a rule: log 9, log 16, log 25. -/
def Obligations.Fences : Prop :=
  (
    ∀ (s : State) (b : SReg) (tp : PReg),
      let t := s.th
      let own (k : Nat) : Bool := (decide (k < 32) && decide (k / 4 = s.cur.core.val)) ||
        (decide (32 ≤ k) && decide (k < 48) && decide ((k - 32) / 2 = s.cur.core.val))
      let banks (scope : Nat → Bool) : List Nat := (List.range 56).filter fun k => t.tbm.getLsbD k && scope k
      (∀ row ∈ ([(.syncFenceCore, own, false), (.syncFenceTile, fun _ => true, false),
          (.syncFencePart b tp, fun _ => true, true)] : List (Instr × (Nat → Bool) × Bool)),
        s.clear row.1 → banks row.2.1 = [] → (row.2.2 = true → s.acked s.cur = true) →
          exec row.1 s = .next (s.retired fun t => if row.2.2 then t.setP tp false else t)) ∧
      ∀ row ∈ ([(.syncFenceCore, own, false, 0), (.syncFenceTile, fun _ => true, false, 0),
          (.syncFencePart b tp, fun _ => true, true, 0), (.syncRo, fun _ => true, false, 4), (.syncRec, fun _ => true, false, 16)] :
          List (Instr × (Nat → Bool) × Bool × Nat)),
        s.clear row.1 → banks row.2.1 ≠ [] → (∀ o ∈ t.outst, o.id < t.nextOp) → ∃ s', exec row.1 s = .next s' ∧ s'.cur = s.cur ∧ s'.th.st = .waiting ∧
          s'.th.pc = t.pc ∧ s'.th.outst.getLast? = some
            { id := t.nextOp, addr := t.pc, dests := if row.2.2.1 then [.p tp] else [],
              cond := .fence (banks row.2.1) row.2.2.1 (if row.2.2.1 then tp else 0) row.2.2.2, hold := true, start := s.now s.cur.tile,
              limit := if row.2.2.1 then some ((t.getS b).toNat % 2 ^ 32) else none } ∧
          (∀ k ∈ banks row.2.1, ∃ lat, 4 ≤ lat ∧
            (⟨.deck (deckOf s.cur.tile), s.now s.cur.tile + lat, false, s.cur, { n := k, m := t.nextOp }, .bankEcho⟩ ∈ s'.agenda)) ∧
          s'.th.s = t.s ∧ s'.th.v = t.v ∧ s'.th.p = t.p ∧ s'.th.tbm = t.tbm ∧
          ∀ tile k, (s'.core tile k).lm = (s.core tile k).lm) ∧
  (
    ∀ s : State,
      ∀ row ∈ ([(.syncRo, 4), (.syncRec, 16)] : List (Instr × Nat)),
        s.clear row.1 → (∀ k < 56, s.th.tbm.getLsbD k = false) → s.th.outst = [] → ∃ s', exec row.1 s = .next s' ∧
          s'.cur = s.cur ∧ s'.th.st = .waiting ∧
          s'.th.outst = [{ id := s.th.nextOp, addr := s.th.pc, dests := [], cond := .clears (row.2 == 16), hold := true,
                           start := s.now s.cur.tile }] ∧
          (⟨.deck (deckOf s.cur.tile), s.now s.cur.tile + row.2, false, s.cur, { n := s.th.nextOp }, .resultArrival⟩ ∈ s'.agenda)) ∧
  (
    ∀ (s : State) (o : Outst) (recs : Bool), s.th.outst = [o] → s.arg.n = o.id → o.cond = .clears recs → o.hold = true →
      s.th.st = .waiting → s.th.trap = none → s.th.laidOff = [] →
      (∀ m ∈ (s.tile s.cur.tile).misses, ∀ l, m.what ≠ .line l s.cur.core true) →
      ∃ s', exec .resultArrival s = .next s' ∧ s'.cur = s.cur ∧ s'.th.outst = [] ∧ s'.th.st = .running ∧
        s'.th.pc = (s.th.advanceFrom o.addr).pc ∧
        (recs = false → (s'.core s.cur.tile s.cur.core).rolines = []) ∧
        (recs = true → (s'.tile s.cur.tile).copy.recs = [])) ∧
  (
    ∀ (s : State) (a : SReg),
      let x := s.th.getS a
      let tile := s.cur.tile
      let home := homeCore (lineIx x)
      let line (s : State) : Option Line := (s.core tile home).lineGet? (lineIx x)
      let same (s s' : State) : Prop := s'.host = s.host ∧ s'.hostFog = s.hostFog ∧ s'.parts = s.parts ∧
        ∀ t k, (s'.core t k).lm = (s.core t k).lm ∧ (s'.tile t).slice = (s.tile t).slice
      ∀ row ∈ ([(.syncLwb a, false), (.syncLinv a, true)] : List (Instr × Bool)),
        ∃ acc : Access, acc.act = .line row.2 ∧ acc.va = x ∧ acc.r = s.cur ∧
          (s.clear row.1 →
            (isGlobal x = false → exec row.1 s = .next (s.trap .prot x)) ∧
            (isGlobal x = true → ∃ s', exec row.1 s = .next s' ∧ same s s' ∧
              (s'.tile tile).accs = putAccess acc (s.tile tile).accs ∧ s'.th.pc = (s.th.advanceFrom s.th.pc).pc ∧
              s'.th.s = s.th.s ∧ s'.th.v = s.th.v ∧ s'.th.p = s.th.p ∧ s'.th.outst = s.th.outst)) ∧
          ∀ s1 : State, s1.Inv →
            (∀ y, line s1 = some y → y.dirty = false → same s1 (s1.perform acc) ∧
              line (s1.perform acc) = (if row.2 then none else some y)) ∧
            (∀ y z, let l1 := s1.launch tile
              let slice := (s1.part l1.part).homeTile (lineIx x)
              line s1 = some y → y.dirty = true → (s1.tile slice).sliceGet? y.pl = some z → z.ctx = l1.ctx →
              s1.wayMask l1.part l1.ctx ≠ 0 →
              let s2 := s1.perform acc
              line s2 = (if row.2 then none else some { y with dirty := false, words := 0 }) ∧
              (s2.tile tile).unacked acc.owner = true ∧ (∀ t k, (s2.core t k).lm = (s1.core t k).lm) ∧
              ∃ z', (s2.tile slice).sliceGet? y.pl = some z' ∧ z'.dirty = true ∧ z'.ctx = z.ctx ∧
                ∀ b < 64, lineGet z'.data b 1 = if y.words.getLsbD (b / 4) then lineGet y.data b 1 else lineGet z.data b 1) ∧
            (∀ pa, line s1 = none → (s1.translate tile x false false).2 = .ok pa →
              let s2 := (s1.translate tile x false false).1
              same s2 (s1.perform acc) ∧ line (s1.perform acc) = line s2) ∧
            ∀ f, line s1 = none → (s1.translate tile x false false).2 = .fault f →
              s1.perform acc = (s1.translate tile x false false).1.failAccess acc .page)

/-- R169, R170: sync.watch of an own-core local word watches it and clears the ready bit, sync.unwatch ends the watch; a
write of the word sets the ready bit. sync.waitw waits for the ready bit; with no word watched it sets its predicate after 2
cycles. Where it shows a choice of the model, not a rule: log 34, log 35. -/
def Obligations.WatchedWords : Prop :=
  ∀ (s : State) (a b : SReg) (tp : PReg) (la : BitVec 4),
    let x := s.th.getS a
    let l := s.launch s.cur.tile
    let ok : Bool := ownLm l s.cur.tile x 4 && decide (amCore x = s.cur.core)
    (s.clear (.syncWatch a) →
      (x.toNat % 4 = 0 → ok = true → exec (.syncWatch a) s = .next (s.retired fun t =>
        { t with watch := some ((lmPlace l x).off / 4), ready := false })) ∧
      (x.toNat % 4 ≠ 0 → exec (.syncWatch a) s = .next (s.trap .align x)) ∧
      (x.toNat % 4 = 0 → ok = false → exec (.syncWatch a) s = .next (s.trap .xscope x))) ∧
    (s.clear .syncUnwatch → exec .syncUnwatch s = .next (s.retired fun t => { t with watch := none, ready := false })) ∧
    (s.clear (.syncWaitw b tp la) →
      (s.th.watch = none → exec (.syncWaitw b tp la) s = .next (s.issuedLong la [.p tp] 2 { p := [(tp, true)] })) ∧
      (s.th.watch ≠ none → exec (.syncWaitw b tp la) s = .next (((s.countIssue true).waitFor (some la) [.p tp] (.watch tp) 0 2
        (some ((s.th.getS b).toNat % 2 ^ 32))).modTh fun t => t.advanceFrom s.th.pc))) ∧
    ∀ (tile off n v : Nat) (core : Fin 8) (src : Option ThreadRef) (h : Fin 16) (w : Nat), s.lmBad tile core off n = false →
      off ≤ 4 * w + 3 → 4 * w < off + n → (s.core tile core).threads[h].watch = some w →
      ((s.lmWrite tile core off n v src).core tile core).threads[h].ready = true

/-- R171 to R173: sync.stf writes its word and makes it full, sync.clre makes it empty, when their access performs at the
word's port; ldf, ldfe and stef wait there, 2 cycles after issue on the own core, until the word is full or empty; then ldf
delivers it, ldfe delivers it and makes it empty, stef writes it and makes it full, and their predicate is 0. Misaligned
words raise ALIGN, words of other tiles XSCOPE, other addresses PROT. Where it shows a choice of the model, not a rule: log
16. -/
def Obligations.FullEmptyWords : Prop :=
  ∀ (s : State) (d a b : SReg) (tp : PReg) (la : BitVec 4),
    let x := s.th.getS a
    let tile := s.cur.tile
    let l := s.launch tile
    let p := lmPlace l x
    let w := p.off / 4
    let bank := 4 * p.core.val + w % 4
    let ok : Prop := x.toNat % 4 = 0 ∧ ownLm l tile x 4 = true
    let reach := if p.core = s.cur.core then 2 else crossLat s.cur.core p.core (s.now tile)
    let lag := if p.core = s.cur.core then 4 else 2 + crossLat p.core s.cur.core (s.now tile + reach)
    let data : W32 := (s.th.getS d).setWidth 32
    let acc (act : Act) : Access :=
      { r := s.cur, owner := s.th.owner, op := s.th.nextOp, addr := s.th.pc, va := x, place := .lm p.core p.off, n := 4
        act := act, banks := [bank], at_ := s.now tile + reach, lag := lag }
    (∀ row ∈ ([(.syncLdf d a b tp la, .ldf, [.s d, .p tp]), (.syncLdfe d a b tp la, .ldfe, [.s d, .p tp]),
        (.syncStef d a b tp la, .stef, [.p tp])] : List (Instr × FeForm × List RegRef)),
      s.clear row.1 → ok → exec row.1 s = .next (((((s.countIssue true).modTh fun t => t.touch [bank]).waitFor (some la) row.2.2
        (.port (some tp)) reach lag (some ((s.th.getS b).toNat % 2 ^ 32))).sendAccess (acc (.fe row.2.1 d data tp))).modTh
          fun t => t.advanceFrom s.th.pc)) ∧
    (∀ row ∈ ([(.syncStf d a, .stf data), (.syncClre a, .clre)] : List (Instr × Act)), s.clear row.1 → ok →
      exec row.1 s = .next (((s.countIssue false).sendStore (acc row.2)).modTh fun t => t.advanceFrom s.th.pc)) ∧
    (∀ i ∈ ([.syncLdf d a b tp la, .syncLdfe d a b tp la, .syncStef d a b tp la, .syncStf d a, .syncClre a] : List Instr),
      s.clear i →
      (x.toNat % 4 ≠ 0 → exec i s = .next (s.trap .align x)) ∧
      (x.toNat % 4 = 0 → isTileMap x = true → amTile x ≠ tile → exec i s = .next (s.trap .xscope x)) ∧
      (x.toNat % 4 = 0 → isTileMap x = false ∨ amTile x = tile → ownLm l tile x 4 = false →
        exec i s = .next (s.trap .prot x))) ∧
    ∀ s1 : State, s1.Inv → x.toNat % 4 = 0 → s1.lmBad tile p.core p.off 4 = false →
      let c1 := s1.core tile p.core
      let done := s1.modTile tile fun t => t.dropAccess s.cur s.th.nextOp
      let woken (c : Nat) : Prop := ∃ w ∈ wordsOf p.off 4, c1.wokenByte (s1.launch tile) w c
      let loaded : State := done.resolveIn s.cur s.th.nextOp lag
        { s := [(d, BitVec.ofNat 64 (c1.lm.readNat p.off 4))], p := [(tp, false)] }
      let written (s2 : State) : Prop := (s2.core tile p.core).full.has w = true ∧
        ((∀ c, p.off ≤ c → c < p.off + 4 → ¬ woken c) → s2.lmRead tile p.core p.off 4 = (s.th.getS d).toNat % 2 ^ 32) ∧
        ∀ t k c, ¬(t = tile ∧ k = p.core ∧ (woken c ∨ (p.off ≤ c ∧ c < p.off + 4))) →
          (s2.core t k).lm.readByte c = (s1.core t k).lm.readByte c
      (∀ before, c1.full.has w = false → s1.turnOf (acc (.fe .ldf d data tp)) before ≠ .perform ∧
        s1.turnOf (acc (.fe .ldfe d data tp)) before ≠ .perform) ∧
      (∀ before, c1.full.has w = true → s1.turnOf (acc (.fe .stef d data tp)) before ≠ .perform) ∧
      s1.perform (acc (.fe .ldf d data tp)) = loaded ∧
      s1.perform (acc (.fe .ldfe d data tp)) = loaded.setFull tile p.core w false ∧
      written (s1.perform (acc (.stf data))) ∧ written (s1.perform (acc (.fe .stef d data tp))) ∧
      (∀ y ∈ (s1.thread s.cur).outst, y.id = s.th.nextOp →
        { y with cond := .ready { p := [(tp, false)] } } ∈ ((s1.perform (acc (.fe .stef d data tp))).thread s.cur).outst) ∧
      ((s1.perform (acc .clre)).core tile p.core).full.has w = false ∧
      ∀ t k, ((s1.perform (acc .clre)).core t k).lm = (s1.core t k).lm

/-! ## Messages, cells, engines and streams (spec/06, spec/07) -/

/-- R184 to R187: a send waits, from one cycle after issue, for room in the send queue of its destination core, a receive
for its message, with their timeouts; recv and peek in a determinate launch are ILLEGAL, as are receive operands out of
range. peek shows the oldest readable message of a queue. R185, R186: a waiting send that finds room puts its message, with
its thread and the next sequence for the destination, at the end of the send queue and gives 0 in its predicate; a waiting
receive takes the first readable message it accepts. Where it shows a choice of the model, not a rule: log 34. -/
def Obligations.Messages : Prop :=
  (
    ∀ (s : State) (d a b : SReg) (dp ap : PReg) (tp : PReg) (la : BitVec 4),
      let det := (s.launch s.cur.tile).det
      let x := (s.th.getS d).toNat
      let timeout := some ((s.th.getS b).toNat % 2 ^ 32)
      let waits (i : Instr) (dests : List RegRef) (c : Cond) (reach lag : Nat) : Prop := s.clear i → exec i s = .next
        ((((s.countIssue true).modTh fun t => { t with msgUsed := true }).waitFor (some la) dests c reach lag timeout).modTh
          fun t => t.advanceFrom s.th.pc)
      let illegal (i : Instr) : Prop := s.clear i → ∃ w, encodeWord i = some w ∧
        exec i s = .next (s.trap .illegal (w.setWidth 64))
      let q := (s.core s.cur.tile s.cur.core).recvq[ap.toFin].filter fun m => m.at_ ≤ s.now s.cur.tile
      waits (.msgSend dp a b tp la) [.p tp] (.send dp.toFin (s.th.getS a) tp) 1 2 ∧
      (det = false → waits (.msgRecv d ap b tp la) [.s d, .p tp] (.recv .any ap.toFin d tp) 0 4) ∧
      (det = true → illegal (.msgRecv d ap b tp la) ∧ illegal (.msgPeek d ap)) ∧
      (x < 2 ^ 20 → waits (.msgRecvs d ap b tp la) [.s d, .p tp]
        (.recv (.named (x / 2 ^ 16) (x % 2 ^ 16)) ap.toFin d tp) 0 4) ∧
      (2 ^ 20 ≤ x → illegal (.msgRecvs d ap b tp la)) ∧
      (x < 2 ^ 16 → waits (.msgRecvr d ap b tp la) [.s d, .p tp] (.recv (.ret x) ap.toFin d tp) 0 4) ∧
      (2 ^ 16 ≤ x → illegal (.msgRecvr d ap b tp la)) ∧
      (det = false → s.clear (.msgPeek d ap) → exec (.msgPeek d ap) s = .next (s.retired fun t =>
        { (t.setS d (match q with
            | [] => 0
            | m :: _ => BitVec.ofNat 64 (2 ^ 31 + (if m.ret.isSome then 2 ^ 30 else 0) + m.thr.val * 2 ^ 16 + m.seq.toNat))) with
          msgUsed := true }))) ∧
  (
    ∀ (s : State) (r : ThreadRef) (o : Outst) (k : Fin 8) (payload : Word) (d : SReg) (tp : PReg),
      let core (s : State) : Core := s.core r.tile r.core
      let told (s' : State) (w : Writes) : Prop :=
        (∀ x ∈ (s.thread r).outst, x.id = o.id → { x with cond := .ready w } ∈ (s'.thread r).outst) ∧
        (⟨.deck (deckOf r.tile), s.now r.tile + o.lag, false, r, { n := o.id }, .resultArrival⟩ ∈ s'.agenda)
      (8 ≤ (core s).sendq[k].length → s.trySend r o k payload tp = none) ∧
      ((core s).sendq[k].length < 8 →
        let seq : BitVec 16 := if (s.thread r).mseq[k] = 0xFFFF then 1 else (s.thread r).mseq[k] + 1
        ∃ s', s.trySend r o k payload tp = some s' ∧ told s' { p := [(tp, false)] } ∧
          (core s').sendq[k] = (core s).sendq[k] ++ [⟨payload, r.core, r.thr, seq, none, s.now r.tile⟩] ∧
          (s'.thread r).mseq[k] = seq) ∧
      ∀ (f : RecvForm) (before rest : List Msg) (m : Msg), (core s).recvq[k] = before ++ m :: rest →
        (∀ x ∈ before, x.at_ ≤ s.now r.tile → f.takes r.thr x = false) → m.at_ ≤ s.now r.tile → f.takes r.thr m = true →
        ∃ s', s.tryRecv r o f k d tp = some s' ∧ told s' { s := [(d, m.payload)], p := [(tp, false)] } ∧
          (core s').recvq[k] = before ++ rest)

/-- R189 to R192: the smp forms check their cell address (ALIGN, PROT, XSCOPE); post puts the vector into the core's post
path, or waits while it holds 8; sample, count and wait are tested at the own cell array 4 cycles after issue; a sample of
another tile sends a request; an odd vector register is ILLEGAL; bar joins the barrier. Where it shows a choice of the
model, not a rule: log 34. -/
def Obligations.SampleForms : Prop :=
  ∀ (s : State) (v : VReg) (d a b : SReg) (tp : PReg) (la : BitVec 4),
    let x := s.th.getS a
    let tile := s.cur.tile
    let cell : Fin 256 := ⟨amOff x / 64 % 256, Nat.mod_lt _ (by decide)⟩
    let isCell : Bool := isTileMap x && amFormOk x && (amKind x == 9) && decide (amOff x < 16384)
    let ok : Prop := x.toNat % 64 = 0 ∧ isCell = true
    let timeout := some ((s.th.getS b).toNat % 2 ^ 32)
    let waits (i : Instr) (dests : List RegRef) (c : Cond) (lag : Nat) (tm : Option Nat) : Prop := exec i s = .next
      (((s.countIssue true).waitFor (some la) dests c 4 lag tm).modTh fun t => t.advanceFrom s.th.pc)
    (s.clear (.smpPost v a) → ok →
      (s.pathLen tile s.cur.core < 8 → amTile x = tile → ∃ s', exec (.smpPost v a) s = .next s' ∧
        (s'.core tile s.cur.core).posts = (s.core tile s.cur.core).posts ++
          [(s.now tile + 4, s.th.owner, cell.val, s.th.getV v, (s.tile tile).kact.setWidth 16)] ∧
        s'.cur = s.cur ∧ s'.acked s.cur = false) ∧
      (s.pathLen tile s.cur.core < 8 → amTile x ≠ tile → (s.part (s.launch tile).part).hasTile (amTile x) = true →
        ∃ s' f, exec (.smpPost v a) s = .next s' ∧ (s'.tile tile).copy.inj = (s.tile tile).copy.inj ++ [f] ∧
          f.flit.dst = amTile x ∧ f.flit.cls = 0 ∧ f.core = some s.cur.core ∧
          f.flit.msg = .post cell.val (s.th.getV v) ((s.tile tile).kact.setWidth 16) false ∧
          s'.cur = s.cur ∧ (s'.tile tile).copy.acks.get? f.flit.ref = some (.post s.th.owner)) ∧
      (s.pathLen tile s.cur.core < 8 → amTile x ≠ tile → (s.part (s.launch tile).part).hasTile (amTile x) = false →
        ∃ s', exec (.smpPost v a) s = .next s' ∧ (s'.tile tile).copy.rpost = (s.tile tile).copy.rpost + 1 ∧
          s'.cur = s.cur ∧ (s'.tile tile).copy.acks = (s.tile tile).copy.acks) ∧
      (8 ≤ s.pathLen tile s.cur.core → ∃ s', exec (.smpPost v a) s = .next s' ∧ s'.cur = s.cur ∧ s'.th.st = .waiting ∧
        s'.th.pc = s.th.pc)) ∧
    (s.clear (.smpSample v a b tp la) → v.toNat % 2 = 0 → ok →
      (amTile x = tile → waits (.smpSample v a b tp la) [.v v, .v (v + 1), .p tp] (.snap cell v tp) 4 none) ∧
      (amTile x ≠ tile → (s.part (s.launch tile).part).hasTile (amTile x) = true →
        ∃ s' f, exec (.smpSample v a b tp la) s = .next s' ∧ s'.cur = s.cur ∧
          (s'.tile tile).copy.inj = (s.tile tile).copy.inj ++ [f] ∧ f.flit.dst = amTile x ∧ f.flit.cls = 0 ∧
          f.flit.msg = .sampleReq cell.val false ∧
          (s'.th.outst.getLast?).map (·.cond) = some (.sample f.flit.ref (amTile x) cell.val v tp)) ∧
      (amTile x ≠ tile → (s.part (s.launch tile).part).hasTile (amTile x) = false →
        ∃ s', exec (.smpSample v a b tp la) s = .next s' ∧ s'.cur = s.cur ∧
          (s'.tile tile).copy.rsmp = (s.tile tile).copy.rsmp + 1 ∧
          (s'.th.outst.getLast?).map (·.cond) = some (.ready { p := [(tp, true)] }))) ∧
    (s.clear (.smpSample v a b tp la) → v.toNat % 2 = 1 → ∃ w, encodeWord (.smpSample v a b tp la) = some w ∧
      exec (.smpSample v a b tp la) s = .next (s.trap .illegal (w.setWidth 64))) ∧
    (ok → amTile x = tile →
      (s.clear (.smpCount d a la) → waits (.smpCount d a la) [.s d] (.count cell d) 2 none) ∧
      (s.clear (.smpWait d a b tp la) → waits (.smpWait d a b tp la) [.s d, .p tp]
        (.cell cell ((s.th.getS d).setWidth 32) d tp) 2 timeout)) ∧
    (∀ row ∈ ([(.smpPost v a, false), (.smpCount d a la, true), (.smpWait d a b tp la, true)] : List (Instr × Bool)),
      s.clear row.1 →
      (x.toNat % 64 ≠ 0 → exec row.1 s = .next (s.trap .align x)) ∧
      (x.toNat % 64 = 0 → isCell = false → exec row.1 s = .next (s.trap .prot x)) ∧
      (row.2 = true → x.toNat % 64 = 0 → isCell = true → amTile x ≠ tile → exec row.1 s = .next (s.trap .xscope x))) ∧
    (s.clear (.smpBar d b tp la) →
      let s1 := s.countIssue true
      let s2 := if (s.tile tile).copy.bar.isSome then s1 else s1.barrierStart tile
      exec (.smpBar d b tp la) s = .next (((s2.waitFor (some la) [.s d, .p tp] (.bar d tp) 0 4 timeout).barrierRun tile 17).modTh
        fun t => t.advanceFrom s.th.pc))

/-- R81, R201 to R204: a push of a word that is a command waits, as a fence of the tile, with its entry; another word raises
ILLEGAL with its header as trap value. The identifier waits check their operand and are tested 2 cycles after issue; jidrd
reads the core's last completed job. R196, R202 to R204, R228: a push enters its queue while that has room and gives the
next identifier of its channel, or of its core and engine; a wait for a transfer that has been reached gives 0, or the
channel's failure record when it covers the identifier, which it clears. Where it shows a choice of the model, not a rule:
log 34. -/
def Obligations.EngineForms : Prop :=
  (
    ∀ (s : State) (v : VReg) (d a b : SReg) (tp : PReg) (la : BitVec 4),
      let t := s.th
      let x := t.getS a
      let w := t.getV v
      let timeout := some ((t.getS b).toNat % 2 ^ 32)
      let banks := (List.range 56).filter fun k => t.tbm.getLsbD k
      let waits (i : Instr) (c : Cond) : Prop := exec i s = .next
        (((s.countIssue true).waitFor (some la) [.s d, .p tp] c 2 4 timeout).modTh fun t => t.advanceFrom t.pc)
      (s.clear (.engPush d v b tp) →
        ((decodeTWord w).toOption.isSome → ∃ s', exec (.engPush d v b tp) s = .next s' ∧ s'.cur = s.cur ∧
          s'.th.st = .waiting ∧ s'.th.pc = t.pc ∧ s'.th.outst.getLast? = some
            { id := t.nextOp, addr := t.pc, dests := [.s d, .p tp], cond := .push banks w d tp, hold := true,
              start := s.now s.cur.tile, limit := timeout } ∧ s'.th.s = t.s ∧ s'.th.v = t.v ∧ s'.th.p = t.p) ∧
        ((decodeTWord w).toOption = none → exec (.engPush d v b tp) s = .next (s.trap .illegal (w.extractLsb' 192 64)))) ∧
      (s.clear (.engXidwait d a b tp la) →
        (x.toNat < 2 ^ 38 → waits (.engXidwait d a b tp la) (.xid (x.extractLsb' 32 6).toFin (x.extractLsb' 0 32) d tp)) ∧
        (2 ^ 38 ≤ x.toNat → exec (.engXidwait d a b tp la) s = .next (s.trap .illegal x))) ∧
      (s.clear (.engJidwait d a b tp la) →
        let ok : Bool := decide (x.toNat < 2 ^ 18) && decide (2 ≤ x.toNat / 2 ^ 16)
        (ok = true → waits (.engJidwait d a b tp la) (.jid (x.toNat / 2 ^ 16) (x.extractLsb' 0 16) d tp)) ∧
        (ok = false → exec (.engJidwait d a b tp la) s = .next (s.trap .illegal x))) ∧
      (s.clear (.engJidrd d a) →
        (x.toNat % 4 = 2 → exec (.engJidrd d a) s = .next (s.retired fun t =>
          t.setS d ((s.core s.cur.tile s.cur.core).mxDone.setWidth 64))) ∧
        (x.toNat % 4 = 3 → exec (.engJidrd d a) s = .next (s.retired fun t =>
          t.setS d ((s.core s.cur.tile s.cur.core).evDone.setWidth 64))) ∧
        (x.toNat % 4 < 2 → exec (.engJidrd d a) s = .next (s.trap .illegal x)))) ∧
  (
    ∀ (s : State) (r : ThreadRef) (o : Outst) (w : V256) (d : SReg) (tp : PReg),
      let core (s : State) : Core := s.core r.tile r.core
      let told (s' : State) (x : Word) : Prop :=
        (∀ y ∈ (s.thread r).outst, y.id = o.id → { y with cond := .ready { s := [(d, x)], p := [(tp, false)] } } ∈ (s'.thread r).outst) ∧
        (⟨.deck (deckOf r.tile), s.now r.tile + o.lag, false, r, { n := o.id }, .resultArrival⟩ ∈ s'.agenda)
      let eng := (w.extractLsb' 248 8).toNat
      let k := (w.extractLsb' 216 6).toNat
      let chan (s : State) (k : Nat) : Chan := (s.tile r.tile).copy.chans.getD k {}
      let entry (id : Nat) : QCmd := ⟨w, r.core, id, r.thr, o.addr, (s.thread r).picked⟩
      (eng = 1 → (core s).copyq.length < 16 → ∃ s', s.tryPush r o w d tp = some s' ∧
        (core s').copyq = (core s).copyq ++ [entry ((chan s k).last + 1).toNat] ∧ (chan s' k).last = (chan s k).last + 1 ∧
        told s' (BitVec.ofNat 64 (k * 2 ^ 32 + ((chan s k).last + 1).toNat))) ∧
      (eng = 1 → 16 ≤ (core s).copyq.length → s.tryPush r o w d tp = none) ∧
      (eng = 2 → (core s).mxq.length < 8 → ∃ s', s.tryPush r o w d tp = some s' ∧
        (core s').mxq = (core s).mxq ++ [entry ((core s).mxIssued + 1).toNat] ∧ (core s').mxIssued = (core s).mxIssued + 1 ∧
        told s' (BitVec.ofNat 64 (2 * 2 ^ 16 + ((core s).mxIssued + 1).toNat))) ∧
      (eng = 3 → (s.tile r.tile).ev.cmds.length < 16 → ∃ s', s.tryPush r o w d tp = some s' ∧
        (s'.tile r.tile).ev.cmds = (s.tile r.tile).ev.cmds ++ [entry ((core s).evIssued + 1).toNat] ∧
        told s' (BitVec.ofNat 64 (3 * 2 ^ 16 + ((core s).evIssued + 1).toNat))) ∧
      ∀ (c : Fin 64) (x : W32),
        let f := (chan s c.val).fail
        let reached (ct y : W32) : Prop := (ct - y).toNat < 2 ^ 31
        (¬reached (chan s c.val).ct x → s.tryXid r o c x d tp = none) ∧
        (reached (chan s c.val).ct x → f.valid = false ∨ ¬reached x (BitVec.ofNat 32 f.id) →
          ∃ s', s.tryXid r o c x d tp = some s' ∧ told s' 0) ∧
        (reached (chan s c.val).ct x → f.valid = true → reached x (BitVec.ofNat 32 f.id) → f.status ≠ 0x0A →
          ∃ s', s.tryXid r o c x d tp = some s' ∧ (chan s' c.val).fail.valid = false ∧
            told s' (BitVec.ofNat 64 (f.id % 2 ^ 32 * 2 ^ 32 + f.more % 256 * 256 + f.status.toNat))))

/-- R193 to R195: strm.bind of a free stream register waits for the fence of the tile; strm.unbind ends the binding and the
register reads zero; strm.xid gives the binding's transfer identifier. Registers that are no free stream register raise
STREAM, a misaligned record ALIGN. R23, R155, R156: an instruction that reads a register bound to an input stream takes its
next datum into the register first, with the flags of its conversion; with no datum it waits for its limit and is then
skipped with the starve predicate set, and with the stream at its end it is skipped at once. One that writes a register
bound to an output stream appends its result. Shown for a vector copy. R46, R155, R194, R222, R275: the registers not ready
when a wait limit passes are noted, and STREAM_WAIT_EXPIRY skips the waiting instruction with their starve predicates set.
STREAM_FILL fetches the next datum of an input stream, under the tables of its first fetch, and delivers it when it has
arrived, or stores the oldest of an output stream, whose identifier is the channel's next; one that has moved its last
element does nothing more. Where it shows a choice of the model, not a rule: log 19, log 42, log 96. -/
def Obligations.Streams : Prop :=
  (
    ∀ (s : State) (v : VReg) (d a : SReg),
      let t := s.th
      let x := t.getS a
      let banks := (List.range 56).filter fun k => t.tbm.getLsbD k
      let word (i : Instr) (c : Cause) : Prop := ∃ w, encodeWord i = some w ∧ exec i s = .next (s.trap c (w.setWidth 64))
      (s.clear (.strmBind v a) → t.pending.contains (.v v) = false →
        (v.toNat < 8 → word (.strmBind v a) .stream) ∧
        (8 ≤ v.toNat → x.toNat % 32 ≠ 0 → exec (.strmBind v a) s = .next (s.trap .align x)) ∧
        (8 ≤ v.toNat → x.toNat % 32 = 0 → t.binds.has v.toNat = true → exec (.strmBind v a) s = .next (s.trap .stream x)) ∧
        (8 ≤ v.toNat → x.toNat % 32 = 0 → t.binds.has v.toNat = false → ∃ s', exec (.strmBind v a) s = .next s' ∧
          s'.cur = s.cur ∧ s'.th.st = .waiting ∧ s'.th.pc = t.pc ∧ s'.th.binds = t.binds ∧
          s'.th.outst.getLast? = some
            { id := t.nextOp, addr := t.pc, dests := [], cond := .bind banks v x, hold := true, start := s.now s.cur.tile })) ∧
      (s.clear (.strmUnbind v) → t.pending.contains (.v v) = false →
        (t.binds.get? v.toNat = none → word (.strmUnbind v) .stream) ∧
        (∀ b, t.binds.get? v.toNat = some b → ∃ s', exec (.strmUnbind v) s = .next s' ∧ s'.cur = s.cur ∧ s'.th.getV v = 0 ∧
          s'.th.binds = t.binds.erase v.toNat ∧ s'.th.outst = t.outst ∧
          (s'.tile s.cur.tile).drains = (s.tile s.cur.tile).drains ++ [if b.out then b else { b with buf := [], coming := none }])) ∧
      (s.clear (.strmXid d v) → t.pending.contains (.v v) = false →
        (t.binds.get? v.toNat = none → word (.strmXid d v) .stream) ∧
        (∀ b, t.binds.get? v.toNat = some b →
          exec (.strmXid d v) s = .next (s.retired fun t => t.setS d (b.xid.setWidth 64)))) ∧
      (s.clear (.strmBind v a) → t.pending.contains (.v v) = true → word (.strmBind v a) .illegal)) ∧
  (
    ∀ (s : State) (d a : VReg) (b : StrmBind),
      let t := s.th
      let i : Instr := .vmovMov d a
      t.conflict (regUse i) = false → t.resv = none →
      (b.out = false → a ≠ d → t.binds.get? a.toNat = some b → t.binds.get? d.toNat = none →
        (∀ x f rest, b.buf = (x, f) :: rest → ∃ s', exec i s = .next s' ∧ s'.cur = s.cur ∧ s'.th.getV a = x ∧ s'.th.getV d = x ∧
          s'.th.fflags = t.fflags ||| f ∧ s'.th.binds.get? a.toNat = some { b with buf := rest } ∧ s'.th.strmWait = none) ∧
        (b.buf = [] → b.total ≤ b.next → exec i s = .next (s.modTh fun t =>
          { t.setP b.starve true with strmWait := none, starved := [], look := if t.busy then t.look - 1 else t.look, held := false }.advanceFrom
            t.pc)) ∧
        (b.buf = [] → b.next < b.total → b.limit ≤ 65535 →
          let first := t.strmWait.getD (s.now s.cur.tile)
          (s.now s.cur.tile - first < b.limit → exec i s = .next (s.modTh fun t => { t with strmWait := some first })) ∧
          (b.limit ≤ s.now s.cur.tile - first → exec i s = .next (s.modTh fun t =>
            { t.setP b.starve true with strmWait := none, starved := [], look := if t.busy then t.look - 1 else t.look, held := false }.advanceFrom
              t.pc)))) ∧
      (b.out = true → a ≠ d → t.binds.get? d.toNat = some b → t.binds.get? a.toNat = none → b.buf.length < 4 →
        (b.shape.extractLsb' 64 8).toNat = 7 → ∃ s', exec i s = .next s' ∧ s'.cur = s.cur ∧
          s'.th.binds.get? d.toNat = some { b with buf := b.buf ++ [(t.getV a, 0)] } ∧ s'.th.fflags = t.fflags)) ∧
  (
    ∀ (s : State) (b : StrmBind),
      let t := s.th
      let tile := s.cur.tile
      (∀ i limit who n, t.strmWait = some n → s.instrAt s.cur = some i → t.st = .running → t.starved = [] →
        t.strmGate (regUse i) = .wait limit who → (s.pollStarve s.cur).1 =
          if limit ≤ s.now tile - n then s.modTh fun t => { t with starved := who.map (·.1) } else s) ∧
      (t.starved ≠ [] → ∃ s', exec .streamWaitExpiry s = .next s' ∧ s'.cur = s.cur ∧
        (∀ v ∈ t.starved, ∀ x, t.binds.get? v.toNat = some x → x.starve ≠ 0 → s'.th.getP x.starve = true) ∧ s'.th.s = t.s ∧
        s'.th.v = t.v ∧ s'.th.binds = t.binds ∧ s'.th.strmWait = none ∧ s'.th.starved = [] ∧ s'.th.fflags = t.fflags ∧
        ((t.loopLvl false).active = false → (t.loopLvl true).active = false → s'.th.pc = t.pc + 4)) ∧
      (t.binds.get? s.arg.n = some b → b.xid.setWidth 64 = s.arg.w → b.status = 0 →
        ((s.tile tile).copy.chans.getD b.chan.val {}).fpend = none → b.xid = ((s.tile tile).copy.chans.getD b.chan.val {}).ct + 1 →
        (b.out = false → b.coming = none → b.total ≤ b.next → exec .streamFill s = .next s) ∧
        (∀ x, b.out = false → b.coming = some x → b.total ≤ b.next + b.advance → ∃ s', exec .streamFill s = .next s' ∧
          (s'.thread s.cur).binds.get? s.arg.n =
            some { b with buf := b.buf ++ [x], next := b.next + b.advance, coming := none }) ∧
        (∀ s1 s2 lat x, b.out = false → b.coming = none → b.next < b.total → b.buf.length < 4 →
          let c := s.core tile b.core
          let y : StrmBind := { b with tabs := b.tabs.or (some (c.t8, c.t4)) }
          s.datumLat s.cur y = (s1, lat) → s1.streamDatum tile y = (s2, .ok (some x)) →
          ∃ s', exec .streamFill s = .next s' ∧ 0 < lat ∧
            (s'.thread s.cur).binds.get? s.arg.n = some { y with coming := some x } ∧
            (⟨.deck (deckOf tile), s2.now tile + lat, false, s.cur, s.arg, .streamFill⟩ ∈ s'.agenda)) ∧
        (∀ s1 v f rest, b.out = true → b.coming = none → b.buf = (v, f) :: rest → s.storeDatum tile b v = (s1, none) →
          ∃ s', exec .streamFill s = .next s' ∧
            (s'.thread s.cur).binds.get? s.arg.n = some { b with buf := rest, next := b.next + b.advance })))

/-- R43, R46, R152: vcvt.tload of an image in the own core's local memory queues it at the core's tload unit; it becomes the
core's T8 table 160 cycles, its T4 table 24 cycles, after its arrival or the table before it; until then it is outstanding as if it
wrote s0. Where it shows a choice of the
model, not a rule: log 10. -/
def Obligations.TableLoads : Prop :=
  ∀ (s : State) (a : SReg) (tb : TblSel) (la : BitVec 4),
    let x := s.th.getS a
    let n := if tb = .t4 then 16 else 256
    let l := s.launch s.cur.tile
    let core (s : State) : Core := s.core s.cur.tile s.cur.core
    let o := (lmPlace l x).off
    let now := s.now s.cur.tile
    let image := (List.range n).map fun k => ofContainer (BitVec.ofNat 32 ((core s).lm.readNat (o + 4 * k) 4))
    let done := max (now + 8) (core s).tlast + if tb = .t4 then 24 else 160
    (s.clear (.vcvtTload a tb la) →
      (x.toNat % 32 ≠ 0 → exec (.vcvtTload a tb la) s = .next (s.trap .align x)) ∧
      (x.toNat % 32 = 0 → isGlobal x = false → isTileMap x = true → amFormOk x = true → amTile x = s.cur.tile → amKind x = 0 →
        amOff x + 4 * n ≤ 0x4_0000 → amCore x = s.cur.core → s.lmBad s.cur.tile s.cur.core o (4 * n) = false →
        ∃ s', exec (.vcvtTload a tb la) s = .next s' ∧ s'.cur = s.cur ∧
          (core s').tloads = (core s).tloads ++ [⟨s.cur.thr, s.th.nextOp, decide (tb = .t4), image, now + 8⟩] ∧
          (core s').tlast = done ∧ (core s').t8 = (core s).t8 ∧ (core s').t4 = (core s).t4 ∧
          s'.th.outst.getLast? = some { id := s.th.nextOp, addr := s.th.pc, dests := [.s 0], cond := .tload } ∧
          (⟨.deck (deckOf s.cur.tile), now + (done - now), false, s.cur, {}, .tloadComplete⟩ ∈ s'.agenda))) ∧
    ∀ (q : TLoad) (rest : List TLoad), (core s).tloads = q :: rest → ∃ s', exec .tloadComplete s = .next s' ∧
      s'.cur = s.cur ∧ (core s').tloads = rest ∧
      (∀ k < q.image.length, tabEntry (if q.t4 then (core s').t4 else (core s').t8) k = q.image.getD k 0) ∧
      (if q.t4 then (core s').t8 = (core s).t8 else (core s').t4 = (core s).t4)

/-! ## The commands of the engines (spec/07, spec/08) -/

/-- R199, R207, R208, R213 to R224: the copy commands of a channel at the start of their work, on operands in the own tile. aff
moves the bytes of a run within one line and completes OK; red adds an addend into its accumulator and counts the
contribution; pull prepares its transfer and sends its request once a flit buffer takes it; mcast sends its head and its
lines to the strip's gateway; ev numbers its events and hands them to the queue; bar starts the barrier and posts the epoch into
barrier cell 0 of the next tile in launch order; probe clears the work bit and posts the token into that tile's probe cell; hatom asks
the host with its operands and waits; wb and inv complete when no line of the range is cached, inv leaving no fill of the range under
way. Bytes that
waking a unit on a written word writes (R169, R340) are excepted. A command whose operand a check refuses ends with the status of the
check, and local memory and host memory stay as they are: PROT for an address, a kind or a reserved bit that is refused, NOEXPORT for
a window of another tile that is not exported or outside the partition, ALIGN, BADSHAPE for a shape record that fails R210, BADREC for
a record that is not aligned, BADREGION for an exponent outside its range, ATYPE for an operation that the host has not, CELLBUSY,
BADEPOCH, NOGROUP, BADLEN. Where it shows a choice of the model, not a rule: log 9, log 10, log 14, log 18, log 26, log 28, log 44,
log 45. -/
def Obligations.CopyCommands : Prop :=
  (∀ (s : State) (h : CopyHdr) (ops : BitVec 192) (q : QCmd),
    let tile := s.cur.tile
    let k := h.chan.toNat
    let l := s.launch tile
    let a := ops.extractLsb' 0 64
    let b := ops.extractLsb' 64 64
    let c := ops.extractLsb' 128 64
    let len := (ops.extractLsb' 128 32).toNat
    let run (s : State) : Option ChanRun := ((s.tile tile).copy.chans.getD k {}).run
    let ends (s' : State) : Prop :=
      (⟨.deck (deckOf tile), s.now tile, false, ⟨tile, 0, 0⟩, { n := k, m := 0 }, .copyCompletion⟩ ∈ s'.agenda)
    let mine (x : Word) (n : Nat) : Prop := isGlobal x = false ∧ isTileMap x = true ∧ amFormOk x = true ∧ amTile x = tile ∧
      amKind x = 0 ∧ amOff x + n ≤ 0x4_0000 ∧ s.lmBad tile (amCore x) (amOff x) n = false ∧
      (s.core tile (amCore x)).lm.wf = true
    let rd (s : State) (x : Word) (n : Nat) : Nat := (s.core tile (amCore x)).lm.readNat (amOff x) n
    let woken (x : Word) (n y : Nat) : Prop := ∃ w ∈ wordsOf (amOff x) n, (s.core tile (amCore x)).wokenByte l w y
    (run s = some { q := q } →
    (h.flags = 0 → ops.extractLsb' 160 32 = 0 → 0 < len → mine a len → mine b len → a.toNat % 64 + len ≤ 64 →
      b.toNat % 64 + len ≤ 64 → ∃ s', exec (.copyAff h ops) s = .next s' ∧ ends s' ∧
      (∀ j < len, ¬woken b len (amOff b + j) →
        (s'.core tile (amCore b)).lm.readByte (amOff b + j) = (s.core tile (amCore a)).lm.readByte (amOff a + j)) ∧
      ∀ t j y, ¬(t = tile ∧ j = amCore b ∧ (woken b len y ∨ (amOff b ≤ y ∧ y < amOff b + len))) →
        (s'.core t j).lm.readByte y = (s.core t j).lm.readByte y) ∧
    (∀ ty first : Nat, h.flags.toNat % 4 = ty → first = len → (ops.extractLsb' 160 32).toNat = 1 →
      let sz := if ty = 3 then 8 else 4
      let acc : Word := b + BitVec.ofNat 64 (16 + 16 * first)
      mine a sz → a.toNat % sz = 0 → mine b (32 + 16 * first) → b.toNat % 16 = 0 →
      (∀ y, amOff b ≤ y → y < amOff b + 32 + 16 * first → ¬woken b (32 + 16 * first) y) →
      let e := (BitVec.ofNat 16 (rd s b 2)).toInt
      e ≤ 255 → -256 ≤ e →
      let r := w128Add (BitVec.ofNat 128 (rd s acc 16)).toInt (addendVal ty (rd s a sz)) e
      ∃ s', exec (.copyRed h ops) s = .next s' ∧ ends s' ∧ rd s' acc 16 = (BitVec.ofInt 128 r.1).toNat ∧
        rd s' (b + 8) 8 = (rd s (b + 8) 8 + 1) % 2 ^ 64 ∧ rd s' b 2 = rd s b 2) ∧
    (∀ first : Nat, ops.extractLsb' 176 16 = 0 → (ops.extractLsb' 168 8).toNat = first → first ≤ 8 → 0 < len → len ≤ 64 →
      mine a len → a.toNat % 64 + len ≤ 64 → isGlobal b = false → isTileMap b = true → amFormOk b = true → amTile b ≠ tile →
      amKind b = 0 → amOff b + len ≤ 0x4_0000 → (s.part l.part).hasTile (amTile b) = true → (s.tile (amTile b)).launch.isSome = true →
      (s.launch (amTile b)).exports 0 = true →
      (s.tile tile).copy.cellBusy k (ops.extractLsb' 160 8).toNat = false →
      ∃ s' p, exec (.copyPull h ops) s = .next s' ∧ run s' = some { q := q, pull := some p } ∧ p.dst = amTile b ∧ p.ask = true ∧
        p.base = 0 ∧ p.send = (if p.req.pfx = 0 then none else some { next := 0, stop := min len (64 * p.req.pfx) }) ∧
        p.req.pfx ≤ first ∧ p.req.dest = b ∧ p.req.len = len ∧ p.req.src = tile ∧ p.req.chan = k ∧
        p.req.xid = BitVec.ofNat 32 q.id ∧ p.req.gcell = (ops.extractLsb' 160 8).toNat ∧ p.req.kind = .pull) ∧
    (∀ n : Nat, (ops.extractLsb' 72 8).toNat = n → 0 < n → n ≤ 4 → mine a (64 * n) → a.toNat % 64 = 0 →
      (ops.extractLsb' 80 48).toNat % 64 = 0 → mine c 64 → c.toNat % 64 = 0 →
      s.groupBits l.part l.ctx (ops.extractLsb' 64 8).toNat ≠ 0 →
      (s.tile tile).copy.inj.length < 60 →
      ∃ s' fs, exec (.copyMcast h ops) s = .next s' ∧ (run s').map (·.wait) = some true ∧
        (s'.tile tile).copy.inj = (s.tile tile).copy.inj ++ fs ∧ (∀ f ∈ fs, f.flit.dst = gatewayTile tile ∧ f.chan = some k) ∧
        fs.map (·.flit.msg) =
          .mcastHead k q.id (ops.extractLsb' 64 8).toNat (ops.extractLsb' 80 48).toNat n ::
            (List.range n).map fun i => .mcastLine k i (flitAt (natToBytes (64 * n) (rd s a (64 * n))) (64 * i))) ∧
    (∀ n : Nat, (ops.extractLsb' 128 16).toNat = n → 0 < n → n ≤ 4096 → ops.extractLsb' 144 48 = 0 → mine a (8 * n) →
      a.toNat % 8 = 0 → isTileMap b = true → amFormOk b = true → amKind b = 10 → amOff b = 0 → amTile b = tile →
      (s.part l.part).hasTile tile = true →
      ∃ s', exec (.copyEv h ops) s = .next s' ∧ ends s' ∧
        let at_ := (s.part l.part).posOf tile
        let num := (s.tile tile).copy.sent.getD at_ 0
        (s'.tile tile).copy.sent.getD at_ 0 = num + BitVec.ofNat 32 n ∧
        ∀ j < n, (⟨.deck (deckOf tile), s.now tile, false, ⟨tile, 0, 0⟩,
          { w := BitVec.ofNat 64 (rd s a (8 * n) / 2 ^ (64 * j)), n := tile, m := (num + 1 + BitVec.ofNat 32 j).toNat },
          .eventIntake⟩ ∈ s'.agenda)) ∧
    (ops.extractLsb' 64 128 = 0 → (s.tile tile).copy.bar = none → ops.extractLsb' 0 32 = (s.tile tile).copy.bepoch + 1 →
      1 < l.rounds → epochReached (BitVec.ofNat 32 (valBytes ((s.tile tile).cell 254).value 0 4)) (ops.extractLsb' 0 32) = false →
      l.tileAt ((l.order tile + 1) % l.size) ≠ tile →
      ∃ s', exec (.copyBar h ops) s = .next s' ∧ (s'.tile tile).copy.bepoch = ops.extractLsb' 0 32 ∧
        (s'.tile tile).copy.bar = some { epoch := ops.extractLsb' 0 32, round := 0, chans := [k] } ∧
        ((s.part l.part).hasTile (l.tileAt ((l.order tile + 1) % l.size)) = true →
          ∃ f, (s'.tile tile).copy.inj = (s.tile tile).copy.inj ++ [f] ∧ f.flit.dst = l.tileAt ((l.order tile + 1) % l.size) ∧
            f.flit.msg = .post 254 ((ops.extractLsb' 0 32).setWidth 256) ((s.tile tile).kact.setWidth 16) true)) ∧
    (ops.extractLsb' 32 160 = 0 → (∀ x ∈ (s.tile tile).copy.probes, x.1 ≠ k) → ∃ s', exec (.copyProbe h ops) s = .next s' ∧ (s'.tile tile).copy.work = false ∧
      (s'.tile tile).copy.probes = (s.tile tile).copy.probes ++ [(k, ops.extractLsb' 0 32)] ∧
      (l.tileAt ((l.order tile + 1) % l.size) ≠ tile → (s.part l.part).hasTile (l.tileAt ((l.order tile + 1) % l.size)) = true →
        ∃ f, (s'.tile tile).copy.inj = (s.tile tile).copy.inj ++ [f] ∧ f.flit.dst = l.tileAt ((l.order tile + 1) % l.size) ∧
          f.flit.msg = .post 255 (BitVec.ofNat 256 ((ops.extractLsb' 0 32).toNat + tile % 0x2000 * 2 ^ 48))
            ((s.tile tile).kact.setWidth 16) true)) ∧
    (∀ (n : Nat) (s1 : State) (pa : Nat), n = (if h.flags.getLsbD 2 then 8 else 4) → h.flags.getLsbD 3 = false →
      h.flags.toNat % 4 ≠ 3 → isGlobal a = true → a.toNat % n = 0 → s.translate tile a true true = (s1, .host pa) → mine b 16 →
      b.toNat % 8 = 0 → mine c 8 → c.toNat % 8 = 0 →
      ∃ s' lat m g, exec (.copyHatom h ops) s = .next s' ∧ 0 < lat ∧ m < 3 ∧
        run s' = some { q := q, wait := true,
                        host := some (g, pa, rd s b 16 % 2 ^ (8 * n), rd s b 16 / 2 ^ 64 % 2 ^ (8 * n)) } ∧
        s'.host = s.host ∧ s'.hostFog = s.hostFog ∧ (⟨.ref, s.clock + lat, false, ⟨tile, 0, 0⟩,
          { n := k, m := m, w := BitVec.ofNat 64 g }, .hostAtomicCompletion⟩ ∈ s'.agenda)) ∧
    (isGlobal a = true → b = 0 → 0 < len → ops.extractLsb' 160 32 = 0 →
      (∀ x : Fin 8 × Line, x ∉ (s.tile tile).linesIn a len) →
      (∃ s', exec (.copyWb h ops) s = .next s' ∧ ends s' ∧ s'.tiles = s.tiles ∧ s'.parts = s.parts) ∧
      ∃ s', exec (.copyInv h ops) s = .next s' ∧ ends s' ∧ s'.parts = s.parts ∧ (∀ t j, s'.core t j = s.core t j) ∧
        ∀ m ∈ (s'.tile tile).misses, ∀ n j, m.what = .line n j false → n < a.toNat / 64 ∨ (a.toNat + len - 1) / 64 < n)) ∧
    ∀ p : Pull, run s = some { q := q, pull := some p } → p.ask = true → ((s.tile tile).copy.buffer k).isSome = true →
      ∃ s', exec (.copyPull h ops) s = .next s' ∧ (run s').map (fun r => (r.pull.map (·.ask)).getD true) = some false ∧
        ∃ f ∈ (s'.tile tile).copy.inj, f.flit.msg = .req p.req ∧ f.flit.dst = p.dst ∧ f.chan = some k) ∧
  -- a command whose operand a check refuses
  ∀ (s : State) (h : CopyHdr) (ops : BitVec 192) (q : QCmd),
    let tile := s.cur.tile
    let k := h.chan.toNat
    let l := s.launch tile
    let part := s.part l.part
    let a := ops.extractLsb' 0 64
    let b := ops.extractLsb' 64 64
    let c := ops.extractLsb' 128 64
    let len := (ops.extractLsb' 128 32).toNat
    let ends (i : Instr) (st : Nat) : Prop := ∃ s', exec i s = .next s' ∧
      (⟨.deck (deckOf tile), s.now tile, false, ⟨tile, 0, 0⟩, { n := k, m := st }, .copyCompletion⟩ ∈ s'.agenda) ∧
      (∀ t j, (s'.core t j).lm = (s.core t j).lm) ∧ s'.host = s.host ∧ s'.hostFog = s.hostFog
    let mine (x : Word) (n : Nat) : Prop := isGlobal x = false ∧ isTileMap x = true ∧ amFormOk x = true ∧ amTile x = tile ∧
      amKind x = 0 ∧ amOff x + n ≤ 0x4_0000 ∧ s.lmBad tile (amCore x) (amOff x) n = false
    let nowhere (x : Word) : Prop := isGlobal x = false ∧ isTileMap x = false
    -- a window of kind 0 or 10 in another tile that its launch does not export, or in no tile of the partition that runs one
    let closed (x : Word) (n kind : Nat) : Prop := isTileMap x = true ∧ amFormOk x = true ∧ amTile x ≠ tile ∧ amKind x = kind ∧
      amOff x + n ≤ 0x4_0000 ∧ (part.hasTile (amTile x) = false ∨ (s.tile (amTile x)).launch = none ∨
        (s.launch (amTile x)).exports kind = false)
    let opened (x : Word) (n : Nat) : Prop := isTileMap x = true ∧ amFormOk x = true ∧ amTile x ≠ tile ∧ amKind x = 0 ∧
      amOff x + n ≤ 0x4_0000 ∧ part.hasTile (amTile x) = true ∧ (s.tile (amTile x)).launch.isSome = true ∧
      (s.launch (amTile x)).exports 0 = true
    ((s.tile tile).copy.chans.getD k {}).run = some { q := q } →
    (nowhere a → ends (.copyRed h ops) 0x02 ∧ ends (.copyPull h ops) 0x02 ∧ ends (.copyMcast h ops) 0x02 ∧
      ends (.copyEv h ops) 0x02 ∧ ends (.copyHatom h ops) 0x02 ∧ ends (.copyWb h ops) 0x02 ∧ ends (.copyInv h ops) 0x02 ∧
      (h.flags.getLsbD 0 = false → ends (.copyAff h ops) 0x02)) ∧
    (h.flags.toNat % 4 = 0 →
      (closed a len 0 → ends (.copyAff h ops) 0x03) ∧ (mine a len → closed b len 0 → ends (.copyAff h ops) 0x03) ∧
      (mine a len → mine b len → len = 0 → ends (.copyAff h ops) 0x11) ∧
      (mine a len → mine b len → len ≠ 0 → ops.extractLsb' 160 32 ≠ 0 → ends (.copyAff h ops) 0x02) ∧
      (isGlobal a = false → isTileMap a = true → amFormOk a = true → amTile a = tile → amKind a = 7 → amOff a + len ≤ 0x4_0000 →
        a.toNat % 16 ≠ 0 ∨ len % 16 ≠ 0 → ends (.copyAff h ops) 0x04)) ∧
    (h.flags.getLsbD 0 = true → (a.toNat % 64 ≠ 0 → ends (.copyAff h ops) 0x06) ∧
      ∀ bits, a.toNat % 64 = 0 → s.readShape tile a = (s, .ok bits) → (Shape.ofBits bits).ok = false → ends (.copyAff h ops) 0x05) ∧
    (let n := (ops.extractLsb' 160 32).toNat
      let sz := if h.flags.toNat % 4 = 3 then 8 else 4
      mine a (if n = 0 ∨ 2 ^ 20 < n then sz else n * sz) →
      (a.toNat % sz ≠ 0 → ends (.copyRed h ops) 0x04) ∧
      (a.toNat % sz = 0 → mine b (16 + 16 * (len + if n = 0 ∨ 2 ^ 20 < n then 1 else n)) →
        (b.toNat % 16 ≠ 0 → ends (.copyRed h ops) 0x04) ∧
        (b.toNat % 16 = 0 → n = 0 ∨ 2 ^ 20 < n → ends (.copyRed h ops) 0x11) ∧
        (b.toNat % 16 = 0 → n = 1 →
          let e := (BitVec.ofNat 16 ((s.core tile (amCore b)).lm.readNat (amOff b) 2)).toInt
          255 < e ∨ e < -256 → ends (.copyRed h ops) 0x08))) ∧
    (let n := if len = 0 ∨ 0x100_0000 < len then 1 else len;
      mine a n →
      (isTileMap b = false ∨ amTile b = tile → ends (.copyPull h ops) 0x02) ∧ (closed b n 0 → ends (.copyPull h ops) 0x03) ∧
      (opened b n →
        (len = 0 ∨ 0x100_0000 < len → ends (.copyPull h ops) 0x11) ∧
        (0 < len → len ≤ 0x100_0000 → (s.tile tile).copy.cellBusy k (ops.extractLsb' 160 8).toNat = true →
          ends (.copyPull h ops) 0x0E) ∧
        (0 < len → len ≤ 0x100_0000 → (s.tile tile).copy.cellBusy k (ops.extractLsb' 160 8).toNat = false →
          8 < (ops.extractLsb' 168 8).toNat → ends (.copyPull h ops) 0x11))) ∧
    (let n := (ops.extractLsb' 72 8).toNat
      let members := s.groupBits l.part l.ctx (ops.extractLsb' 64 8).toNat
      mine a (64 * min n 4) →
      (a.toNat % 64 ≠ 0 → ends (.copyMcast h ops) 0x04) ∧
      (a.toNat % 64 = 0 → members = 0 → ends (.copyMcast h ops) 0x10) ∧
      (a.toNat % 64 = 0 → members ≠ 0 → n = 0 ∨ 4 < n → ends (.copyMcast h ops) 0x11) ∧
      (a.toNat % 64 = 0 → members ≠ 0 → 0 < n → n ≤ 4 → (ops.extractLsb' 80 48).toNat % 64 ≠ 0 → ends (.copyMcast h ops) 0x04)) ∧
    (let n := (ops.extractLsb' 128 16).toNat;
      mine a (8 * min n 4096) →
      (a.toNat % 8 ≠ 0 → ends (.copyEv h ops) 0x04) ∧
      (a.toNat % 8 = 0 → isTileMap b = false ∨ amOff b ≠ 0 → ends (.copyEv h ops) 0x02) ∧
      (a.toNat % 8 = 0 → amOff b = 0 → closed b 1 10 → ends (.copyEv h ops) 0x03) ∧
      (a.toNat % 8 = 0 → isGlobal b = false → isTileMap b = true → amFormOk b = true → amTile b = tile → amKind b = 10 → amOff b = 0 →
        n = 0 ∨ 4096 < n → ends (.copyEv h ops) 0x11)) ∧
    ((match (s.tile tile).copy.bar with
        | none => ops.extractLsb' 0 32 ≠ (s.tile tile).copy.bepoch + 1
        | some x => ops.extractLsb' 0 32 ≠ x.epoch) → ends (.copyBar h ops) 0x0F) ∧
    (ops.extractLsb' 32 160 ≠ 0 → ends (.copyProbe h ops) 0x02) ∧
    (let n := if h.flags.getLsbD 2 then 8 else 4;
      isGlobal a = true →
      (a.toNat % n ≠ 0 → ends (.copyHatom h ops) 0x04) ∧
      (∀ pa, a.toNat % n = 0 → s.translate tile a true true = (s, .ok pa) → ends (.copyHatom h ops) 0x02) ∧
      (∀ pa, a.toNat % n = 0 → s.translate tile a true true = (s, .host pa) → mine b 16 → (b.toNat % 8 ≠ 0 → ends (.copyHatom h ops) 0x04) ∧
        (b.toNat % 8 = 0 → mine c 8 → c.toNat % 8 = 0 → h.flags.getLsbD 3 = true ∨ h.flags.toNat % 4 = 3 →
          ends (.copyHatom h ops) 0x0A))) ∧
    (isGlobal a = true → b = 0 → len = 0 → ends (.copyWb h ops) 0x11 ∧ ends (.copyInv h ops) 0x11)

/-- R226, R227, R229 to R240: the matrix commands at the head of their core's queue, where a service of the engine has come to. swap
exchanges the planes and completes; zero clears its rows, up to 32 in a service, and the flags of whole quads, or its quads, up to 8,
and their flags; acc adds a row to a row, a quad to a quad with saturation; scale multiplies a row by a power of two that the command
or a byte of local memory gives; each leaves the other rows alone and completes after its last service's eight cycles; run admits a
row that is written 40 cycles later, into rows or quads; ldw fills the plane that is not active, a row per cycle after its dispatch,
and the load is done a cycle after its last row; st stores elements as the format says, a row of f32 elements at its place; run, ldw
and st name a side by a record or without one. A command whose operand a check refuses ends with the status of the check and changes
no accumulator and no local memory: PROT, ALIGN, BADSHAPE, BADREC, SCALE, BADREGION, BADLEN. Where it shows a choice of the
model, not a rule: log 9, log 10, log 45, log 48, log 99, log 104. -/
def Obligations.MatrixCommands : Prop :=
  ∀ (s : State) (flags : BitVec 16) (ops : BitVec 192) (q : QCmd) (rest : List QCmd),
    let tile := s.cur.tile
    let c := s.cur.core
    let mx (s : State) : Matrix := (s.tile tile).mx
    let queue (s : State) : List QCmd := (s.core tile c).mxq
    let a := ops.extractLsb' 0 64
    let n := (ops.extractLsb' 160 16).toNat
    let hi := (ops.extractLsb' 152 8).toNat
    let lo := (ops.extractLsb' 144 8).toNat
    let ex := (ops.extractLsb' 128 16).toInt
    let stride := (ops.extractLsb' 96 32).toNat
    let ts := flags.getLsbD 0
    let wm := flags.getLsbD 1
    let size := if wm then 64 else 256
    -- the rows or quads that earlier services have done
    let k := (mx s).done[c]
    let row (s : State) (r j : Nat) : Nat := (mx s).acc.readNat (128 * r + 4 * j) 4
    let quad (s : State) (r j : Nat) : Int := (BitVec.ofNat 128 ((mx s).acc.readNat (512 * r + 16 * j) 16)).toInt
    let qflags (s : State) (r : Nat) : Byte := (mx s).acc.readByte (0x8000 + r)
    let mxflags (s : State) : BitVec 5 := (s.core tile c).mxflags
    let all (f : Nat → BitVec 5) : BitVec 5 := ((List.range 32).map f).foldl (fun x y => x ||| y) 0
    let mine (n : Nat) : Prop := isGlobal a = false ∧ isTileMap a = true ∧ amFormOk a = true ∧ amTile a = tile ∧
      amKind a = 0 ∧ amOff a + n ≤ 0x4_0000 ∧ s.lmBad tile (amCore a) (amOff a) n = false
    let ends (s1 s' : State) (after st : Nat) : Prop := queue s' = rest ∧
      (⟨.deck (deckOf tile), s1.now tile + after, false, ⟨tile, c, q.thr⟩, { n := q.id, m := st }, .matrixJobCompletion⟩ ∈ s'.agenda)
    let refused (i : Instr) (st : Nat) : Prop := ∃ s', exec i s = .next s' ∧ ends s s' 0 st ∧ (mx s').acc = (mx s).acc ∧
      ∀ t j, (s'.core t j).lm = (s.core t j).lm
    queue s = q :: rest → (mx s).acc.wf = true → (∀ r ∈ (mx s).rows, r.core = c → r.job ≠ q.id) →
    (flags = 0 → ops = 0 → ∃ s', exec (.mxSwap flags ops) s = .next s' ∧ (mx s').active = !(mx s).active ∧ ends s s' 0 0 ∧
      (mx s').acc = (mx s).acc) ∧
    (flags ≠ 0 ∨ ops ≠ 0 → refused (.mxSwap flags ops) 0x02) ∧
    (ops.extractLsb' 0 152 = 0 → ops.extractLsb' 176 16 = 0 → k < n → hi + n ≤ size →
      let last := min n (k + if wm then 8 else 32)
      ∃ s', exec (.mxZero flags ops) s = .next s' ∧ (mx s').busy = s.now tile + 8 ∧
        (last = n → ends s s' 8 0) ∧ (last < n → queue s' = queue s ∧ (mx s').done[c] = last) ∧
        (wm = false → (∀ r < 256, ∀ j < 32, row s' r j = if hi + k ≤ r ∧ r < hi + last then 0 else row s r j) ∧
          ∀ r < 64, qflags s' r = if hi ≤ 4 * r ∧ hi + k ≤ 4 * r + 3 ∧ 4 * r + 3 < hi + last then 0 else qflags s r) ∧
        (wm = true → (∀ r < 64, ∀ j < 32, quad s' r j = if hi + k ≤ r ∧ r < hi + last then 0 else quad s r j) ∧
          ∀ r < 64, qflags s' r = if hi + k ≤ r ∧ r < hi + last then 0 else qflags s r)) ∧
    ((ops.extractLsb' 0 152 ≠ 0 → refused (.mxZero flags ops) 0x02) ∧
      (ops.extractLsb' 0 152 = 0 → n = 0 ∨ size < hi + n → refused (.mxZero flags ops) 0x11) ∧
      (ops.extractLsb' 0 152 = 0 → 0 < n → hi + n ≤ size → ops.extractLsb' 176 16 ≠ 0 → refused (.mxZero flags ops) 0x02)) ∧
    (ops.extractLsb' 0 144 = 0 → ops.extractLsb' 176 16 = 0 → n = k + 1 → hi + n ≤ size → lo + n ≤ size →
      let sum (j : Nat) : Nat × BitVec 5 := fadd .rne (row s (lo + k) j) (row s (hi + k) j)
      let sum4 (j : Nat) : Int := quad s (lo + k) j + quad s (hi + k) j
      ∃ s', exec (.mxAcc flags ops) s = .next s' ∧ ends s s' 8 0 ∧
        (wm = false → (∀ r < 256, ∀ j < 32, row s' r j = if r = lo + k then (sum j).1 % 2 ^ 32 else row s r j) ∧
          (∀ r < 64, qflags s' r = qflags s r) ∧ mxflags s' = mxflags s ||| all fun j => (sum j).2) ∧
        (wm = true → (∀ r < 64, ∀ j < 32, quad s' r j =
            if r = lo + k then max (-(2 ^ 127)) (min (2 ^ 127 - 1) (sum4 j)) else quad s r j) ∧
          (∀ r < 64, qflags s' r = if r = lo + k then qflags s r ||| qflags s (hi + k) |||
            (if ∃ j < 32, sum4 j < -(2 ^ 127) ∨ 2 ^ 127 ≤ sum4 j then 1 else 0) else qflags s r) ∧ mxflags s' = mxflags s)) ∧
    ((ops.extractLsb' 0 144 ≠ 0 → refused (.mxAcc flags ops) 0x02) ∧
      (ops.extractLsb' 0 144 = 0 → n = 0 ∨ size < hi + n ∨ size < lo + n → refused (.mxAcc flags ops) 0x11) ∧
      (ops.extractLsb' 0 144 = 0 → 0 < n → hi + n ≤ size → lo + n ≤ size → ops.extractLsb' 176 16 ≠ 0 →
        refused (.mxAcc flags ops) 0x02)) ∧
    (ops.extractLsb' 64 64 = 0 → lo = 0 → ops.extractLsb' 176 16 = 0 → n = k + 1 → hi + n ≤ 256 → (ts = true → mine n) →
      let e := if ts then (BitVec.ofNat 8 ((s.core tile (amCore a)).lm.readNat (amOff a + k) 1)).toInt else ex
      let prod (j : Nat) : Nat × BitVec 5 := scaleF32 (row s (hi + k) j) e
      ∃ s', exec (.mxScale flags ops) s = .next s' ∧ ends s s' 8 0 ∧
        (∀ r < 256, ∀ j < 32, row s' r j = if r = hi + k then (prod j).1 % 2 ^ 32 else row s r j) ∧
        mxflags s' = mxflags s ||| all fun j => (prod j).2) ∧
    ((ts = true → isGlobal a = true ∨ isTileMap a = false ∨ amTile a ≠ tile → refused (.mxScale flags ops) 0x02) ∧
      (ts = false → ops.extractLsb' 64 64 ≠ 0 ∨ lo ≠ 0 → refused (.mxScale flags ops) 0x02) ∧
      (ts = false → ops.extractLsb' 64 64 = 0 → lo = 0 → n = 0 ∨ 256 < hi + n → refused (.mxScale flags ops) 0x11)) ∧
    (∀ (s1 s2 s3 : State) (x : MxSide) (tabs : KMap (BitVec 19) × KMap (BitVec 19)) (xs : List (BitVec 19)) (f : BitVec 5),
      ops.extractLsb' 64 32 = 0 → ops.extractLsb' 176 16 = 0 → (ts = true → n = 0) →
      (if wm then -256 ≤ ex ∧ ex ≤ 255 else ex = 0) → s.mxSide tile c a ts lo stride = (s1, .ok x) → x.ext0 ≤ 32 →
      fetchFmt x.fmt = true → (ts = false → fieldFmtOk lo = true) → oddStride ts x.fmt stride = false →
      s1.mxTabs tile c = (s2, tabs) → (if ts then x.ext1 else n) = (mx s2).done[c] + 1 → hi + (mx s2).done[c] + 1 ≤ size →
      s2.mxRow tile x tabs (mx s2).done[c] = (s3, .ok (some (xs, f))) → queue s3 = queue s →
      ∃ s' r, exec (.mxRun flags ops) s = .next s' ∧ (mx s').rows = (mx s3).rows ++ [r] ∧ r.due = s3.now tile + 40 ∧ r.core = c ∧
        r.job = q.id ∧ r.dst = hi + (mx s2).done[c] ∧ r.wm = wm ∧ (wm = true → r.ex = ex) ∧ r.a = xs ∧
        r.plane = (mx s3).active ∧ queue s' = rest ∧ mxflags s' = mxflags s3 ||| f) ∧
    (∀ (s1 s2 s3 : State) (x : MxSide) (tabs : KMap (BitVec 19) × KMap (BitVec 19)),
      let fmt := (ops.extractLsb' 96 8).toNat
      let x' : MxSide := if ts then x else { x with ext1 := 32 }
      ops.extractLsb' 64 32 = 0 → ops.extractLsb' 104 24 = 0 → ops.extractLsb' 160 32 = 0 →
      s.mxSide tile c a ts fmt (ops.extractLsb' 128 32).toNat = (s1, .ok x) → (ts = false → fieldFmtOk fmt = true) →
      fetchFmt x.fmt = true → (ts = true → x.ext0 ≤ 32 ∧ x.ext1 ≤ 32) → oddStride ts x.fmt (ops.extractLsb' 128 32).toNat = false →
      s1.mxTabs tile c = (s2, tabs) → (mx s2).load = none →
      let sh := !(mx s2).active
      let started : State := (s2.modMx tile fun m =>
        if sh then { m with t4p1 := nibbleFmt x.fmt } else { m with t4p0 := nibbleFmt x.fmt }).modMx tile fun m =>
          { m with load := some ⟨c, q.id, sh⟩ }
      let plane (s : State) : KMap (BitVec 19) := if sh then (mx s).plane1 else (mx s).plane0
      (∀ kEnd, started.ldwRows tile c x' tabs sh (mx s2).done[c] 33 = (s3, kEnd, .ok ()) →
        ∃ s', exec (.mxLdw flags ops) s = .next s' ∧ queue s' = (queue s3).drop 1 ∧ (mx s').load = (mx s3).load ∧
          plane s' = plane s3 ∧
          (⟨.deck (deckOf tile), s3.now tile + (kEnd - (mx s2).done[c] + 1), false, ⟨tile, c, q.thr⟩, { n := q.id },
            .weightLoadDone⟩ ∈ s'.agenda)) ∧
      ∀ (xs : List (BitVec 19)) (f : BitVec 5), (mx s2).done[c] = 31 → (plane started).Rising →
        (if 31 < x'.ext1 then started.mxRow tile x' tabs 31 = (s3, .ok (some (xs, f))) else
          s3 = started ∧ xs = List.replicate 32 0) → plane s3 = plane started → queue s3 = queue s → xs.length = 32 →
        ∃ s', exec (.mxLdw flags ops) s = .next s' ∧ queue s' = rest ∧
          (∀ i j, j < 32 → (plane s').getD (32 * i + j) 0 = if i = 31 then xs.getD j 0 else (plane s3).getD (32 * i + j) 0) ∧
          (⟨.deck (deckOf tile), s3.now tile + 2, false, ⟨tile, c, q.thr⟩, { n := q.id }, .weightLoadDone⟩ ∈ s'.agenda)) ∧
    (∀ (s1 s2 : State) (x : MxSide), ops.extractLsb' 64 32 = 0 → ops.extractLsb' 176 16 = 0 → (ts = true → n = 0) →
      (if wm then -256 ≤ ex ∧ ex ≤ 255 else ex = 0) → s.mxSide tile c a ts lo stride = (s1, .ok x) → storeFmt x.fmt wm = true →
      (ts = false → fieldFmtOk lo = true) → oddStride ts x.fmt stride = false →
      (if ts then x.ext1 else n) = (mx s1).done[c] + 1 → hi + (mx s1).done[c] + 1 ≤ size →
      s1.stOne tile c x wm (RM.ofBits (flags.extractLsb' 2 2)) ex hi (mx s1).done[c] = (s2, .ok ()) →
      ∃ s', exec (.mxSt flags ops) s = .next s' ∧ (∀ t j, (s'.core t j).lm = (s2.core t j).lm) ∧ (mx s').acc = (mx s2).acc ∧
        mxflags s' = mxflags s2 ∧ queue s' = (queue s2).drop 1) ∧
    (s.Inv → ts = false → wm = false → ex = 0 → lo = 7 → ops.extractLsb' 64 32 = 0 → ops.extractLsb' 176 16 = 0 → n = 1 → k = 0 →
      mine 128 → a.toNat % 4 = 0 →
      (∀ w ∈ wordsOf (amOff a) 128, ∀ y, amOff a ≤ y → y < amOff a + 128 → ¬(s.core tile (amCore a)).wokenByte (s.launch tile) w y) →
      let out (j : Nat) : Nat × BitVec 5 := convF f32F (RM.ofBits (flags.extractLsb' 2 2)) (unpackF f32F (row s hi j))
      ∃ s', exec (.mxSt flags ops) s = .next s' ∧ ends s s' 8 0 ∧ (mx s').acc = (mx s).acc ∧
        (∀ j < 32, (s'.core tile (amCore a)).lm.readNat (amOff a + 4 * j) 4 = (out j).1 % 2 ^ 32) ∧
        mxflags s' = mxflags s ||| all fun j => (out j).2) ∧
    (let field := (ops.extractLsb' 96 8).toNat
      let every (st : Nat) : Prop := refused (.mxLdw flags ops) st ∧ refused (.mxRun flags ops) st ∧ refused (.mxSt flags ops) st
      let own : Prop := isGlobal a = false ∧ isTileMap a = true ∧ amFormOk a = true ∧ amTile a = tile
      (ts = true → a.toNat % 64 ≠ 0 → every 0x06) ∧
      (ts = true → a.toNat % 64 = 0 → isGlobal a = false → isTileMap a = false ∨ amTile a ≠ tile ∨ (amKind a ≠ 0 ∧ amKind a ≠ 14) →
        every 0x02) ∧
      (∀ bits, ts = true → a.toNat % 64 = 0 → own → amKind a = 0 → amOff a + 64 ≤ 0x4_0000 → (mx s).recs[c] = some bits →
        let x := Shape.ofBits bits
        x.ok = false ∨ x.ext[2] ≠ 1 ∨ x.ext[3] ≠ 1 → every 0x05) ∧
      (ts = false → isTileMap a = true → amTile a ≠ tile → every 0x02) ∧
      (ts = false → isTileMap a = false ∨ (own ∧ (amKind a = 0 ∨ 4 < amKind a)) →
        (field = 0 → refused (.mxLdw flags ops) 0x05) ∧
        (lo = 0 → refused (.mxRun flags ops) 0x05 ∧ refused (.mxSt flags ops) 0x05)) ∧
      (ts = false → own → 1 ≤ amKind a → amKind a ≤ 4 → amOff a % 4 ≠ 0 → (field = 0 → refused (.mxLdw flags ops) 0x04) ∧
        (lo = 0 → refused (.mxRun flags ops) 0x04 ∧ refused (.mxSt flags ops) 0x04)) ∧
      (ts = false → own → amKind a ≠ 0 → amKind a ≠ 14 → (field ≠ 0 → refused (.mxLdw flags ops) 0x02) ∧
        (lo ≠ 0 → refused (.mxRun flags ops) 0x02 ∧ refused (.mxSt flags ops) 0x02)) ∧
      (ts = false → own → amKind a = 0 → amOff a ≤ 0x4_0000 → a.toNat % 2 ≠ 0 →
        (field = 3 ∨ field = 4 ∨ field = 7 → refused (.mxLdw flags ops) 0x04) ∧
        (lo = 3 ∨ lo = 4 ∨ lo = 7 → refused (.mxRun flags ops) 0x04 ∧ refused (.mxSt flags ops) 0x04))) ∧
    (∀ x : MxSide,
      let exOk : Prop := if wm then -256 ≤ ex ∧ ex ≤ 255 else ex = 0
      let m := if ts then x.ext1 else n
      let odd := oddStride ts x.fmt stride
      -- what run and st check once their side is known: `fit` of a record, `known` of a format field
      let checks (i : Instr) (fit known : Prop) : Prop :=
        ((ts = true ∧ ¬fit) → refused i 0x05) ∧ ((ts = true → fit) →
          (ops.extractLsb' 64 32 ≠ 0 → refused i 0x02) ∧ (ops.extractLsb' 64 32 = 0 →
            (odd = true → refused i 0x05) ∧ (odd = false →
              (¬exOk → refused i (if wm then 0x08 else 0x02)) ∧ (exOk →
                (ts = false ∧ ¬known → refused i 0x05) ∧ ((ts = false → known) →
                  (ts = true → n ≠ 0 → refused i 0x02) ∧ ((ts = true → n = 0) →
                    ((ts = false ∧ m = 0) ∨ size < hi + m → refused i 0x11) ∧
                    ((ts = false → 0 < m) → hi + m ≤ size → ops.extractLsb' 176 16 ≠ 0 → refused i 0x02)))))))
      s.mxSide tile c a ts lo stride = (s, .ok x) →
      checks (.mxRun flags ops) (x.ext0 ≤ 32 ∧ fetchFmt x.fmt = true) (fieldFmtOk lo = true ∧ fetchFmt x.fmt = true) ∧
      checks (.mxSt flags ops) (storeFmt x.fmt wm = true) (fieldFmtOk lo = true ∧ storeFmt x.fmt wm = true) ∧
      -- a scale outside its range in the first row of a service
      ∀ (s2 s3 : State) (tabs : KMap (BitVec 19) × KMap (BitVec 19)), ops.extractLsb' 64 32 = 0 → odd = false → exOk → x.ext0 ≤ 32 →
        fetchFmt x.fmt = true → (ts = false → fieldFmtOk lo = true) → (ts = true → n = 0) → ops.extractLsb' 176 16 = 0 →
        k < m → hi + m ≤ size → s.mxTabs tile c = (s2, tabs) → s2.mxRow tile x tabs k = (s3, .ok none) →
        queue s3 = queue s → (mx s3).rows = (mx s).rows →
        ∃ s', exec (.mxRun flags ops) s = .next s' ∧ ends s3 s' 0 0x07 ∧ (mx s').acc = (mx s3).acc ∧ (mx s').rows = (mx s).rows) ∧
    ∀ x : MxSide,
      let fmt := (ops.extractLsb' 96 8).toNat
      let odd := oddStride ts x.fmt (ops.extractLsb' 128 32).toNat
      let fit : Prop := fetchFmt x.fmt = true ∧ (ts = true → x.ext0 ≤ 32 ∧ x.ext1 ≤ 32) ∧ (ts = false → fieldFmtOk fmt = true)
      s.mxSide tile c a ts fmt (ops.extractLsb' 128 32).toNat = (s, .ok x) →
      (¬fit → ts = true ∨ ops.extractLsb' 64 32 = 0 → refused (.mxLdw flags ops) 0x05) ∧
      (fit → ops.extractLsb' 64 32 ≠ 0 ∨ ops.extractLsb' 104 24 ≠ 0 → refused (.mxLdw flags ops) 0x02) ∧
      (fit → ops.extractLsb' 64 32 = 0 → ops.extractLsb' 104 24 = 0 → (odd = true → refused (.mxLdw flags ops) 0x05) ∧
        (odd = false → ops.extractLsb' 160 32 ≠ 0 → refused (.mxLdw flags ops) 0x02))

/-- R243 to R255: the event commands at the head of the queue. cfg sets its bank's fields and, if asked, its states; inj queues its
events in delivery order, or counts a drop in a full queue; horizon declares its sources; run samples its sources' time cells once,
takes what they reply, sets its bound by the horizon, delivers the events below it, moves T to it with the sweep of a multiple of
16,384 that it passes, and then waits for its remote events; a delivery leaks, counts down the refractory ticks, adds the weight or
forces, compares with the threshold, fires and fans out; read writes the states, from where a fault has stopped it, and clears the
sticky bits if asked. Each but run then completes OK. A command whose operand a check refuses ends with the status of the check and
changes nothing: PROT, ALIGN, BADLEN, BADCFG, BADSRC. Where it shows a choice of the model, not a rule: log 9, log 45, log 49. -/
def Obligations.EventCommands : Prop :=
  ∀ (s : State) (flags : BitVec 16) (ops : BitVec 192) (q : QCmd) (rest : List QCmd),
    let tile := s.cur.tile
    let ev (s : State) : EvEngine := (s.tile tile).ev
    let copy (s : State) : CopyUnit := (s.tile tile).copy
    let f (o n : Nat) : Nat := (ops.extractLsb' o n).toNat
    let ends (s' : State) (st : Nat) : Prop :=
      (⟨.deck (deckOf tile), s.now tile, false, ⟨tile, q.core, q.thr⟩, { n := q.id, m := st }, .eventJobCompletion⟩ ∈ s'.agenda)
    let refused (i : Instr) (st : Nat) : Prop := ∃ s', exec i s = .next s' ∧ ends s' st ∧ s'.tiles = s.tiles
    let mine (x : Word) (n : Nat) : Prop := isGlobal x = false ∧ isTileMap x = true ∧ amFormOk x = true ∧ amTile x = tile ∧
      amKind x = 0 ∧ amOff x + n ≤ 0x4_0000 ∧ s.lmBad tile (amCore x) (amOff x) n = false ∧
      (s.core tile (amCore x)).lm.wf = true
    let foreign (x : Word) : Prop := isGlobal x = false ∧ (isTileMap x = false ∨ amTile x ≠ tile)
    let rd (s : State) (x : Word) (n : Nat) : Nat := (s.core tile (amCore x)).lm.readNat (amOff x) n
    let neuron (s : State) (b n : Nat) : Word := (ev s).neurons.getD (8192 * b + n) 0
    let leaks (k n : Nat) (v : Int) : Int := Nat.repeat (fun v : Int => if k = 0 then v else v - v / 2 ^ k) n v
    let lim := flags.getLsbD 0
    (ev s).cmds = q :: rest → (ev s).neurons.Rising →
    (let cfg := Instr.evCfg flags ops
      let low : Prop := f 2 30 = 0 ∧ f 33 7 = 0
      let fine : Prop := low ∧ f 40 5 ≤ 16 ∧ f 45 3 = 0 ∧ f 53 3 = 0 ∧ 0 < (ops.extractLsb' 64 32).toInt ∧ f 96 16 = 0
      (fine → f 128 32 < 2 ^ 21 → f 128 32 % 4 = 0 → f 160 32 < 2 ^ 21 → f 160 32 % 8 = 0 →
        ∃ s', exec cfg s = .next s' ∧ ends s' 0 ∧ (ev s').queue = (ev s).queue ∧
          (∀ b < 4, ∀ n < 8192, neuron s' b n =
            if flags.getLsbD 0 = true ∧ b = f 0 2 then BitVec.ofNat 64 ((ev s).t % 2 ^ 16 * 2 ^ 32) else neuron s b n) ∧
          ∀ j : Fin 4, (ev s').banks[j] = if j.val = f 0 2 then
            { fbase := ops.extractLsb' 160 32, wbase := ops.extractLsb' 128 32, wcount := f 112 16, theta := ops.extractLsb' 64 32,
              refr := ops.extractLsb' 56 8, k := f 48 5, wshift := f 40 5, reset := ops.getLsbD 32 } else (ev s).banks[j]) ∧
      (¬low → refused cfg 0x02) ∧ (low → 16 < f 40 5 → refused cfg 0x12) ∧
      (low → f 40 5 ≤ 16 → f 45 3 ≠ 0 ∨ f 53 3 ≠ 0 → refused cfg 0x02) ∧
      (low → f 40 5 ≤ 16 → f 45 3 = 0 → f 53 3 = 0 → (ops.extractLsb' 64 32).toInt ≤ 0 → refused cfg 0x12) ∧
      (low → f 40 5 ≤ 16 → f 45 3 = 0 → f 53 3 = 0 → 0 < (ops.extractLsb' 64 32).toInt → f 96 16 ≠ 0 → refused cfg 0x02) ∧
      (fine → (2 ^ 21 ≤ f 128 32 → refused cfg 0x02) ∧ (f 128 32 < 2 ^ 21 →
        (f 128 32 % 4 ≠ 0 → refused cfg 0x04) ∧ (f 128 32 % 4 = 0 → (2 ^ 21 ≤ f 160 32 → refused cfg 0x02) ∧
          (f 160 32 < 2 ^ 21 → f 160 32 % 8 ≠ 0 → refused cfg 0x04))))) ∧
    (let inj := Instr.evInj flags ops
      let a := ops.extractLsb' 0 64
      let n := f 128 16
      (f 64 64 = 0 → n = 1 → f 144 48 = 0 → mine a 8 → a.toNat % 8 = 0 →
        let e : EvEnt := ⟨BitVec.ofNat 64 (rd s a 8), tile, ((ev s).seq + 1).toNat⟩
        ((ev s).queue.length < 4096 → ∃ s' before after, exec inj s = .next s' ∧ ends s' 0 ∧ (ev s').seq = (ev s).seq + 1 ∧
          (ev s).queue = before ++ after ∧ (ev s').queue = before ++ e :: after ∧ (∀ x ∈ before, e.before x = false) ∧
          ∀ x ∈ after.head?, e.before x = true) ∧
        (4096 ≤ (ev s).queue.length → ∃ s', exec inj s = .next s' ∧ ends s' 0 ∧ (ev s').seq = (ev s).seq + 1 ∧
          (ev s').queue = (ev s).queue ∧ (ev s').ldrop = (ev s).ldrop + 1 ∧
          ∀ d, (ev s).decl = some d → ∃ p, (copy s').posts = (copy s).posts ++ [p] ∧ p.cell = d.lossbase + d.srcs.length ∧
            p.value = BitVec.ofNat 256 (((ev s).drops.getD 65536 0 + 1) % 2 ^ 64 + tile % 2 ^ 16 * 2 ^ 64))) ∧
      (isGlobal a = true ∨ foreign a → refused inj 0x02) ∧
      (mine a (8 * min n 4096) → (a.toNat % 8 ≠ 0 → refused inj 0x04) ∧ (a.toNat % 8 = 0 →
        (f 64 64 ≠ 0 → refused inj 0x02) ∧ (f 64 64 = 0 → (n = 0 ∨ 4096 < n → refused inj 0x11) ∧
          (0 < n → n ≤ 4096 → f 144 48 ≠ 0 → refused inj 0x02))))) ∧
    (let hor := Instr.evHorizon flags ops
      let n := f 96 5
      let list := ops.extractLsb' 128 64
      let fine : Prop := f 0 96 = 0 ∧ n ≤ 16 ∧ f 101 3 = 0 ∧ f 104 8 ≠ 0 ∧ f 112 8 = 0 ∧ f 120 8 + n ≤ 255
      let x := rd s list 4
      let inside := (s.part (s.launch tile).part).hasTile (x % 2 ^ 16)
      (fine → n = 1 → mine list 4 → list.toNat % 4 = 0 →
        (inside = true → ∃ s', exec hor s = .next s' ∧ ends s' 0 ∧
          (ev s').decl = some { srcs := [(x % 2 ^ 16, x / 2 ^ 16 % 2 ^ 8)], lossbase := f 120 8, dmin := f 104 8 }) ∧
        (inside = false → refused hor 0x13)) ∧
      (f 0 96 ≠ 0 → refused hor 0x02) ∧ (f 0 96 = 0 → (16 < n → refused hor 0x12) ∧ (n ≤ 16 →
        (f 101 3 ≠ 0 → refused hor 0x02) ∧ (f 101 3 = 0 → (f 104 8 = 0 → refused hor 0x12) ∧ (f 104 8 ≠ 0 →
          (f 112 8 ≠ 0 → refused hor 0x02) ∧ (f 112 8 = 0 → 255 < f 120 8 + n → refused hor 0x12))))) ∧
      (fine → (isGlobal list = true ∨ foreign list → refused hor 0x02) ∧
        (mine list (4 * n) → list.toNat % 4 ≠ 0 → refused hor 0x04))) ∧
    (let run := Instr.evRun flags ops
      let later (s' : State) : Prop := ⟨.deck (deckOf tile), s.now tile + 1, false, s.cur, {}, run⟩ ∈ s'.agenda
      let top := (ev s).queue.getLast?.map fun x => (x.word.extractLsb' 40 24).toNat
      ((ev s).run = none → f 24 168 ≠ 0 → refused run 0x02) ∧
      ((ev s).run = none → f 24 168 = 0 → (ev s).decl = none → ∃ s', exec run s = .next s' ∧
        (ev s').run = some (.sampling [] top) ∧ (ev s').queue = (ev s).queue) ∧
      -- a time cell of the own tile is read 4 cycles later, one of another tile by a request
      (∀ d, (ev s).run = none → f 24 168 = 0 → (ev s).decl = some d → ∃ s', exec run s = .next s' ∧
        (ev s').run = some (.sampling (List.range d.srcs.length) top) ∧ (ev s').queue = (ev s).queue ∧ (ev s').tau = (ev s).tau ∧
        ∀ ix x, d.srcs[ix]? = some x → ∃ ref, (copy s').samples.get? ref = some (.source ix (s.now tile)) ∧
          (x.1 = tile → (⟨.deck (deckOf tile), s.now tile + 4, true, ⟨tile, 0, 0⟩,
            { n := x.2, m := tile, w := BitVec.ofNat 64 ref, ok := true }, .sampleRequest⟩ ∈ s'.agenda)) ∧
          (x.1 ≠ tile → (∃ g ∈ (copy s').inj, g.flit.dst = x.1 ∧ g.flit.ref = ref ∧ g.flit.msg = .sampleReq x.2 true) ∧
            (⟨.deck (deckOf tile), s.now tile + 4096, true, ⟨tile, 0, 0⟩, { n := ref, m := s.now tile }, .timeCellSampleTimeout⟩ ∈
              s'.agenda))) ∧
      (∀ ix at_ left top d x, (copy s).samples.get? s.arg.n = some (.source ix at_) → (ev s).run = some (.sampling left top) →
        (ev s).decl = some d → ix ∈ left → d.srcs[ix]? = some x → ∃ s', exec .sampleReply s = .next s' ∧
          (ev s').run = some (.sampling (left.filter (· != ix)) top) ∧
          ∀ y, (ev s').tau.getD y 0 = if y = x.1 ∧ s.arg.ok = true then max (s.arg.d.extractLsb' 0 24).toNat ((ev s).tau.getD y 0)
            else (ev s).tau.getD y 0) ∧
      (∀ top, (ev s).run = some (.sampling [] top) → (ev s).decl = none → ∃ s', exec run s = .next s' ∧ later s' ∧
        (ev s').run = some (.running (if lim then f 0 24 else match top with | some x => x + 1 | none => (ev s).t))) ∧
      (∀ top d h, (ev s).run = some (.sampling [] top) → (ev s).decl = some d →
        (∀ x ∈ d.srcs, h ≤ (ev s).tau.getD x.1 0 + d.dmin) → (∃ x ∈ d.srcs, h = (ev s).tau.getD x.1 0 + d.dmin) →
        ∃ s', exec run s = .next s' ∧ later s' ∧ (ev s').h = some h ∧
          (ev s').run = some (.running (if lim then min h (f 0 24) else h))) ∧
      ∀ bound, (ev s).run = some (.running bound) → (ev s).pendingFan = [] → (s.tile tile).frozen = false →
        (((ev s).queue = [] → ∃ s', exec run s = .next s' ∧ (ev s').run = some .draining ∧
            (ev s').t = max (ev s).t (min (max (ev s).t bound) (2 ^ 24 - 1))) ∧
        -- T passes one multiple M of 16,384
        (let m := 16384 * ((ev s).t / 16384 + 1);
          (ev s).queue = [] → m ≤ bound → bound < m + 16384 → bound < 2 ^ 24 → ∃ s', exec run s = .next s' ∧ (ev s').t = bound ∧
          ∀ b : Fin 4, ∀ n < 8192, let x := Neuron.ofWord (neuron s b n)
            neuron s' b n = (if x.settled = false ∧ 1023 ≤ (m % 2 ^ 16 + 2 ^ 16 - x.last) % 2 ^ 16 then
              { x with v := leaks ((ev s).banks[b]).k 1023 x.v, ref := 0, settled := true } else x).word) ∧
        -- the delivery of one event e, with no multiple of 16,384 passed
        ∀ (e : EvEnt) (es : List EvEnt), (ev s).queue = e :: es → (e.word.extractLsb' 40 24).toNat < bound →
          (∀ x ∈ es.head?, bound ≤ (x.word.extractLsb' 40 24).toNat) → (ev s).t ≤ bound → (ev s).t / 16384 = bound / 16384 →
          bound < 2 ^ 24 →
          let ts := (e.word.extractLsb' 40 24).toNat
          let t := max ts (ev s).t
          let bi : Fin 4 := (e.word.extractLsb' 38 2).toFin
          let ni := (e.word.extractLsb' 25 13).toNat
          let kind := (e.word.extractLsb' 16 9).toNat
          let payload := (e.word.extractLsb' 0 16).toNat
          let b := (ev s).banks[bi]
          let x := Neuron.ofWord (neuron s bi ni)
          let past := if x.settled then 0 else (t % 2 ^ 16 + 2 ^ 16 - x.last) % 2 ^ 16
          let base : Neuron := { x with v := leaks b.k (min past 1023) x.v, ref := x.ref - past, last := t % 2 ^ 16, settled := false }
          let others (s' : State) : Prop := ∀ b' : Fin 4, ∀ n' < 8192, (b' ≠ bi ∨ n' ≠ ni) → neuron s' b' n' = neuron s b' n'
          let done (s' : State) : Prop := exec run s = .next s' ∧ (ev s').run = some .draining ∧ (ev s').t = bound ∧
            (ev s').late = (ev s).late + (if ts < (ev s).t then 1 else 0) ∧ others s'
          let wCore := ctrCore b.wbase.toNat
          let wOff := ctrOff b.wbase.toNat + 4 * payload
          let table : Prop := b.wbase ≠ 0 ∧ payload < b.wcount ∧ wOff + 4 ≤ 0x4_0000
          (kind = 0 ∨ 3 < kind → ∃ s', done s' ∧ (ev s').queue = es ∧ (ev s').neurons = (ev s).neurons ∧
            (ev s').badkind = (ev s).badkind + 1) ∧
          (kind = 2 → ¬table → ∃ s', done s' ∧ (ev s').queue = es ∧ (ev s').neurons = (ev s).neurons ∧
            (ev s').badidx = (ev s).badidx + 1) ∧
          (kind = 2 → table → s.lmBad tile wCore wOff 4 = true → ∃ s', exec run s = .next s' ∧ ends s' 0x09) ∧
          ∀ weight : Int, (kind = 1 ∧ weight = (BitVec.ofNat 16 payload).toInt * 2 ^ b.wshift) ∨
              (kind = 2 ∧ table ∧ s.lmBad tile wCore wOff 4 = false ∧
                weight = (BitVec.ofNat 32 ((s.core tile wCore).lm.readNat wOff 4)).toInt) ∨ (kind = 3 ∧ weight = 0) →
            let v := max (-(2 ^ 31)) (min (2 ^ 31 - 1) (base.v + weight))
            let y : Neuron := if kind = 3 then base else { base with v := v, sat := x.sat || v != base.v + weight }
            let fires : Prop := kind = 3 ∨ b.theta.toInt ≤ v
            let z : Neuron := { y with v := if b.reset then y.v - b.theta.toInt else 0, ref := b.refr.toNat, spk := true }
            (0 < base.ref → ∃ s', done s' ∧ (ev s').queue = es ∧ neuron s' bi ni = base.word) ∧
            (base.ref = 0 → ¬fires → ∃ s', done s' ∧ (ev s').queue = es ∧ neuron s' bi ni = y.word) ∧
            (base.ref = 0 → fires →
              let fCore := ctrCore b.fbase.toNat
              let fOff := ctrOff b.fbase.toNat
              let lm := (s.core tile fCore).lm
              (b.fbase = 0 → ∃ s', done s' ∧ (ev s').queue = es ∧ neuron s' bi ni = z.word ∧ (copy s').inj = (copy s).inj) ∧
              (b.fbase ≠ 0 → 0x4_0000 < fOff + 4 * ni + 4 → ∃ s', done s' ∧ (ev s').queue = es ∧ neuron s' bi ni = z.word ∧
                (ev s').badfan = (ev s).badfan + 1) ∧
              -- one fan-out entry
              ∀ ei : Nat, b.fbase ≠ 0 → fOff + 4 * ni + 4 ≤ 0x4_0000 → s.lmBad tile fCore (fOff + 4 * ni) 4 = false →
                lm.readNat (fOff + 4 * ni) 4 = 2 ^ 16 + ei → ei < 2 ^ 16 → fOff + 0x8000 + 8 * ei + 8 ≤ 0x4_0000 →
                s.lmBad tile fCore (fOff + 0x8000 + 8 * ei) 8 = false →
                let w := lm.readNat (fOff + 0x8000 + 8 * ei) 8
                let delay := w / 2 ^ 40 % 256
                let target := w / 2 ^ 48
                let sent : Word := BitVec.ofNat 64 (w % 2 ^ 40 + (t + delay) * 2 ^ 40)
                let member := (s.part (s.launch tile).part).hasTile target
                (delay = 0 → ∃ s', done s' ∧ (ev s').queue = es ∧ neuron s' bi ni = z.word ∧ (ev s').badfan = (ev s).badfan + 1) ∧
                (delay ≠ 0 → 2 ^ 24 ≤ t + delay → ∃ s', done s' ∧ (ev s').queue = es ∧ neuron s' bi ni = z.word ∧
                  (ev s').overflow = (ev s).overflow + 1) ∧
                (delay ≠ 0 → t + delay < 2 ^ 24 → target = tile → bound ≤ t + delay → es.length < 4096 → ∃ s', done s' ∧
                  neuron s' bi ni = z.word ∧ (ev s').seq = (ev s).seq + 1 ∧
                  (ev s').queue = insertEvent ⟨sent, tile, ((ev s).seq + 1).toNat⟩ es) ∧
                (delay ≠ 0 → t + delay < 2 ^ 24 → target ≠ tile → member = true → (copy s).fanRoom = true → ∃ s' g, done s' ∧
                  (ev s').queue = es ∧ neuron s' bi ni = z.word ∧ (ev s').remote = (ev s).remote + 1 ∧
                  (copy s').inj = (copy s).inj ++ [g] ∧ g.fan = true ∧ g.flit.dst = target ∧
                  g.flit.msg = .fanout sent ((copy s).sent.getD ((s.part (s.launch tile).part).posOf target) 0 + 1)) ∧
                (delay ≠ 0 → t + delay < 2 ^ 24 → target ≠ tile → member = false → (copy s).fanRoom = true → ∃ s', done s' ∧
                  (ev s').queue = es ∧ neuron s' bi ni = z.word ∧ (ev s').fanref = (ev s).fanref + 1 ∧
                  (copy s').inj = (copy s).inj)))) ∧
    (let read := Instr.evRead flags ops
      let b := f 64 2
      let first := f 96 13
      let count := f 112 16
      let base := ops.extractLsb' 128 64
      let i := (ev s).wrote
      let low : Prop := f 0 64 = 0 ∧ f 66 30 = 0 ∧ f 109 3 = 0
      let dest : Word := base + BitVec.ofNat 64 (8 * i)
      (low → count = i + 1 → first + count ≤ 8192 → mine base (8 * count) → base.toNat % 8 = 0 →
        (∀ w ∈ wordsOf (amOff dest) 8, ∀ y, amOff dest ≤ y → y < amOff dest + 8 →
          ¬(s.core tile (amCore dest)).wokenByte (s.launch tile) w y) →
        ∃ s', exec read s = .next s' ∧ ends s' 0 ∧ rd s' dest 8 = (neuron s b (first + i)).toNat ∧
          ∀ b' < 4, ∀ n < 8192, neuron s' b' n = if lim = true ∧ b' = b ∧ first ≤ n ∧ n < first + count then
            neuron s b' n &&& ~~~(0x0300_0000_0000_0000 : Word) else neuron s b' n) ∧
      (¬low → refused read 0x02) ∧ (low → (count = 0 ∨ 8192 < first + count → refused read 0x11) ∧
        (0 < count → first + count ≤ 8192 → (foreign base → refused read 0x02) ∧
          (mine base (8 * count) → base.toNat % 8 ≠ 0 → refused read 0x04))))

/-! ## Steps of threads and units (spec/01, spec/04, spec/16) -/

/-- R15, R119, R165, R169 to R173, R436: RESULT_ARRIVAL writes what the instruction asked for, takes its destinations out of
the pending set and lets a waiting form go on; WAIT_TIMEOUT sets the predicate of an open wait and nothing else; BANK_ECHO,
once the unit's accesses to the bank have performed, clears the bank's bit of k.tbm and takes the bank off what a fence of
the thread still waits for; until then the bank is asked again in the next cycle, and an echo that no fence of the thread awaits any more changes nothing. The
completion of sync.ro and sync.rec empties their cache (R174, R175). Where it shows a choice of the model, not
a rule: log 34. -/
def Obligations.ResultsArrive : Prop :=
  ∀ (s : State) (before after : List Outst) (o : Outst),
    let t := s.th
    t.outst = before ++ o :: after → (∀ x ∈ before ++ after, x.id ≠ o.id) →
    (∀ w : Writes, s.arg.n = o.id → o.cond = .ready w → (∀ y ∈ w.v, t.binds.get? y.1.toNat = none) → t.trap = none → t.susp = none →
      ∃ s', exec .resultArrival s = .next s' ∧ s'.cur = s.cur ∧ s'.th.outst = before ++ after ∧
        s'.th.fflags = t.fflags ||| w.flags ∧
        (∀ d x, w.s = [(d, x)] → d ≠ 0 → s'.th.getS d = x) ∧ (∀ d, (∀ y ∈ w.s, y.1 ≠ d) → s'.th.getS d = t.getS d) ∧
        (∀ d x, w.v = [(d, x)] → s'.th.getV d = x) ∧ (∀ d, (∀ y ∈ w.v, y.1 ≠ d) → s'.th.getV d = t.getV d) ∧
        (∀ d x, w.p = [(d, x)] → d ≠ 0 → s'.th.getP d = x) ∧ (∀ d, (∀ y ∈ w.p, y.1 ≠ d) → s'.th.getP d = t.getP d) ∧
        (o.hold = false → s'.th.pc = t.pc ∧ s'.th.st = t.st) ∧
        (o.hold = true → (t.loopLvl false).active = false → (t.loopLvl true).active = false → s'.th.pc = o.addr + 4 ∧
          (t.st = .waiting → s'.th.st = .running)) ∧
        (∀ tile k, (s'.core tile k).lm = (s.core tile k).lm) ∧ ∀ r, r ≠ s.cur → s'.thread r = s.thread r) ∧
    (∀ tp : PReg, s.arg.m ≠ 1 → ((s.tile s.cur.tile).frozen && t.resv.isNone) = false → s.arg.n = o.id → o.cond.timeoutPred = some tp → (∀ b bs w d p, o.cond ≠ .push (b :: bs) w d p) →
      ∃ s', exec .waitTimeout s = .next s' ∧ s'.cur = s.cur ∧
        s'.th.outst = before ++ { o with cond := .ready { p := [(tp, true)] } } :: after ∧
        (⟨.deck (deckOf s.cur.tile), s.now s.cur.tile + o.lag, false, s.cur, { n := o.id }, .resultArrival⟩ ∈ s'.agenda) ∧
        s'.th.s = t.s ∧ s'.th.v = t.v ∧ s'.th.p = t.p ∧ s'.th.pc = t.pc ∧ s'.th.st = t.st ∧
        ∀ tile k, (s'.core tile k).lm = (s.core tile k).lm) ∧
    (∀ recs : Bool, s.arg.n = o.id → o.cond = .clears recs → ∃ s', exec .resultArrival s = .next s' ∧
      (∀ x ∈ s'.th.outst, x.id ≠ o.id) ∧ (recs = true → (s'.copyUnit s.cur.tile).recs = []) ∧
      (recs = false → (s'.core s.cur.tile s.cur.core).rolines = [])) ∧
    ∀ (banks : List Nat) (acks : Bool) (tp : PReg) (n : Nat), t.outst = [o] → o.cond = .fence banks acks tp n →
      s.arg.n < 64 →
      (s.arg.m ≠ o.id ∨ s.arg.n ∉ banks → exec .bankEcho s = .next s) ∧
      (s.arg.m = o.id → s.arg.n ∈ banks → (s.tile s.cur.tile).unperformed t.owner s.arg.n = true →
        exec .bankEcho s = .next (s.atTile s.cur.tile 1 .bankEcho s.cur s.arg)) ∧
      (s.arg.m = o.id → s.arg.n ∈ banks → (s.tile s.cur.tile).unperformed t.owner s.arg.n = false → ∃ s', exec .bankEcho s = .next s' ∧ s'.cur = s.cur ∧
        s'.th.outst = [{ o with cond := .fence (banks.filter (· != s.arg.n)) acks tp n }] ∧
        (∀ j < 64, s'.th.tbm.getLsbD j = (t.tbm.getLsbD j && decide (j ≠ s.arg.n))) ∧ s'.th.s = t.s ∧ s'.th.pc = t.pc ∧
        s'.agenda = s.agenda)

/-- R18 to R20, R119, R183, R107, R76, R12: the steps that raise a trap. A deferred fault whose thread has nothing else open
enters the handler with the oldest fault's instruction, value and cause, def set and k.tpc at the next instruction; CANCEL
enters with the clean-up budget of 256, is held in a handler, and abandons a waiting form; the 65th instruction of a window
loses the reservation and raises RESV; a word that is no instruction raises ILLEGAL, the end of the code segment PROT; the
end of the clean-up budget begins the cancellation end; a restarted core empties its Stopped slots. Where it shows a choice
of the model, not a rule: log 12, log 40, log 41, log 87, log 91, log 96. -/
def Obligations.TrapSteps : Prop :=
  ∀ s : State,
    let t := s.th
    let tvec := (s.launch s.cur.tile).tvec &&& ~~~3
    let enters (s' : State) (c : Cause) (v first tpc : Word) : Prop := s'.cur = s.cur ∧ s'.th.ih = true ∧ s'.th.pc = tvec ∧
      s'.th.st = .running ∧ s'.th.outst = [] ∧ s'.th.resv = none ∧ s'.th.tval = v ∧ s'.th.tinst = first ∧ s'.th.tpc = tpc ∧
      s'.th.tcause.setWidth 8 = c.code ∧ s'.th.s = t.s ∧ s'.th.v = t.v ∧ s'.th.p = t.p ∧
      (∀ tile k, (s'.core tile k).lm = (s.core tile k).lm) ∧ ∀ r, r ≠ s.cur → s'.thread r = s.thread r
    (∀ o c v after, t.outst = o :: after → s.arg.n = o.id → o.cond = .faulted c v → c ≠ .cancel → c ≠ .brk → c ≠ .syscall →
      (∀ x ∈ after, x.isFault = true) → t.laidOff = [] → t.trap = none → t.susp = none → t.ih = false → tvec ≠ 0 →
      ∃ s', exec .resultArrival s = .next s' ∧ enters s' c v o.addr t.pc ∧ s'.th.tcause.getLsbD 8 = true ∧
        s'.th.tcause.getLsbD 16 = true) ∧
    (∀ p : PendTrap, t.trap = some p → t.outst = [] → t.laidOff = [] → t.ih = false → tvec ≠ 0 →
      ∃ s', exec .trapEntry s = .next s' ∧
        enters s' p.cause p.val p.first (if p.cause = .brk ∨ p.cause = .syscall then p.tpc else t.pc)) ∧
    (t.st ≠ .empty → t.st ≠ .stopped → t.susp = none →
      (t.ih = true → exec .cancel s = .next (s.modTh fun t => { t with hcx := true })) ∧
      (t.ih = false → t.resv = none → t.trap = none → t.laidOff = [] → tvec ≠ 0 →
        (t.outst = [] → ∃ s', exec .cancel s = .next s' ∧ enters s' .cancel 0 t.pc t.pc ∧ s'.th.cxh = true ∧
          s'.th.budget = 256) ∧
        ∀ o, t.st = .waiting → t.outst = [o] → o.hold = true → o.waits = true → (t.loopLvl false).active = false →
          (t.loopLvl true).active = false → ∃ s', exec .cancel s = .next s' ∧ enters s' .cancel 0 o.addr (o.addr + 4) ∧
            s'.th.cxh = true ∧ s'.th.budget = 256 ∧ s'.th.tcause.getLsbD 16 = true)) ∧
    (∀ v : Resv, t.resv = some v → t.outst = [] → t.laidOff = [] → t.ih = false → tvec ≠ 0 → ∃ s',
      exec .reservationWindowExceeded s = .next s' ∧ enters s' .resv v.va v.addr t.pc) ∧
    (∀ w : W32, s.codeWord s.cur.tile t.pc.toNat = some w →
      exec .notAnInstruction s = .next (s.trap .illegal (w.setWidth 64))) ∧
    exec .runPastCodeSegment s = .next (s.trap .prot t.pc) ∧
    (t.cxh = true → t.st = .running → exec .cancelBudgetEnd s = .next (s.beginSuspend s.cur .cancelEnd)) ∧
    (t.cxh = true → t.st = .running → t.outst = [] → t.w2 = 0 → t.w1.getLsbD 31 = false → ∃ s',
      exec .cancelBudgetEnd s = .next s' ∧ s'.th.st = .empty ∧
      (s'.tile s.cur.tile).rootsLeft = (s.tile s.cur.tile).rootsLeft - (if t.w1.getLsbD 8 then 1 else 0)) ∧
    ∃ s', exec .coreRestart s = .next s' ∧ s'.cur = s.cur ∧ ∀ r : ThreadRef,
      ((s.thread r).st = .stopped → r.tile = s.cur.tile → r.core = s.cur.core → (s'.thread r).st = .empty) ∧
      ((s.thread r).st ≠ .stopped ∨ r.tile ≠ s.cur.tile ∨ r.core ≠ s.cur.core → s'.thread r = s.thread r)

/-- R124, R338, R339, R273, R32: an Empty slot picks up the entry at the bottom of its core's highest level, with its
registers, predicates and state words, all else at its launch value, and may issue 16 cycles later, and a cancelled unit meets its
end instead; a steal request takes
the top of the highest level of the sibling asked, which arrives 12 cycles later at the bottom of the thief's; a message
crosses in its order; a migrating thread moves into an Empty slot of the home core; a displaced thread leaves its slot for a
frame, and the displacement lasts until the slot picks up. Where it shows a choice of the model, not a rule: log 36, log 38,
log 39, log 91. -/
def Obligations.UnitSteps : Prop :=
  ∀ s : State,
    let t := s.th
    let r := s.cur
    let core (s : State) : Core := s.core r.tile r.core
    let sx (w : W32) : Word := w.signExtend 64
    (∀ (e : Entry) (q : Fin 4) (rest : List Entry), t.st = .empty → t.notBefore ≤ s.now r.tile →
      (s.launch r.tile).det = false → (core s).deque[q] = e :: rest → (∀ j : Fin 4, q < j → (core s).deque[j] = []) →
      (∀ j : Fin 4, ∀ x ∈ ((core s).deque.set q rest)[j], x.stamp ≠ e.stamp) → e.frame = none → e.waitOut = none →
      let w := ((core s).entryNow e).w
      w[1].getLsbD 10 = false → w[2] = 0 → w[0].toNat % 4 = 0 → w[0].toNat < (s.launch r.tile).csize →
      ∃ s', exec .pickUp s = .next s' ∧ s'.cur = r ∧ (core s').deque = (core s).deque.set q rest ∧ s'.th.st = .running ∧
        s'.th.pc = w[0].setWidth 64 ∧ s'.th.notBefore = s.now r.tile + 16 ∧ s'.th.w1 = w[1] ∧ s'.th.w2 = w[2] ∧
        s'.th.w3 = w[3] ∧ (∀ i : Fin 12, s'.th.getS (BitVec.ofNat 5 (i.val + 1)) = sx w[4 + i.val]) ∧
        (∀ d : SReg, 12 < d.toNat → s'.th.getS d = 0) ∧ (∀ d : VReg, s'.th.getV d = 0) ∧
        (∀ j, 1 ≤ j → j < 8 → s'.th.getP (BitVec.ofNat 3 j) = w[3].getLsbD j) ∧ s'.th.tbm = 0 ∧ s'.th.fflags = 0 ∧
        s'.th.frm = 0 ∧ s'.th.ih = false ∧ s'.th.watch = none ∧ s'.th.outst = [] ∧ s'.th.owner = (s.tile r.tile).owners ∧
        (s'.tile r.tile).owners = (s.tile r.tile).owners + 1 ∧ s'.th.mseq = t.mseq ∧ s'.th.cseq = t.cseq ∧
        (∀ tile k, (s'.core tile k).lm = (s.core tile k).lm) ∧ ∀ x, x ≠ r → s'.thread x = s.thread x) ∧
    (∀ (e : Entry) (q : Fin 4) (rest : List Entry), t.st = .empty → t.notBefore ≤ s.now r.tile →
      (s.launch r.tile).det = false → (core s).deque[q] = e :: rest → (∀ j : Fin 4, q < j → (core s).deque[j] = []) →
      (∀ j : Fin 4, ∀ x ∈ ((core s).deque.set q rest)[j], x.stamp ≠ e.stamp) →
      let w := ((core s).entryNow e).w
      w[1].getLsbD 10 = true → w[1].getLsbD 31 = false → w[2] = 0 → ∃ s', exec .pickUp s = .next s' ∧
        (core s').deque = (core s).deque.set q rest ∧ (∀ x, s'.thread x = s.thread x) ∧
        (s'.tile r.tile).rootsLeft = (s.tile r.tile).rootsLeft - if w[1].getLsbD 8 then 1 else 0) ∧
    (∀ (e : Entry) (q : Fin 4) (before : List Entry),
      let me := (core s).stealNext
      let v : Fin 8 := ⟨(r.core.val + me) % 8, Nat.mod_lt _ (by decide)⟩
      let victim (s : State) : Core := s.core r.tile v
      1 ≤ me → me ≤ 7 → (victim s).deque[q] = before ++ [e] → (∀ j : Fin 4, q < j → (victim s).deque[j] = []) → e.frame = none →
      let e' := (victim s).entryNow e
      e'.w[1].getLsbD 11 = false → e'.w[1].getLsbD 9 = false →
      (∀ j : Fin 4, ∀ x ∈ ((victim s).deque.set q before)[j], x.stamp ≠ e.stamp) →
      ∃ s', exec .stealRequest s = .next s' ∧ (victim s').deque = (victim s).deque.set q before ∧ (core s').stealing = some e' ∧
        (core s').stealBusy = true ∧ (core s').stealNext = (if me = 7 then 1 else me + 1) ∧
        (⟨.deck (deckOf r.tile), s.now r.tile + 12, false, ⟨r.tile, r.core, 0⟩, {}, .stolenEntryArrival⟩ ∈ s'.agenda)) ∧
    (∀ e : Entry, (core s).stealing = some e → ∃ s' e', exec .stolenEntryArrival s = .next s' ∧
      (core s').deque = (core s).deque.set (prioOf e.w[1]) (e' :: (core s).deque[prioOf e.w[1]]) ∧ e'.w = e.w ∧
      e'.frame = e.frame ∧ e'.key = e.key ∧ (core s').stealing = none ∧ (core s').stealBusy = false) ∧
    (∀ (m : Msg) (rest : List Msg),
      let k : Fin 8 := ⟨s.arg.n % 8, Nat.mod_lt _ (by decide)⟩
      k ≠ r.core → (core s).sendq[k] = m :: rest → s.mayCross r.tile r.core k = true → ∃ s' m',
        exec .messageCrossing s = .next s' ∧ (core s').sendq[k] = rest ∧
        (s'.core r.tile k).recvq[r.core] = (s.core r.tile k).recvq[r.core] ++ [m'] ∧ m'.payload = m.payload ∧ m'.core = m.core ∧
        m'.thr = m.thr ∧ m'.seq = m.seq ∧ m'.ret = m.ret ∧ m'.at_ = s.now r.tile + 2) ∧
    (∀ (src dst : ThreadRef), src.tile = r.tile → dst.tile = r.tile → src.core.val = s.arg.n → src.thr = r.thr →
      dst.core = r.core → src.core ≠ r.core → (s.thread src).st = .waiting → (s.thread src).outst = [] →
      (s.thread src).picked = s.arg.m → (∀ a ∈ (s.tile r.tile).accs, a.owner ≠ (s.thread src).owner ∨ a.banks = []) → (s.thread dst).st = .empty → (s.thread dst).notBefore ≤ s.now r.tile →
      (∀ h : Fin 16, h < dst.thr → (s.thread ⟨r.tile, r.core, h⟩).st ≠ .empty) →
      ∃ s', exec .migration s = .next s' ∧ (s'.thread src).st = .empty ∧ (s'.thread dst).st = .running ∧
        (s'.thread dst).pc = (s.thread src).pc ∧ (s'.thread dst).s = (s.thread src).s ∧ (s'.thread dst).v = (s.thread src).v ∧
        (s'.thread dst).p = (s.thread src).p ∧ (s'.thread dst).w1 = (s.thread src).w1 ∧ (s'.thread dst).w2 = (s.thread src).w2 ∧
        (s'.thread dst).w3 = (s.thread src).w3 ∧ (s'.thread dst).tbm = 0 ∧ (s'.thread dst).fflags = (s.thread src).fflags ∧
        ∀ x, x ≠ src → x ≠ dst → s'.thread x = s.thread x) ∧
    (∀ f : Nat, (core s).displacing = some r.thr → t.st = .running → t.outst = [] → t.cxh = false → t.hcx = false →
      t.mayDisplace (s.launch r.tile).det = true → (core s).freeFrame = some f → ∃ s' e, exec .displacement s = .next s' ∧ s'.cur = r ∧ s'.th.st = .empty ∧
        s'.th.notBefore = s.now r.tile + 32 ∧ (core s').displacing = some r.thr ∧ (core s').frames.has f = true ∧
        (core s').deque[prioOf t.w1].head? = some e ∧ e.frame = some f ∧ e.w[1] = t.w1 ∧ e.w[2] = t.w2 ∧
        ∀ x, x ≠ r → s'.thread x = s.thread x)

/-! ## Cells, the fabric and transfers (spec/06, spec/17) -/

/-- R188, R190 to R192, R221, R263: a post that performs replaces its cell's value, adds 1 to its count modulo 2^32 and
names its writer and activation; the cell array answers a sample request with a snapshot, or refuses one that the launch
does not export to; a reply gives the sampling thread its snapshot or a timeout; a barrier's token ends its round, the last
one the barrier, with the epoch given to its threads and copy.bar commands, which a timeout takes out; the probe's token
takes the tile's work bit along and ends the probe of its initiator. -/
def Obligations.CellSteps : Prop :=
  ∀ s : State,
    let tile := s.cur.tile
    let l := s.launch tile
    let cu (s : State) : CopyUnit := (s.tile tile).copy
    let ends (s' : State) (k st : Nat) : Prop :=
      (⟨.deck (deckOf tile), s.now tile, false, ⟨tile, 0, 0⟩, { n := k, m := st }, .copyCompletion⟩ ∈ s'.agenda)
    (∀ p : IntakePost, (s.tile tile).nextPost s.arg.n = some p → ∃ s', exec .postPerform s = .next s' ∧
      (s'.tile tile).cell s.arg.n = ⟨p.value, ((s.tile tile).cell s.arg.n).count + 1, p.writer, p.act⟩ ∧
      (∀ j, j ≠ s.arg.n → (s'.tile tile).cell j = (s.tile tile).cell j) ∧ p ∈ (s.tile tile).intake ∧
      (s'.tile tile).intake = (s.tile tile).intake.erase p) ∧
    (s.arg.m = tile → ∃ s', exec .sampleRequest s = .next s' ∧ (cu s').inj = (cu s).inj ∧
      ((s.arg.ok || l.expo.getLsbD 9) = true →
        let c := (s.tile tile).cell s.arg.n
        let x : BitVec 512 := (0 : BitVec 192) ++ c.act ++ c.writer ++ c.count ++ c.value
        (⟨.deck (deckOf tile), s.now tile + 4, false, ⟨tile, 0, 0⟩, { n := s.arg.w.toNat, d := x, ok := true }, .sampleReply⟩ ∈ s'.agenda))) ∧
    (s.arg.m ≠ tile → ∃ s' f, exec .sampleRequest s = .next s' ∧ (cu s').inj = (cu s).inj ++ [f] ∧ f.flit.dst = s.arg.m ∧ f.flit.cls = 0 ∧
      f.flit.ref = s.arg.w.toNat ∧ ((s.arg.ok || l.expo.getLsbD 9) = false → f.flit.msg = .sampleRep none) ∧
      ((s.arg.ok || l.expo.getLsbD 9) = true → ∃ x, f.flit.msg = .sampleRep (some x) ∧
        let c := (s.tile tile).cell s.arg.n
        x.extractLsb' 0 256 = c.value ∧ x.extractLsb' 256 32 = c.count ∧ x.extractLsb' 288 16 = c.writer ∧
          x.extractLsb' 304 16 = c.act ∧ x.extractLsb' 320 192 = 0)) ∧
    (∀ (r : ThreadRef) (o : Outst) (dst cell : Nat) (d : VReg) (tp : PReg), r.tile = tile →
      (cu s).samples.get? s.arg.n = some (.thread r.core r.thr o.id) → (s.thread r).outst = [o] → o.cond = .sample s.arg.n dst cell d tp →
      ∃ s', exec .sampleReply s = .next s' ∧
        (cu s').rsmp = (if s.arg.ok then (cu s).rsmp else (cu s).rsmp + 1) ∧
        (s'.thread r).outst = [{ o with cond := .ready (if s.arg.ok then
          { v := [(d, s.arg.d.extractLsb' 0 256), (d + 1, s.arg.d.extractLsb' 256 256)], p := [(tp, false)] }
          else { p := [(tp, true)] }) }] ∧
        (⟨.deck (deckOf tile), s.now tile + o.lag, false, r, { n := o.id }, .resultArrival⟩ ∈ s'.agenda)) ∧
    (∀ b : Barrier, (cu s).bar = some b → b.round < l.rounds →
      let epoch (k : Nat) : W32 := ((s.tile tile).cell (254 - k)).value.setWidth 32
      let reached (k : Nat) : Prop := (epoch k - b.epoch).toNat < 2 ^ 31
      (¬reached b.round → exec .barrierToken s = .next s) ∧
      (reached b.round → b.round + 1 < l.rounds → ¬reached (b.round + 1) → ∃ s', exec .barrierToken s = .next s' ∧
        (cu s').bar = some { b with round := b.round + 1 } ∧ (cu s').bepoch = (cu s).bepoch) ∧
      (reached b.round → b.round + 1 = l.rounds → ∃ s', exec .barrierToken s = .next s' ∧ (cu s').bar = none ∧
        (∀ k ∈ b.chans, ends s' k 0) ∧
        ∀ (r : ThreadRef) (o : Outst) (d : SReg) (tp : PReg), r.tile = tile → (s.thread r).outst = [o] → o.cond = .bar d tp →
          (s'.thread r).outst = [{ o with cond := .ready { s := [(d, b.epoch.setWidth 64)], p := [(tp, false)] } }])) ∧
    (∀ (b : Barrier) (x : ChanRun), (cu s).bar = some b → ((cu s).chans.getD s.arg.n {}).run = some x → s.arg.n ∈ b.chans →
      x.q.id = s.arg.m → ∃ s', exec .copyBarTimeout s = .next s' ∧ ends s' s.arg.n 0x0C ∧
        (cu s').bar = some { b with chans := b.chans.filter (· != s.arg.n) }) ∧
    let v := ((s.tile tile).cell 255).value
    let round : W32 := v.setWidth 32
    let mark : Bool := v.getLsbD 32 || (cu s).work
    let init := v.extractLsb' 48 16
    (∀ k, init.toNat = tile % 0x2000 → (cu s).probes = [(k, round)] → ∃ s', exec .probeToken s = .next s' ∧ (cu s').probes = [] ∧
      (cu s').work = false ∧ ends s' k (if mark then 0x0D else 0)) ∧
    (∀ dst, dst = l.tileAt ((l.order tile + 1) % l.size) →
      init.toNat ≠ tile % 0x2000 → dst ≠ tile → (s.part l.part).hasTile dst = true → ∃ s' f v' a, exec .probeToken s = .next s' ∧
        (cu s').work = false ∧ (cu s').inj = (cu s).inj ++ [f] ∧ f.flit.dst = dst ∧ f.flit.msg = .post 255 v' a true ∧
        v'.setWidth 32 = round ∧ v'.getLsbD 32 = mark ∧ v'.extractLsb' 48 16 = init)

/-- R347, R350 to R352, R357, R358, R367, R418: a router ejects a flit that is for its tile, sends one for the gateway port
of its own tile to the cache plane, any other on by a productive port, where it arrives 1 fabric cycle later, 6 across a
deck edge, and drops one that cannot be corrected; the copy unit injects a flit the same way, one that asks for an answer under a
reference of 9 bits that stands for nothing outstanding, or not while none is free; a flit that enters a tile is
counted and dropped when its kind is reserved, its age saturated or its ctag another's, else taken; a line of a multicast is written
at its exported, unrevoked window and answered (R371 to R373, R416); every 64 ticks the ages rise and saturate. Where it shows a
choice of the model, not a rule: log 8, log 21, log 22, log 27, log 68, log 69, log 103. -/
def Obligations.FabricSteps : Prop :=
  ∀ (s : State) (f : Flit),
    let tile := s.cur.tile
    let cache := decide (s.arg.n = 1)
    let p := s.part f.part
    let cu (s : State) : CopyUnit := (s.tile tile).copy
    let onward (g : Flit) (h : Hop) : Prop := ∃ q t, p.productive tile f.dst q = true ∧ p.neighbour tile q = some t ∧
      h = ⟨t, cache, (q + 2) % 4, s.clock + (if deckOf tile = deckOf t then 1 else 6), g⟩
    let open_ : Prop := ∃ q ∈ [0, 1, 2, 3], p.productive tile f.dst q = true ∧ (p.neighbour tile q).isSome
    let post : Bool := match f.msg with
      | .post _ _ _ _ => true
      | _ => false
    (∀ h : Hop, s.hops = [h] → h.tile = tile → h.cache = cache → h.at_ ≤ s.clock → h.flit = f → s.routers = [] →
      (s.arg.ok = true → f.dst = tile → post = false → f.toGate = false → ∃ s', exec .flitRoute s = .next s' ∧ s'.hops = [] ∧
        (cu s').ingress = (cu s).ingress ++ [f]) ∧
      (s.arg.ok = true → f.dst = tile → f.toGate = true → cache = false → ∃ s', exec .flitRoute s = .next s' ∧
        s'.hops = [⟨tile, true, 4, s.clock + 1, f⟩] ∧ s'.tiles = s.tiles) ∧
      (s.arg.ok = true → f.dst ≠ tile → open_ → ∃ s' h', exec .flitRoute s = .next s' ∧ s'.hops = [h'] ∧ onward f h' ∧
        s'.tiles = s.tiles) ∧
      (s.arg.ok = false → s.arg.m = 0 → ∃ s', exec .flitRoute s = .next s' ∧ s'.hops = [] ∧ s'.tiles = s.tiles ∧
        (s'.part f.part).fabue = p.fabue + 1)) ∧
    -- a flit that asks for an answer takes a reference of 9 bits that stands for nothing outstanding
    (∀ x : Inject, (cu s).inj = [x] → x.flit = f → s.routers = [] → (f.msg.asks = true → ∃ n < 512, (cu s).refs.has n = false) →
      let sent (s' : State) (g : Flit) : Prop := exec .flitInject s = .next s' ∧ (cu s').inj = [] ∧
        (f.msg.asks = false → g = f ∧ (cu s').refs = (cu s).refs) ∧
        (f.msg.asks = true → ∃ n < 512, (cu s).refs.has n = false ∧ g = { f with ref := n } ∧ (cu s').refs = (cu s).refs.set n f.ref)
      (f.dst = tile → f.toGate = false → ∃ s' g, sent s' g ∧ s'.hops = s.hops ∧ (cu s').ingress = (cu s).ingress ++ [g]) ∧
      (f.dst ≠ tile → open_ → ∃ s' g h', sent s' g ∧ s'.hops = s.hops ++ [h'] ∧ onward g h')) ∧
    (∀ x : Inject, (cu s).inj = [x] → x.flit = f → f.msg.asks = true → (∀ n < 512, (cu s).refs.has n = true) →
      exec .flitInject s = .next s) ∧
    (∀ (rest : List Flit) (l : Launch), (cu s).ingress = f :: rest → (s.tile tile).launch = some l →
      let tagged : Bool := decide (l.part = f.part) && decide (l.ctx % 16 = f.slot) &&
        decide ((s.ctx f.part f.slot).epoch.toNat % 16 = f.epoch)
      let counts (g : Part → Nat) : Prop := ∃ s', exec .flitIngress s = .next s' ∧ (cu s').ingress = rest ∧
        g (s'.part f.part) = g p + 1 ∧ (s'.tile tile).intake = (s.tile tile).intake ∧ s'.agenda = s.agenda
      (f.msg = .reserved → counts Part.badkind) ∧ (f.msg ≠ .reserved → 0xFFFF ≤ f.age → counts Part.stale) ∧
      (post = true → f.age < 0xFFFF → tagged = false → counts Part.ctagdrop) ∧
      (∀ c v a own, f.msg = .post c v a own → f.age < 0xFFFF → tagged = true →
        ((own || l.expo.getLsbD 9) = true → ∃ s', exec .flitIngress s = .next s' ∧ (cu s').ingress = rest ∧
          (s'.tile tile).intake = (s.tile tile).intake ++ [{ at_ := s.now tile, cell := c, value := v, writer := BitVec.ofNat 16 f.src, act := a, ref := f.ref }]) ∧
        ((own || l.expo.getLsbD 9) = false → ∃ s' x, exec .flitIngress s = .next s' ∧ (cu s').ingress = rest ∧
          (s'.tile tile).intake = (s.tile tile).intake ∧ (cu s').inj = (cu s).inj ++ [x] ∧ x.flit.dst = f.src ∧
          x.flit.ref = f.ref ∧ x.flit.msg = .ack 1)) ∧
      (∀ k v, f.msg = .chanReg k v → f.age < 0xFFFF → tagged = true → ∃ s', exec .flitIngress s = .next s' ∧
        ((cu s').chans.getD k {}).reg = v ∧ ((cu s').chans.getD k {}).regCount = ((cu s).chans.getD k {}).regCount + 1) ∧
      -- a line of a multicast: it waits for its head, or is written at its window and answered
      (∀ n i d, f.msg = .mcastData n i d → f.age < 0xFFFF → tagged = true → n < 32 →
        ((cu s).mcin = [] → ∃ s' m, exec .flitIngress s = .next s' ∧ (cu s').mcin = [m] ∧ m.port = f.src ∧ m.num = n ∧
          m.head = none ∧ m.early = [(i, d)] ∧ (cu s').inj = (cu s).inj) ∧
        ∀ (m : McIn) (k win : Nat) (place : Word) (by_ : StoreSrc) (e : BitVec 128), (cu s).mcin = [m] → m.port = f.src → m.num = n →
          m.part = f.part → m.slot = f.slot → m.epoch = f.epoch → m.head = some (k, win, place, by_) → m.early = [] →
          p.windows.get? win = some e → isGlobal place = false → isTileMap place = true → amFormOk place = true → amTile place = tile →
          amKind place = 0 → amOff place + 64 * i + 64 ≤ 0x4_0000 → amOff place % 4 = 0 → (s.core tile (amCore place)).lm.wf = true →
          let o := amOff place + 64 * i
          let why := if e.getLsbD 97 then 1 else if l.expo.getLsbD 0 then 0 else 2
          ∃ s' g, exec .flitIngress s = .next s' ∧ (cu s').inj = (cu s).inj ++ [g] ∧ g.flit.dst = f.src ∧
            g.flit.msg = .gateAck n why ∧ ∀ t j y, ¬(t = tile ∧ j = amCore place ∧
              ∃ w ∈ wordsOf o 64, (s.core tile (amCore place)).wokenByte l w y) → (s'.core t j).lm.readByte y =
            if why = 0 ∧ t = tile ∧ j = amCore place ∧ o ≤ y ∧ y < o + 64 then BitVec.ofNat 8 (d.toNat / 2 ^ (8 * (y - o)))
            else (s.core t j).lm.readByte y)) ∧
    ∃ s', exec .flitAgeTick s = .next s' ∧ s'.tiles = s.tiles ∧
      (s'.hops = s.hops.map fun h => { h with flit := { h.flit with age := min 0xFFFF (h.flit.age + 1) } }) ∧
      (s'.gw.arrived = s.gw.arrived.map fun x => { x with
        age := min 0xFFFF (x.age + 1), lines := x.lines.map fun l => (l.1, l.2.1, min 0xFFFF (l.2.2 + 1)) }) ∧
      s'.gw.out = s.gw.out.map fun f => { f with age := min 0xFFFF (f.age + 1) }

/-- R165, R190, R200, R208, R213, R270, R274, R349: a copy unit answers a read of its own tile's exported memory with its
bytes, another with its refusal; a line that has come back is in the line cache with its permissions, a remote source goes
on with its command; an acknowledgement counts down what its unit waits for, and counts a refusal. Where it shows a choice
of the model, not a rule: log 17, log 43. -/
def Obligations.ReplySteps : Prop :=
  ∀ s : State,
    let tile := s.cur.tile
    let l := s.launch tile
    let cu (s : State) : CopyUnit := (s.tile tile).copy
    (∀ (f : Flit) (rest : List Flit) (a : Word) (n : Nat), (cu s).accepted = f :: rest → f.msg = .readReq a n → isGlobal a = false →
      isTileMap a = true → amFormOk a = true → amTile a = tile → amKind a = 0 → amOff a + n ≤ 0x4_0000 →
      s.lmBad tile (amCore a) (amOff a) n = false →
      ∃ s' x, exec .remoteReadRequest s = .next s' ∧ (cu s').accepted = rest ∧ (cu s').inj = (cu s).inj ++ [x] ∧
        x.flit.dst = f.src ∧ x.flit.ref = f.ref ∧ x.flit.cls = 1 ∧ x.flit.msg =
          if l.expo.getLsbD 0 then .rdata 0 (BitVec.ofNat 512 ((s.core tile (amCore a)).lm.readNat (amOff a) n))
          else .rdata 0x03 0) ∧
    (∀ (m : Miss) (ix : Nat) (core : Fin 8), (s.tile tile).misses = [m] → m.tag = s.arg.n →
      m.what = .line ix core false → m.own = false → (s.core tile core).lineGet? ix = none →
      ((s.core tile core).lines.getD (ix / 8 % 64) []).length < 8 → ∃ s', exec .readReply s = .next s' ∧
        (s'.tile tile).misses = [] ∧
        (s'.core tile core).lineGet? ix = some { tag := ix, data := s.arg.d, rd := m.rd, wr := m.wr, pl := m.pl }) ∧
    (∀ (m : Miss) (k n : Nat) (x : ChanRun), (s.tile tile).misses = [m] → m.tag = s.arg.n → m.what = .chan k n →
      ((cu s).chans.getD k {}).run = some x →
      (s.arg.m = 0 → ∃ s', exec .readReply s = .next s' ∧ (s'.tile tile).misses = [] ∧
        ((cu s').chans.getD k {}).run = some { x with got := (lineBytes s.arg.d).take n, wait := false }) ∧
      (s.arg.m ≠ 0 → s.arg.m < 256 → ∃ s', exec .readReply s = .next s' ∧ (s'.tile tile).misses = [] ∧
        (⟨.deck (deckOf tile), s.now tile, false, ⟨tile, 0, 0⟩, { n := k, m := s.arg.m }, .copyCompletion⟩ ∈ s'.agenda))) ∧
    (∀ owner : Nat, (cu s).acks.get? s.arg.n = some (.post owner) →
      let open_ (s : State) : Nat := ((cu s).acks.filter fun a => a.2 == .post owner).length
      ∃ s', exec .ackReceived s = .next s' ∧ open_ s' + 1 = open_ s ∧
        (cu s').acks = (cu s).acks.erase s.arg.n ∧ (cu s').rpost = (if s.arg.m = 1 then (cu s).rpost + 1 else (cu s).rpost)) ∧
    ((cu s).acks.get? s.arg.n = none → exec .ackReceived s = .next s)

/-- R360 to R364, R437: the receiver. A request makes an entry of the request table, meets its own, is answered RETRY when
the table is full, or DONE with its refusal; the grant scheduler posts a TOKEN of at most 8 flits within the 16 outstanding;
a data flit of the live token is written at its place, its words each at its own port and some perhaps in a later cycle, bytes that
waking a unit on a written word writes excepted; a data flit of no entry, of an entry without a live token, of another grant number or
of an index at or above the token's length is discarded; the last one posts DONE once all is written, and its acknowledgement frees
the entry; a prefix flit is taken while token 0 lives, waits in the pool of 64, is discarded when its request was refused or token 0
has closed, or is dropped and counted; a token that expires gives back what it left, the third unused one in turn frees the entry,
and token 0's closing counts as none. Where it shows a choice of the model, not a rule: log 3, log 89. -/
def Obligations.PullReceives : Prop :=
  ∀ s : State,
    let tile := s.cur.tile
    let l := s.launch tile
    let cu (s : State) : CopyUnit := (s.tile tile).copy
    let token (s s' : State) (r : Req) (v : V256) : Prop := ∃ f a, (cu s').inj = (cu s).inj ++ [f] ∧ f.flit.dst = r.src ∧
      f.flit.cls = 0 ∧ f.flit.msg = .post r.gcell v a true ∧ v.extractLsb' 16 6 = BitVec.ofNat 6 r.chan ∧ v.extractLsb' 32 32 = r.xid
    let remote (r : Req) : Prop := r.kind = .pull ∧ r.src ≠ tile ∧ (s.part l.part).hasTile r.src = true ∧ r.cls < 4
    (∀ (f : Flit) (rest : List Flit) (r : Req), (cu s).accepted = f :: rest → f.msg = .req r → remote r →
      let ok : Prop := (s.tile tile).launch.isSome ∧ isTileMap r.dest = true ∧ amFormOk r.dest = true ∧ amKind r.dest = 0 ∧
        amOff r.dest + r.len ≤ 0x4_0000 ∧ amTile r.dest = tile
      let new : Prop := ∀ e ∈ (cu s).reqs, ¬(e.2.req.src = r.src ∧ e.2.req.chan = r.chan ∧ e.2.req.xid = r.xid)
      (ok → l.expo.getLsbD 0 = true → (cu s).reqs = [] → (cu s).pool = [] → r.pfx = 0 → ∃ s', exec .pullReq s = .next s' ∧
        (cu s').accepted = rest ∧ (cu s').arrived = (cu s).arrived + 1 ∧
        (cu s').reqs = [(0, { req := r, stamp := (cu s).arrived, exp := s.now tile + 2048, came := s.clock })]) ∧
      (∀ e x, (cu s).reqs = [(e, x)] → x.req = r → ∃ s', exec .pullReq s = .next s' ∧ (cu s').accepted = rest ∧
        (cu s').reqs = [(e, { x with miss := 0 })] ∧ (cu s').inj = (cu s).inj) ∧
      (ok → l.expo.getLsbD 0 = false → new → ∃ s' v, exec .pullReq s = .next s' ∧ (cu s').accepted = rest ∧
        (cu s').reqs = (cu s).reqs ∧ token s s' r v ∧ v.extractLsb' 24 8 = 3 ∧ v.extractLsb' 224 8 = 0x03) ∧
      (ok → l.expo.getLsbD 0 = true → new → (∀ e < 256, (cu s).reqs.has e = true) → ∃ s' v, exec .pullReq s = .next s' ∧
        (cu s').reqs = (cu s).reqs ∧ token s s' r v ∧ v.extractLsb' 24 8 = 2)) ∧
    (∀ (e : Nat) (x : ReqEnt), (cu s).reqs = [(e, x)] → remote x.req → x.tlen = 0 → x.posted = false → x.next < x.req.len →
      x.req.len < 2 ^ 32 → (cu s).g < 16 → e < 256 →
      let n := min 8 (min (16 - (cu s).g) ((x.req.len - x.next + 63) / 64))
      let seq := (x.gseq + 1) % 2 ^ 16
      ∃ s' v, exec .grant s = .next s' ∧ (cu s').g = (cu s).g + n ∧
        (cu s').reqs = [(e, { x with gseq := seq, pre := false, tlen := n, tmap := 0, exp := s.now tile + 8192, posted := true })] ∧
        token s s' x.req v ∧ v.extractLsb' 24 8 = 1 ∧ v.extractLsb' 64 32 = BitVec.ofNat 32 x.next ∧
        v.extractLsb' 96 16 = BitVec.ofNat 16 (min (64 * n) (x.req.len - x.next)) ∧ v.extractLsb' 112 16 = BitVec.ofNat 16 e ∧
        v.extractLsb' 192 32 = BitVec.ofNat 32 seq ∧
        (⟨.deck (deckOf tile), s.now tile + 8192, true, ⟨tile, 0, 0⟩,
          { n := e, m := seq, w := BitVec.ofNat 64 x.stamp }, .tokenExpiry⟩ ∈ s'.agenda)) ∧
    -- what a flit of the live token does: it is written, some of its words perhaps in a later cycle; another token flit is awaited
    (let accepts (i : Instr) (rest : List Flit) (e : Nat) (x : ReqEnt) (ix : Nat) (d : BitVec 512) : Prop :=
      let dest := x.req.dest
      let o := x.next + 64 * ix
      let n := min 64 (x.req.len - o)
      let at_ := amOff dest + o
      (x.req.kind = .pull → x.tlen ≤ 8 → o < x.req.len → isGlobal dest = false → isTileMap dest = true → amKind dest = 0 →
        amOff dest + x.req.len ≤ 0x4_0000 → amTile dest = tile → s.lmBad tile (amCore dest) at_ n = false →
        (s.core tile (amCore dest)).lm.wf = true → (∃ j < x.tlen, j ≠ ix ∧ x.tmap.getLsbD j = false) →
        ∃ s' lo hi, exec i s = .next s' ∧ (cu s').accepted = rest ∧ (cu s').inj = (cu s).inj ∧
          (cu s').reqs = [(e, { x with tmap := x.tmap ||| (1 : BitVec 8) <<< ix })] ∧ lo ≤ hi ∧ hi ≤ n ∧
          (lo = 0 ∨ (at_ + lo) % 4 = 0) ∧ (hi = n ∨ (at_ + hi) % 4 = 0) ∧
          (lo = hi → (cu s').late = (cu s).late) ∧
          (lo < hi → ∃ w, (cu s').late = (cu s).late ++ [w] ∧ w.entry = e ∧ s.now tile < w.at_ ∧
            w.addr = dest + BitVec.ofNat 64 (o + lo) ∧ w.bytes = ((lineBytes d).take hi).drop lo) ∧
          ∀ t k y, ¬(t = tile ∧ k = amCore dest ∧
              ∃ w ∈ wordsOf at_ n, (s.core tile (amCore dest)).wokenByte l w y) → (s'.core t k).lm.readByte y =
            if t = tile ∧ k = amCore dest ∧ at_ ≤ y ∧ y < at_ + n ∧ ¬(at_ + lo ≤ y ∧ y < at_ + hi) then
              BitVec.ofNat 8 (d.toNat / 2 ^ (8 * (y - at_))) else (s.core t k).lm.readByte y) ∧
      (x.tmap = 0 → x.tlen = 1 → remote x.req → x.posted = false → x.done = false → x.req.len ≤ x.next + 64 →
        x.next < x.req.len → isGlobal dest = false → (cu s).late = [] →
        let y : ReqEnt := { x with next := x.req.len, miss := 0, tlen := 0, tmap := 0 }
        ∃ s', exec i s = .next s' ∧ (cu s').g = (if x.pre then (cu s).g else (cu s).g - 1) ∧
          ((cu s').late = [] → (cu s').reqs = [(e, { y with posted := true, done := true })] ∧
            ∃ v, token s s' x.req v ∧ v.extractLsb' 24 8 = 3 ∧ v.extractLsb' 224 8 = 0) ∧
          ((cu s').late ≠ [] → (cu s').reqs = [(e, y)] ∧ (cu s').inj = (cu s).inj))
    let discards (i : Instr) (rest : List Flit) : Prop := ∃ s', exec i s = .next s' ∧ (cu s').accepted = rest ∧
      (cu s').reqs = (cu s).reqs ∧ (cu s').pool = (cu s).pool ∧ (cu s').pfxdrop = (cu s).pfxdrop ∧ (cu s').inj = (cu s).inj ∧
      ∀ t k, (s'.core t k).lm = (s.core t k).lm
    (∀ (f : Flit) (rest : List Flit) (e gseq ix : Nat) (d : BitVec 512), (cu s).accepted = f :: rest →
      f.msg = .data e gseq ix d →
      ((∀ x, (cu s).reqs.get? e = some x → x.tlen = 0 ∨ x.gseq % 16 ≠ gseq % 16 ∨ x.tlen ≤ ix) → discards .pullData rest) ∧
      ∀ x, (cu s).reqs = [(e, x)] → x.tlen ≠ 0 → ix < x.tlen → x.gseq % 16 = gseq % 16 → accepts .pullData rest e x ix d) ∧
    ∀ (f : Flit) (rest : List Flit) (tag ix : Nat) (d : BitVec 512) (e : Nat) (x : ReqEnt), (cu s).accepted = f :: rest →
      f.msg = .pfx tag ix d → f.age < 0x100 → (cu s).reqs = [(e, x)] → x.req.src = f.src → x.req.tag = tag → x.req.pfx ≠ 0 →
      (x.pre = true → ix < x.tlen → accepts .pullPfx rest e x ix d) ∧
      (x.pre = false → s.clock < x.came + 2 ^ 15 → discards .pullPfx rest)) ∧
    (∀ (e stamp : Nat) (x : ReqEnt), (cu s).acks.get? s.arg.n = some (.grant e stamp) → (cu s).reqs = [(e, x)] →
      (x.stamp = stamp → x.done = true → ∃ s', exec .ackReceived s = .next s' ∧ (cu s').reqs = []) ∧
      (x.stamp = stamp → x.done = false → x.next < x.req.len → ∃ s', exec .ackReceived s = .next s' ∧
        (cu s').reqs = [(e, { x with posted := false })]) ∧
      (x.stamp ≠ stamp → ∃ s', exec .ackReceived s = .next s' ∧ (cu s').reqs = [(e, x)])) ∧
    (∀ (f : Flit) (rest : List Flit) (tag ix : Nat) (d : BitVec 512), (cu s).accepted = f :: rest → f.msg = .pfx tag ix d →
      (0x100 ≤ f.age ∨ ((cu s).reqs = [] ∧ (cu s).refused = [] ∧ 64 ≤ (cu s).pool.length) → ∃ s', exec .pullPfx s = .next s' ∧
        (cu s').accepted = rest ∧ (cu s').pfxdrop = (cu s).pfxdrop + 1 ∧ (cu s').pool = (cu s).pool) ∧
      (f.age < 0x100 → (cu s).reqs = [] → (f.src, tag, s.clock) ∈ (cu s).refused → ∃ s', exec .pullPfx s = .next s' ∧
        (cu s').accepted = rest ∧ (cu s').pfxdrop = (cu s).pfxdrop ∧ (cu s').pool = (cu s).pool) ∧
      (f.age < 0x100 → (cu s).reqs = [] → (cu s).refused = [] → (cu s).pool.length < 64 →
        ∃ s', exec .pullPfx s = .next s' ∧ (cu s').pool = (cu s).pool ++ [(f.src, tag, ix, d, (cu s).arrived)] ∧
          (cu s').pfxdrop = (cu s).pfxdrop ∧ (cu s').arrived = (cu s).arrived + 1 ∧
          (⟨.deck (deckOf tile), s.now tile + 8192, false, ⟨tile, 0, 0⟩, { n := (cu s).arrived }, .pfxPoolExpiry⟩ ∈ s'.agenda) ∧
          (⟨.ref, (s.clock / 64 + (0x100 - f.age)) * 64, false, ⟨tile, 0, 0⟩, { n := (cu s).arrived }, .pfxPoolExpiry⟩ ∈ s'.agenda))) ∧
    (∀ (src tag ix n : Nat) (d : BitVec 512), (cu s).pool = [(src, tag, ix, d, n)] →
      (s.arg.n = n → ∃ s', exec .pfxPoolExpiry s = .next s' ∧ (cu s').pool = [] ∧ (cu s').pfxdrop = (cu s).pfxdrop + 1) ∧
      (s.arg.n ≠ n → exec .pfxPoolExpiry s = .next s)) ∧
    ∀ x : ReqEnt, (cu s).reqs = [(s.arg.n, x)] → x.stamp = s.arg.w.toNat → x.gseq = s.arg.m → x.tlen ≠ 0 →
      (x.pre = true → x.tmap = 0 → x.miss < 3 → x.next < x.req.len → ∃ s', exec .tokenExpiry s = .next s' ∧ (cu s').g = (cu s).g ∧
        (cu s').orphan = (cu s).orphan ∧ (cu s').reqs = [(s.arg.n, { x with tlen := 0, tmap := 0 })]) ∧
      (x.pre = false → x.tmap = 0 → 2 ≤ x.miss → ∃ s', exec .tokenExpiry s = .next s' ∧ (cu s').reqs = [] ∧
        (cu s').orphan = (cu s).orphan + 1 ∧ (cu s').g = (cu s).g - x.tlen) ∧
      (x.pre = false → x.tmap = 0 → x.miss < 2 → x.next < x.req.len → ∃ s', exec .tokenExpiry s = .next s' ∧
        (cu s').orphan = (cu s).orphan ∧ (cu s').g = (cu s).g - x.tlen ∧
        (cu s').reqs = [(s.arg.n, { x with tlen := 0, tmap := 0, miss := x.miss + 1 })]) ∧
      (x.pre = false → x.tmap = 1 → x.next + 64 < x.req.len → ∃ s', exec .tokenExpiry s = .next s' ∧ (cu s').g = (cu s).g - x.tlen ∧
        (cu s').reqs = [(s.arg.n, { x with next := x.next + 64, tlen := 0, tmap := 0, miss := 0 })])

/-- R199, R215, R216, R359, R364: the sender looks at its grant cell when it has changed: of a TOKEN of its channel and
transfer it sends the granted bytes, a flit at a time, as it has read them and a flit buffer takes them; a RETRY has the
request sent again 2,048 cycles later, a DONE ends the command with its status; another token does nothing. A request is
sent again, without a prefix, after a RETRY and when the cell has not changed for 65,536 cycles. Where it shows a choice of
the model, not a rule: log 46, log 84. -/
def Obligations.PullSends : Prop :=
  ∀ (s : State) (run : ChanRun) (p : Pull) (i : Instr),
    let tile := s.cur.tile
    let k := s.arg.n
    let cu (s : State) : CopyUnit := (s.tile tile).copy
    let c := (s.tile tile).cell p.req.gcell
    let v := c.value
    let pull (s : State) : Option Pull := ((cu s).chans.getD k {}).run.bind (·.pull)
    let seen : Pull := { p with seen := c.count, changed := s.now tile }
    let mine : Prop := (v.extractLsb' 16 6).toNat = k ∧ v.extractLsb' 32 32 = p.req.xid
    let goes (s' : State) : Prop :=
      ⟨.deck (deckOf tile), s.now tile, false, ⟨tile, run.q.core, run.q.thr⟩, { n := k }, i⟩ ∈ s'.agenda
    let again (s' : State) : Prop := goes s' ∧
      pull s' = some { p with req := { p.req with pfx := 0 }, ask := true, changed := s.now tile }
    ((cu s).chans.getD k {}).run = some run → run.pull = some p → ((cu s).chans.getD k {}).fpend = none →
    (s.tile tile).frozen = false → (decodeTWord run.q.word).toOption = some i →
    (p.req.kind = .pull →
      (c.count = p.seen → exec .pullTokenSample s = .next s) ∧
      (c.count ≠ p.seen → ¬mine → ∃ s', exec .pullTokenSample s = .next s' ∧ pull s' = some seen ∧ (cu s').inj = (cu s).inj ∧
        s'.agenda = s.agenda) ∧
      (c.count ≠ p.seen → mine → v.extractLsb' 24 8 = 1 →
        let off := (v.extractLsb' 64 32).toNat
        ∃ s', exec .pullTokenSample s = .next s' ∧ goes s' ∧ pull s' = some { seen with
          send := some { next := off, stop := min p.req.len (off + (v.extractLsb' 96 16).toNat),
                         tok := some ((v.extractLsb' 112 16).toNat, (v.extractLsb' 192 32).toNat) } }) ∧
      (c.count ≠ p.seen → mine → v.extractLsb' 24 8 = 2 → ∃ s', exec .pullTokenSample s = .next s' ∧ pull s' = some seen ∧
        (⟨.deck (deckOf tile), s.now tile + 2048, false, ⟨tile, 0, 0⟩, { n := k, m := run.q.id }, .retryResend⟩ ∈ s'.agenda)) ∧
      (c.count ≠ p.seen → mine → v.extractLsb' 24 8 = 3 → ∃ s', exec .pullTokenSample s = .next s' ∧ pull s' = none ∧
        (⟨.deck (deckOf tile), s.now tile, false, ⟨tile, 0, 0⟩, { n := k, m := (v.extractLsb' 224 8).toNat },
          .copyCompletion⟩ ∈ s'.agenda))) ∧
    (∀ (h : CopyHdr) (ops : BitVec 192) (x : Send) (e g : Nat), h.chan.toNat = k → run = { q := run.q, pull := some p } →
      p.ask = false → p.send = some x → x.tok = some (e, g) → x.next < x.stop →
      let n := x.stop - x.next
      let a : Word := ops.extractLsb' 0 64 + BitVec.ofNat 64 (p.base + x.next)
      n ≤ 64 → a.toNat % 64 + n ≤ 64 → isGlobal a = false → isTileMap a = true → amFormOk a = true → amTile a = tile →
      amKind a = 0 → amOff a + n ≤ 0x4_0000 → s.lmBad tile (amCore a) (amOff a) n = false → ((cu s).buffer k).isSome = true →
      ∃ s' f, exec (.copyPull h ops) s = .next s' ∧ (cu s').inj = (cu s).inj ++ [f] ∧ f.chan = some k ∧ f.flit.dst = p.dst ∧
        f.flit.cls = p.req.cls ∧ f.flit.msg = .data e g x.ix (BitVec.ofNat 512 ((s.core tile (amCore a)).lm.readNat (amOff a) n)) ∧
        pull s' = some { p with send := none }) ∧
    (run.q.id = s.arg.m →
      (∃ s', exec .retryResend s = .next s' ∧ again s') ∧
      (65536 ≤ s.now tile - p.changed → ∃ s', exec .silentCellResend s = .next s' ∧ again s' ∧
        (⟨.deck (deckOf tile), s.now tile + 65536, false, s.cur, s.arg, .silentCellResend⟩ ∈ s'.agenda)) ∧
      (s.now tile - p.changed < 65536 → exec .silentCellResend s = .next (s.atTile tile (65536 - (s.now tile - p.changed))
        .silentCellResend s.cur s.arg))) ∧
    (run.q.id ≠ s.arg.m → exec .retryResend s = .next s ∧ exec .silentCellResend s = .next s)

/-- R367 to R369, R375: a link sends its next flit with the next sequence number and keeps it until it is acknowledged; a
replay sends again every unacknowledged one from the number asked for on, a purged one as an empty framing; a flit with a
bad CRC, or for which no ingress buffer is free, is asked for again (the latter DEDUCED, log 90), a sound one acknowledged,
then passed on for another module, counted when its lane is nobody's or its kind is reserved, or checked against the live contexts of
its lane: a flit of data goes into the fabric, a flit of a copy joins it, the two flits of an acknowledgement come to its wait.
Where it shows a choice of the model, not a rule: log 71, log 90, log 102. -/
def Obligations.LinkSteps : Prop :=
  ∀ s : State,
    let k := s.arg.n
    let link (s : State) : Link := s.gw.links.getD k {}
    let l := link s
    let near (q : Nat) : Prop := (q + 65536 - s.arg.m) % 65536 < 32768
    (∀ f : GwFlit, l.again = [] → l.egress = [f] → f.sent = false → f.part ≤ 64 →
      let g : GwFlit := { f with sent := true, lseq := l.next }
      ∃ s', exec .linkTransmit s = .next s' ∧ s'.gw.wire = s.gw.wire ++ [(k, .flit g)] ∧ (link s').egress = [g] ∧
        (link s').next = (l.next + 1) % 65536 ∧ (link s').last = f.part) ∧
    (∀ q rest, l.again = q :: rest →
      (∀ f : GwFlit, l.egress = [f] → f.sent = true → f.lseq = q → ∃ s', exec .linkTransmit s = .next s' ∧
        s'.gw.wire = s.gw.wire ++ [(k, .flit f)] ∧ (link s').again = rest ∧ (link s').egress = l.egress) ∧
      (l.egress = [] → q ∈ l.purged → ∃ s', exec .linkTransmit s = .next s' ∧ s'.gw.wire = s.gw.wire ++ [(k, .empty q)] ∧
        (link s').again = rest)) ∧
    (s.gw.wait = [] → ∃ s', exec .linkAck s = .next s' ∧
      (link s').egress = (l.egress.filter fun f => !(f.sent && decide (f.lseq = s.arg.m))) ∧
      (link s').purged = l.purged.filter (· != s.arg.m) ∧ s'.gw.wire = s.gw.wire) ∧
    (∃ s', exec .linkReplay s = .next s' ∧ (link s').egress = l.egress ∧ (link s').next = l.next ∧
      ∀ q, q ∈ (link s').again ↔ near q ∧ (q ∈ l.purged ∨ ∃ f ∈ l.egress, f.sent = true ∧ f.lseq = q)) ∧
    let fr := s.arg.e
    let lseq := (fr.extractLsb' 80 16).toNat
    let dmod := (fr.extractLsb' 0 9).toNat
    let kind := (s.arg.w.extractLsb' 43 3).toNat
    let ref := (s.arg.w.extractLsb' 0 22).toNat
    let again : Prop := ∃ s', exec .linkReceive s = .next s' ∧ s'.gw.wire = s.gw.wire ++ [(k, .replay lseq)] ∧
      s'.gw.arrived = s.gw.arrived ∧ s'.gw.links = s.gw.links ∧ s'.parts = s.parts
    (s.arg.ok = false → again) ∧
    (dmod ≠ s.gw.me → s.ingressRoom k 64 = false → again) ∧
    (s.arg.ok = true →
      (∀ d, kind ≠ 0 → dmod ≠ s.gw.me → s.ingressRoom k 64 = true →
        -- an acknowledgement goes on by the way its copy came
        (if kind = 6 then d = Nat.xor (k / 4) 1 else towards s.gw.me dmod = some d) → s.linkRoom (4 * d) 64 = true →
        ∃ s' g, exec .linkReceive s = .next s' ∧ s'.gw.wire = s.gw.wire ++ [(k, .ack lseq)] ∧
        (s'.gw.links.getD (4 * d) {}).egress = (s.gw.links.getD (4 * d) {}).egress ++ [g] ∧ g.part = 64 ∧ g.dmod = dmod ∧
        g.smod = (fr.extractLsb' 9 9).toNat ∧ g.slot = (fr.extractLsb' 44 4).toNat ∧
        g.epoch = (fr.extractLsb' 48 32).toNat ∧ g.lane = (fr.extractLsb' 28 16).toNat ∧
        g.cls = (s.arg.w.extractLsb' 46 2).toNat ∧ g.age = (s.arg.w.extractLsb' 48 16).toNat ∧ g.sent = false) ∧
      (dmod = s.gw.me → s.ingressRoom k 64 = true → (∀ p ∈ s.parts, p.2.lane ≠ some (fr.extractLsb' 28 16).toNat) →
        ∃ s', exec .linkReceive s = .next s' ∧ s'.gw.wire = s.gw.wire ++ [(k, .ack lseq)] ∧
        s'.gw.ctagdrop = s.gw.ctagdrop + 1 ∧ s'.gw.arrived = s.gw.arrived ∧ s'.parts = s.parts) ∧
      (∀ p x, dmod = s.gw.me → s.parts = [(p, x)] → x.lane = some (fr.extractLsb' 28 16).toNat → s.ingressRoom k p = true →
        (kind = 0 → ∃ s', exec .linkReceive s = .next s' ∧ s'.gw.wire = s.gw.wire ++ [(k, .ack lseq)] ∧
          s'.gw.links = s.gw.links ∧ (s'.part p).badkind = x.badkind + 1) ∧
        let c := x.ctx (fr.extractLsb' 44 4).toNat
        let live : Bool := decide (c.epoch.toNat = (fr.extractLsb' 48 32).toNat) &&
          (decide (c.state = 0x01) || decide (c.state = 0x02) || decide (c.state = 0x03))
        (kind = 4 → live = true → ∃ s' f, exec .linkReceive s = .next s' ∧ s'.gw.wire = s.gw.wire ++ [(k, .ack lseq)] ∧
          s'.gw.out = s.gw.out ++ [f] ∧ f.dst = (s.arg.w.extractLsb' 30 13).toNat ∧ f.part = p ∧ f.via = some k ∧
          f.msg = .data (ref / 2 ^ 14) (ref / 2 ^ 10 % 16) (ref / 2 ^ 7 % 8) s.arg.d) ∧
        (∀ id, kind = 6 → live = true → s.gw.nums.get? (ref / 8) = some id →
          let h := s.gw.half.getD id (none, none)
          (h = (none, none) → ∃ s', exec .linkReceive s = .next s' ∧ s'.gw.half.get? id =
            some (if ref % 8 = 0 then (some s.arg.d, none) else (none, some s.arg.d))) ∧
          (∀ y, h = (if ref % 8 = 0 then (none, some y) else (some y, none)) → ∃ s' l, exec .linkReceive s = .next s' ∧
            (⟨.ref, s.clock, false, default, { n := id, ok := false, l := l }, .mcastAck⟩ ∈ s'.agenda) ∧
            let r := if ref % 8 = 0 then s.arg.d else y
            l.take 2 = [(r.extractLsb' 0 16).toNat, (r.extractLsb' 16 16).toNat])) ∧
        (kind = 7 → s.gw.arrived = [] → ∃ s' m, exec .linkReceive s = .next s' ∧ s'.gw.wire = s.gw.wire ++ [(k, .ack lseq)] ∧
            s'.gw.arrived = [m] ∧ m.part = p ∧ m.slot = (fr.extractLsb' 44 4).toNat ∧ m.epoch = (fr.extractLsb' 48 32).toNat ∧
            m.link = some k ∧ m.smod = (fr.extractLsb' 9 9).toNat ∧ m.ref = ref / 8 ∧ m.tile = ref / 8 / 64 ∧ m.stale = !live ∧
            m.cls = (s.arg.w.extractLsb' 46 2).toNat ∧
            (s'.part p).ctagdrop = (if live then x.ctagdrop else x.ctagdrop + 1) ∧
            (ref % 8 = 0 → m.lines = [] ∧ m.age = (s.arg.w.extractLsb' 48 16).toNat ∧ m.group = (s.arg.d.extractLsb' 0 8).toNat ∧
              m.count = some (s.arg.d.extractLsb' 8 8).toNat ∧ m.offset = (s.arg.d.extractLsb' 16 48).toNat ∧
              m.src = (s.arg.d.extractLsb' 64 9).toNat) ∧
            (ref % 8 ≠ 0 → m.count = none ∧ m.lines = [(ref % 8 - 1, s.arg.d, (s.arg.w.extractLsb' 48 16).toNat)]))))

/-- R218, R370 to R373, R380, R382: a copy whose flits have all reached a module, where references are free, is sent on to the members of each
direction, its head and its lines as flits of their own, with a wait of 32,768 ticks per hop and 16,384 more; a module that
only lies on its path passes it on unchanged; a member whose copy is stale counts as failed with EPOCH; the results of the
waits are added up, those that run out as UNREACHABLE, as are members that no result counts, and the last one sends the
record to the tile of the copy.mcast, or keeps it while the context of that does not run. Where it shows a choice of the
model, not a rule: log 68, log 70, log 72, log 102. -/
def Obligations.MulticastSteps : Prop :=
  ∀ (s : State) (x : McCopy),
    let me := s.gw.me
    let members := s.groupMembers x.part x.slot x.group
    let gone (who : List Nat) : List Nat := members.filter fun m => !who.contains m
    let result (s' : State) (succ fail : Nat) (pairs : List (Nat × Nat)) (who : List Nat) : Prop :=
      let all := mergePairs pairs ((gone who).map fun m => (m, 3))
      ∃ f r, s'.gw.out = s.gw.out ++ [f] ∧ f.src = gatewayTile x.tile ∧ f.dst = x.tile ∧ f.cls = 0 ∧
        f.msg = .mcastDone x.chan x.xid r ∧ r.extractLsb' 0 16 = BitVec.ofNat 16 succ ∧
        r.extractLsb' 16 16 = BitVec.ofNat 16 (fail + (gone who).length) ∧ r.extractLsb' 32 32 = BitVec.ofNat 32 all.length ∧
        ∀ i < 4, ∀ m why, all[i]? = some (m, why) → r.extractLsb' (64 + 64 * i) 8 = BitVec.ofNat 8 why ∧
          r.extractLsb' (72 + 64 * i) 9 = BitVec.ofNat 9 m
    (s.gw.arrived = [x] → s.gw.canAct x = true →
      let num := (s.gw.freeCopies x.tile).headD 0
      (x.link = none → s.sourceRuns x = true → members = [me] → x.stale = true → ∃ s', exec .mcastCopyArrival s = .next s' ∧
        s'.gw.arrived = [] ∧ s'.gw.nodes = s.gw.nodes.filter (fun m => m.id != s.gw.nextRef + 1) ∧ result s' 0 1 [(me, 5)] [me]) ∧
      (∀ d ms, x.link = none → x.stale = false → me ∉ members → copiesFrom me x.src none members = [(d, ms)] →
        ∃ s' n, exec .mcastCopyArrival s = .next s' ∧ s'.gw.arrived = [] ∧ s'.gw.nodes = s.gw.nodes ++ [n] ∧ n.copy = x ∧
          n.kids = [(s.gw.nextRef, ms)] ∧ n.succ = 0 ∧ n.fail = 0 ∧
          s'.gw.links = (s.sendCopy x d me num).gw.links ∧ s'.gw.nums = s.gw.nums.set num s.gw.nextRef ∧
          (⟨.ref, s.clock + (32768 * (ms.foldl (fun h m => max h (hopsTo me d m)) 0) + 16384), false, default,
            { n := s.gw.nextRef }, .mcastAckTimeout⟩ ∈ s'.agenda)) ∧
      (∀ k ms, x.link = some k → x.stale = false → me ∉ members →
        copiesFrom me x.src (some (Nat.xor (k / 4) 1)) members = [(Nat.xor (k / 4) 1, ms)] →
        ∃ s', exec .mcastCopyArrival s = .next s' ∧ s'.gw.arrived = [] ∧ s'.gw.nodes = s.gw.nodes ∧ s'.agenda = s.agenda ∧
          s'.gw.links = (s.sendCopy x (Nat.xor (k / 4) 1) x.smod x.ref).gw.links)) ∧
    (∀ d smod ref, x.part ≠ 64 → ((s.gw.links.getD (4 * d) {}).egress.filter fun f => f.part == x.part).length + x.lines.length <
        (s.part x.part).shares.getD (4 * d) 0 →
      let f (age : Nat) (m : GwMsg) : GwFlit :=
        { part := x.part, lane := (s.part x.part).lane.getD 0, slot := x.slot, epoch := x.epoch, smod := smod,
          dmod := nextModule me d, cls := x.cls, age := age, msg := m }
      ((s.sendCopy x d smod ref).gw.links.getD (4 * d) {}).egress = (s.gw.links.getD (4 * d) {}).egress ++
        f x.age (.head x.group x.offset x.lines.length x.src ref) :: x.lines.map fun l => f l.2.2 (.line l.1 l.2.1 ref)) ∧
    ∀ (n : McNode) (ms : List Nat), s.gw.nodes = [n] → n.copy = x → x.link = none →
      (n.kids = [(s.arg.n, ms)] → n.pairs = [] → s.sourceRuns x = true →
        (s.arg.ok = true → n.owed ≤ 1 → n.why = 0 → s.arg.m = 0 → ∃ s', exec .mcastAck s = .next s' ∧ s'.gw.nodes = [] ∧
          result s' (n.succ + 1) n.fail [] (n.who ++ [me])) ∧
        (s.arg.ok = true → n.owed ≤ 1 → n.why = 0 → s.arg.m ≠ 0 → s.arg.m < 256 → ∃ s', exec .mcastAck s = .next s' ∧
          s'.gw.nodes = [] ∧ result s' n.succ (n.fail + 1) [(me, s.arg.m)] (n.who ++ [me])) ∧
        (∀ a b who, s.arg.ok = false → s.arg.l = a :: b :: 0 :: who → ∃ s', exec .mcastAck s = .next s' ∧ s'.gw.nodes = [] ∧
          result s' (n.succ + a) (n.fail + b) [] (n.who ++ who)) ∧
        (∀ m, ms = [m] → ∃ s', exec .mcastAckTimeout s = .next s' ∧ s'.gw.nodes = [] ∧
          result s' n.succ (n.fail + 1) [(m, 3)] (n.who ++ [m]))) ∧
      (n.kids = [(s.arg.n, ms)] → s.sourceRuns x = false → ∃ s', exec .mcastAckTimeout s = .next s' ∧ s'.gw.out = s.gw.out ∧
        (s'.gw.nodes.map fun y => (y.kids, y.succ, y.fail)) = [([], n.succ, n.fail + ms.length)]) ∧
      (s.arg.ok = true → n.kids = [(s.arg.n, ms)] → 1 < n.owed → ∃ s', exec .mcastAck s = .next s' ∧ s'.gw.out = s.gw.out ∧
        s'.gw.nodes = [{ n with owed := n.owed - 1, why := if n.why = 0 then s.arg.m else n.why }]) ∧
      (∀ kid, n.kids = [(s.arg.n, ms), kid] → kid.1 ≠ s.arg.n →
        (∃ s', exec .mcastAckTimeout s = .next s' ∧ (s'.gw.nodes.map fun y => (y.kids, y.succ, y.fail)) =
          [([kid], n.succ, n.fail + ms.length)]) ∧
        (s.arg.ok = true → n.owed ≤ 1 → n.why = 0 → s.arg.m = 0 → ∃ s', exec .mcastAck s = .next s' ∧
          (s'.gw.nodes.map fun y => (y.kids, y.succ, y.fail)) = [([kid], n.succ + 1, n.fail)])) ∧
      ((∀ kid ∈ n.kids, kid.1 ≠ s.arg.n) → exec .mcastAck s = .next s ∧ exec .mcastAckTimeout s = .next s)

/-! ## Jobs, contexts, partitions and keys (spec/16, spec/17, spec/19) -/

/-- R331 to R334, R344: a host post replaces the job cell's value and is acted on within 4,096 ticks when its sequence is
the accepted one plus 1; SUBMIT queues a well-formed job and answers 0, a bad record 2, another command 3, a lost strip 4,
and waits while 64 jobs are queued; CANCEL and RESUME of what no job names answer 4; a job starts with its first phase; a
launch that can take its tiles sets them up with its image, zero registers and its dithered period, and their first tick
comes at least 4,096 ticks later. Where it shows a choice of the model, not a rule: log 10, log 24, log 80. -/
def Obligations.JobSteps : Prop :=
  ∀ s : State,
    let p := s.arg.n
    let c := s.arg.m
    let r : Rec := ⟨p, c⟩
    let v := (s.ctx p c).jobCell.value
    let e := (s.ctx p c).echo
    let a := (v.extractLsb' 0 64).toNat
    let seq := v.extractLsb' 64 64
    let cmd := (v.extractLsb' 128 8).toNat
    let lvl := (v.extractLsb' 136 8).toNat
    let due : Prop := seq = e.value.extractLsb' 0 64 + 1
    let echoes (s' : State) (res : Nat) : Prop := (s'.ctx p c).echo.value.extractLsb' 0 64 = seq ∧
      (s'.ctx p c).echo.value.extractLsb' 64 8 = BitVec.ofNat 8 res ∧
      (s'.ctx p c).echo.value.extractLsb' 128 128 = e.value.extractLsb' 128 128 ∧ (s'.ctx p c).echo.count = e.count + 1
    let jobs (s : State) : List Job := (s.part p).jobs
    (∀ q d, s.ofVf s.arg.n = some (q, d) →
      (s.arg.ok = false → exec .hostJobPost s = .next s) ∧
      (s.arg.ok = true → ∃ s' lat, exec .hostJobPost s = .next s' ∧ lat < 4096 ∧
        (s'.ctx q d).jobCell = ⟨s.arg.d.setWidth 256, (s.ctx q d).jobCell.count + 1, 0xFFFF, 0⟩ ∧
        (⟨.ref, s.clock + lat, false, default, { n := q, m := d }, if s.arg.d.extractLsb' 128 8 = 2 then .sequencerCancel
          else if s.arg.d.extractLsb' 128 8 = 3 then .sequencerResume else .submit⟩ ∈ s'.agenda))) ∧
    (¬due → exec .submit s = .next s ∧ exec .sequencerCancel s = .next s ∧ exec .sequencerResume s = .next s) ∧
    (due →
      (cmd = 1 → s.partDown p = false → s.jobOk r a = true →
        ((jobs s).length < 64 → ∃ s', exec .submit s = .next s' ∧ echoes s' 0 ∧ jobs s' = jobs s ++ [⟨a, c, false⟩]) ∧
        (64 ≤ (jobs s).length → exec .submit s = .next s)) ∧
      (cmd = 1 → s.partDown p = false → s.jobOk r a = false → ∃ s', exec .submit s = .next s' ∧ echoes s' 2 ∧ jobs s' = jobs s) ∧
      (cmd = 1 → s.partDown p = true → ∃ s', exec .submit s = .next s' ∧ echoes s' 4 ∧ jobs s' = jobs s) ∧
      (cmd ≠ 1 → cmd ≠ 2 → cmd ≠ 3 → ∃ s', exec .submit s = .next s' ∧ echoes s' 3 ∧ jobs s' = jobs s) ∧
      (cmd = 2 → s.jobNaming r lvl a = none ∨ lvl = 0 ∨ 4 < lvl → ∃ s', exec .sequencerCancel s = .next s' ∧ echoes s' 4 ∧
        jobs s' = jobs s) ∧
      (∀ j k, cmd = 2 → 1 ≤ lvl → lvl ≤ 4 → s.jobNaming r lvl a = some (j, k) → ∃ s1, echoes s1 0 ∧ jobs s1 = jobs s ∧
        exec .sequencerCancel s = .next (s1.cancelRecord ⟨p, j.ctx⟩ j.record lvl k).1) ∧
      (cmd = 3 → s.jobNaming r 4 a = none → ∃ s', exec .sequencerResume s = .next s' ∧ echoes s' 4 ∧ jobs s' = jobs s) ∧
      (∀ j k, cmd = 3 → s.jobNaming r 4 a = some (j, k) → s.recState ⟨p, j.ctx⟩ 4 k ≠ 4 → ∃ s',
        exec .sequencerResume s = .next s' ∧ echoes s' 4 ∧ jobs s' = jobs s) ∧
      (∀ j k, cmd = 3 → s.jobNaming r 4 a = some (j, k) → s.recState ⟨p, j.ctx⟩ 4 k = 4 → ∃ s1, echoes s1 0 ∧
        jobs s1 = jobs s ∧
        exec .sequencerResume s = .next ((s1.setRec ⟨p, j.ctx⟩ 4 k 3).seqRun ⟨p, j.ctx⟩ seqFuel
          ((s1.setRec ⟨p, j.ctx⟩ 4 k 3).nextPhase ⟨p, j.ctx⟩ k)))) ∧
    (∀ rest, jobs s = ⟨s.arg.w.toNat, c, false⟩ :: rest → (s.ctx p c).state ≠ 0x03 → (s.ctx p c).state ≠ 0x04 →
      (s.ctx p c).stopping = false →
      (∀ j ∈ rest, ¬(j.ctx = c ∧ j.record = s.arg.w.toNat)) → ∃ s1, jobs s1 = ⟨s.arg.w.toNat, c, true⟩ :: rest ∧
        exec .jobStart s = .next ((s1.setRec r 4 s.arg.w.toNat 3).seqRun r seqFuel
          (((s1.setRec r 4 s.arg.w.toNat 3).recKids r s.arg.w.toNat).take 1 |>.map .startPhase))) ∧
    ∀ q : Ready, s.grantable p = [.start q] →
      let l := s.readLaunch ⟨p, q.ctx⟩ q.record
      let image := s.lmemImage ⟨p, q.ctx⟩ q.record
      ∃ s', exec .launchStart s = .next s' ∧ (∀ y ∈ (s'.part p).ready, ¬(y.record = q.record ∧ y.ctx = q.ctx)) ∧
        (s'.ctx p q.ctx).state = 0x02 ∧
        ∀ t ∈ s.recTiles ⟨p, q.ctx⟩ q.record, (s'.tile t).launch = some l ∧
          (s'.tile t).kperiod = BitVec.ofNat 32 (dithered l t) ∧ (s'.tile t).kact = 0 ∧ (s'.tile t).actRuns = false ∧
          (∀ k h, s'.thread ⟨t, k, h⟩ = {}) ∧ (∀ k b, (s'.core t k).lm.readByte b = image.getD b 0) ∧
          ∃ at_, s.clock + 4096 ≤ at_ ∧ (⟨.ref, at_, false, ⟨t, 0, 0⟩, {}, .periodTick⟩ ∈ s'.agenda)

/-- R242, R258 to R261, R335: at a tick a tile without a running activation starts one (k.act rises, its root unit starts at
the entry with its registers 0, or with the trap of R124 when the entry is no place to start at); one that still runs misses the
tick in k.overrun; one after the limit or a cancel, or of a context that is being stopped, starts none, and the only tick of a
launch without a period is then still to come; a measured period outside the bound raises the drift alarm and a report. An activation is over when no unit of it is
left, and a tile that starts none any more then retires once its accesses have performed; the group watchdog reports its
count and starts again. Where it shows a choice of the model, not a rule: log 8, log 73. -/
def Obligations.ActivationSteps : Prop :=
  ∀ (s : State) (l : Launch),
    let tile := s.cur.tile
    let t := s.tile tile
    let root : ThreadRef := ⟨tile, l.rootCore, l.rootThr⟩
    let entry : Word := l.entry.setWidth 64
    let tvec : Word := l.tvec &&& ~~~3
    let noMore : Prop := l.cancelled = true ∨ (l.limit ≠ 0 ∧ l.limit ≤ t.kact.toNat)
    t.launch = some l →
    (l.retired = true ∨ t.frozen = true → exec .periodTick s = .next s) ∧
    (l.retired = false → t.frozen = false → t.ticked = false →
      (t.actRuns = false → l.cancelled = false → (l.limit = 0 ∨ t.kact.toNat < l.limit) → t.stopping = false →
        t.kperiod.toNat ≠ 0 → l.det = false → ∃ s', exec .periodTick s = .next s' ∧ (s'.tile tile).kact = t.kact + 1 ∧
          (s'.tile tile).actRuns = true ∧ (s'.tile tile).rootsLeft = 1 ∧ (s'.tile tile).lastTick = s.clock ∧
          (s'.tile tile).ticked = true ∧
          (targetFault l.csize entry = none → (s'.thread root).st = .running ∧ (s'.thread root).pc = entry) ∧
          (∀ cause, targetFault l.csize entry = some cause → (s'.thread root).tcause = cause.code.setWidth 64 ∧
            (s'.thread root).tinst = entry ∧ (s'.thread root).tpc = entry ∧ (s'.thread root).tval = entry ∧
            (tvec ≠ 0 → (s'.thread root).st = .running ∧ (s'.thread root).ih = true ∧ (s'.thread root).pc = tvec) ∧
            (tvec = 0 → (s'.thread root).st = .stopped)) ∧
          (s'.thread root).w1 = 0x100 ||| BitVec.ofNat 32 (l.prio * 64) ∧ (s'.thread root).w2 = 0 ∧
          (∀ d, (s'.thread root).getS d = 0) ∧ (∀ d, (s'.thread root).getV d = 0) ∧
          (∀ x, x ≠ root → s'.thread x = s.thread x) ∧
          (⟨.deck (deckOf tile), s.now tile + t.kperiod.toNat, false, ⟨tile, 0, 0⟩, {}, .periodTick⟩ ∈ s'.agenda)) ∧
      (t.actRuns = true → ∃ s', exec .periodTick s = .next s' ∧ (s'.tile tile).kact = t.kact ∧
        (s'.tile tile).koverrun = (if t.koverrun = 0xFFFF_FFFF then t.koverrun else t.koverrun + 1) ∧
        ∀ x, s'.thread x = s.thread x) ∧
      (t.actRuns = false → ¬noMore → t.stopping = true → ∃ s', exec .periodTick s = .next s' ∧
        (s'.tile tile).ticked = (t.kperiod != 0) ∧ (s'.tile tile).kact = t.kact ∧ (s'.tile tile).actRuns = false ∧
        ∀ x, s'.thread x = s.thread x) ∧
      (t.actRuns = false → noMore → ∃ s', exec .periodTick s = .next s' ∧ (s'.tile tile).launch = some l ∧
        (s'.tile tile).kact = t.kact ∧ (s'.tile tile).actRuns = false ∧ (s'.tile tile).koverrun = t.koverrun ∧
        ∀ x, s'.thread x = s.thread x)) ∧
    (l.retired = false → t.frozen = false → t.ticked = true → t.actRuns = true →
      let m := s.clock - t.lastTick
      let inside : Prop := l.period * (10 ^ 6 - l.drift) ≤ 10 ^ 6 * m ∧ 10 ^ 6 * m ≤ l.period * (10 ^ 6 + l.drift)
      ∃ s', exec .periodTick s = .next s' ∧
        (inside → (s'.tile tile).alarm = t.alarm ∧ (s'.tile tile).alarmCount = t.alarmCount ∧ s'.reports = s.reports) ∧
        (¬inside → (s'.tile tile).alarm = true ∧
          (s'.tile tile).alarmCount = (if t.alarmCount = 0xFFFF then t.alarmCount else t.alarmCount + 1) ∧
          s'.reports = s.reports ++ [⟨tile, 1, BitVec.ofNat 64 m, t.kact, none⟩])) ∧
    (t.actOver = true → ¬noMore ∨ t.accs ≠ [] ∨ t.frozen = true ∨ l.retired = true →
      exec .activationRetire s = .next (s.modTile tile fun t => { t with actRuns := false })) ∧
    (t.actOver = true ∨ t.actRuns = false → t.frozen = false → l.retired = false → noMore → t.accs = [] → ∃ s',
      exec .activationRetire s = .next s' ∧ (s'.tile tile).actRuns = false ∧
      (s'.tile tile).launch = some { l with retired := true }) ∧
    ((s.part l.part).hangLimit ≤ t.watchdog → ∃ s', exec .groupWatchdog s = .next s' ∧ (s'.tile tile).watchdog = 0 ∧
      s'.reports = s.reports ++ [⟨tile, 3, BitVec.ofNat 64 t.watchdog, 0, none⟩] ∧ ∀ x, s'.thread x = s.thread x) ∧
    (t.watchdog < (s.part l.part).hangLimit → exec .groupWatchdog s = .next s)

/-- R344, R357, R394, R395, R397, R419, R433: a quantum that ends pre-empts its context only when another has READY work; a
pre-emption stops activations, and after the grace every tile of the context stops and, once nothing of it is in flight, is
saved and becomes free; a saved context comes back on its tiles, but for an incomplete save area; an epoch bump waits until
its tag has rested for 2^23 ticks; a fence of a READY, RUNNING or SAVED context frees its tiles, leaves it READY, a save area it has or is writing incomplete, and
interrupts the host; a second error in the same tick is only logged. Where it shows a choice of the model, not a rule: log 23, log 75, log 77, log 82, log 91, log 97. -/
def Obligations.ContextSteps : Prop :=
  ∀ s : State,
    let p := s.arg.n
    let c := s.arg.m
    let r : Rec := ⟨p, c⟩
    let x := s.ctx p c
    let readyWork (d : Nat) : Prop := (∃ y ∈ (s.part p).ready, y.ctx = d) ∨ (s.ctx p d).state = 0x03
    let tag (e : W32) : Nat := 16 * (c % 16) + e.toNat % 16
    let last := (s.part p).ctags.get? (tag (x.epoch + 1))
    (x.state ≠ 0x02 ∨ x.quanta ≠ s.arg.w.toNat → exec .quantumExpiry s = .next s) ∧
    (x.state = 0x02 → x.quanta = s.arg.w.toNat →
      ((∃ d ∈ (s.part p).ctxs, d.1 ≠ c ∧ readyWork d.1) →
        exec .quantumExpiry s = .next (s.atRef 0 .preEmption default { n := p, m := c })) ∧
      ((∀ d ∈ (s.part p).ctxs, d.1 ≠ c → ¬readyWork d.1) → x.quantum ≠ 0 → ∃ s', exec .quantumExpiry s = .next s' ∧
        s'.tiles = s.tiles ∧ (s'.ctx p c).quanta = x.quanta + 1 ∧ (s'.ctx p c).stopping = x.stopping ∧
        (⟨.ref, s.clock + 4096 * x.quantum, false, default,
          { n := p, m := c, w := BitVec.ofNat 64 (x.quanta + 1) }, .quantumExpiry⟩ ∈ s'.agenda))) ∧
    (x.state = 0x02 → x.stopping = false → ∃ s', exec .preEmption s = .next s' ∧ (s'.ctx p c).stopping = true ∧
      (∀ t ∈ s.ctxTiles r, (s'.tile t).stopping = true) ∧ (∀ y, s'.thread y = s.thread y) ∧
      (⟨.ref, s.clock + (s.part p).grace, false, default, { n := p, m := c }, .contextSave⟩ ∈ s'.agenda)) ∧
    (x.stopping = true → x.state = 0x02 →
      (s.ctxQuiet r = false → ∃ s', exec .contextSave s = .next s' ∧
        (∀ t ∈ s.ctxTiles r, (s'.tile t).frozen = true) ∧ (s'.ctx p c).state = 0x02 ∧ ∀ y, s'.thread y = s.thread y) ∧
      (s.ctxQuiet r = true → ∃ s', exec .contextSave s = .next s' ∧ (s'.ctx p c).state = 0x03 ∧
        (s'.ctx p c).stopping = false ∧ (s'.ctx p c).complete = true ∧
        (s'.ctx p c).saved.map (·.1) = s.ctxTiles r ∧ ∀ t ∈ s.ctxTiles r, (s'.tile t).launch = none)) ∧
    (x.complete = false → ∃ s', exec .contextRestore s = .next s' ∧ s'.tiles = s.tiles ∧
      (s'.ctx p c).echo.value.extractLsb' 64 8 = 2 ∧ (s'.ctx p c).state = x.state) ∧
    (∀ t y n, x.complete = true → x.state = 0x03 → x.saved = [(t, y, n)] → x.faults = [] → x.cuts = [] → (s.tile t).launch = none → ∃ s',
      exec .contextRestore s = .next s' ∧ (s'.ctx p c).state = 0x02 ∧ (s'.ctx p c).saved = [] ∧ (s'.tile t).launch = y.launch ∧
        (s'.tile t).kact = y.kact ∧ (s'.tile t).cells = y.cells ∧ (s'.tile t).ev.neurons = y.ev.neurons) ∧
    (x.bumps = 0 → exec .epochBump s = .next s) ∧
    (x.bumps ≠ 0 → (last = none ∨ ∃ n, last = some n ∧ n + 2 ^ 23 ≤ s.clock) → ∃ s', exec .epochBump s = .next s' ∧
      (s'.ctx p c).epoch = x.epoch + 1 ∧ (s'.ctx p c).bumps = x.bumps - 1 ∧
      (s'.part p).ctags.get? (tag x.epoch) = some s.clock ∧ s'.tiles = s.tiles) ∧
    (∀ n, x.bumps ≠ 0 → last = some n → s.clock < n + 2 ^ 23 → ∃ s', exec .epochBump s = .next s' ∧ s'.parts = s.parts ∧
      (⟨.ref, n + 2 ^ 23, false, default, s.arg, .epochBump⟩ ∈ s'.agenda)) ∧
    (x.state = 0x01 ∨ x.state = 0x02 ∨ x.state = 0x03 → x.fencedAt ≠ s.clock + 1 → ∃ s', exec .contextFence s = .next s' ∧
      (s'.ctx p c).state = 0x01 ∧ (s'.ctx p c).stopping = false ∧
      (x.state = 0x03 ∨ x.stopping = true → (s'.ctx p c).complete = false) ∧
      s'.irqs = s.irqs ++ [(x.vf, 0)] ∧ (s'.ctx p c).saved = [] ∧ (s'.ctx p c).faults = [] ∧ (∀ y ∈ (s'.part p).ready, y.ctx ≠ c) ∧
      ∀ t ∈ s.ctxTiles r, (s'.tile t).launch = none) ∧
    ((x.state ≠ 0x01 ∧ x.state ≠ 0x02 ∧ x.state ≠ 0x03) ∨ x.fencedAt = s.clock + 1 →
      exec .contextFence s = .next (s.logEntry p 4 c s.cur.tile (s.arg.d.extractLsb' 0 8).toNat))

/-- R375, R376, R384, R401, R421: in READY a free number with a rectangle of strips that meets no other partition becomes an
empty partition; a reset drops its jobs and flits and leaves its contexts READY with incomplete save areas; a function's
teardown drops its context's jobs, ends the commands of its tiles and drops their flits; a destroyed partition is gone. R400, R402: in a secured session bound
to its function a context's key requests are checked (4 no session, 6 malformed, 3 no such slot, 1 zeroing, 2 another's
slot) and answered; KEY_PUT loads and binds a pair whose halves differ (5 otherwise), KEY_DEL begins to zero the slot,
KEY_QUERY gives the key identifier; a zeroed slot is FREE. Where it shows a choice of the model, not a rule: log 3, log 78,
log 79, log 81, log 107. -/
def Obligations.PartitionsAndKeys : Prop :=
  (
    ∀ s : State,
      let p := s.arg.n
      let has (s : State) (q : Nat) : Bool := s.parts.has q
      (∀ sc0 sr0 sc1 sr1, s.arg.l = [sc0, sr0, sc1, sr1] →
        let ok : Prop := p < 64 ∧ has s p = false ∧ sc0 ≤ sc1 ∧ sc1 < 32 ∧ sr0 ≤ sr1 ∧ sr1 < 2 ∧ s.md.state = 2 ∧
          ∀ q ∈ s.parts, q.2.sc1 < sc0 ∨ sc1 < q.2.sc0 ∨ q.2.sr1 < sr0 ∨ sr1 < q.2.sr0
        ∃ s', exec .partitionCreation s = .next s' ∧ (¬ok → s'.parts = s.parts) ∧
          (ok → ∃ k, s'.part p = { sc0 := sc0, sr0 := sr0, sc1 := sc1, sr1 := sr1, ownKey := k } ∧
            ∀ q, q ≠ p → s'.part q = s.part q)) ∧
      (has s p = false → exec .partitionReset s = .next s ∧ exec .partitionDestruction s = .next s) ∧
      (has s p = true → ∃ s', exec .partitionReset s = .next s' ∧ (s'.part p).jobs = [] ∧ (s'.part p).ready = [] ∧
        (∀ h ∈ s'.hops, h.flit.part ≠ p) ∧ (∀ c, (s.part p).ctxs.has c = true → (s.ctx p c).state ≠ 0x00 →
          (s'.ctx p c).state = 0x01 ∧ (s'.ctx p c).complete = false ∧ (s'.ctx p c).saved = [] ∧ (s'.ctx p c).jobCell = {}) ∧
        (s'.part p).sc0 = (s.part p).sc0 ∧ (s'.part p).lprod = (s.part p).lprod) ∧
      (has s p = true → s.parts.Rising → s.tiles.Rising → ∃ s', exec .partitionDestruction s = .next s' ∧ has s' p = false ∧
        ∀ q, q ≠ p → has s' q = has s q) ∧
      (∀ q x c y, s.parts = [(q, x)] → x.ctxs = [(c, y)] → y.vf = s.arg.n → y.state ≠ 0x00 → ∃ s', exec .vfTeardown s = .next s' ∧
        (s'.ctx q c).state = 0x04 ∧ (∀ j ∈ (s'.part q).jobs, j.ctx ≠ c) ∧ (∀ j ∈ (s'.part q).ready, j.ctx ≠ c) ∧
        ∀ t ∈ s.ctxTiles ⟨q, c⟩, (s'.tile t).launch = (s.tile t).launch.map (fun l => { l with cancelled := true }) ∧
          (s'.tile t).ev.cmds = [] ∧ (∀ k < 64, ((s'.tile t).copy.chan k).ct = ((s.tile t).copy.chan k).last ∧
            (((s.tile t).copy.chan k).last ≠ ((s.tile t).copy.chan k).ct → ((s'.tile t).copy.chan k).run = none)) ∧
          (∀ k : Fin 8, (s'.core t k).copyq = [] ∧ (s'.core t k).mxq = []) ∧
          ∀ i ∈ (s'.tile t).copy.inj, ¬(i.flit.part = q ∧ i.flit.slot = c % 16)) ∧
      ((∀ q ∈ s.parts, ∀ c ∈ q.2.ctxs, c.2.vf ≠ s.arg.n ∨ c.2.state = 0x00) → exec .vfTeardown s = .next s)) ∧
  (
    ∀ (s : State) (q c : Nat),
      let a := s.arg
      let slot (s : State) : KeySlot := s.keys.getD a.m {}
      let answers (s' : State) (op res : Nat) (kid : W32) : Prop := s'.md.responses = s.md.responses ++
        [(a.n, [BitVec.ofNat 8 (op + 0x80), BitVec.ofNat 8 res, 0, 0] ++ natToBytes 4 kid.toNat)]
      let ops : List (Instr × Nat) := [(.keyPut, 1), (.keyDel, 2), (.keyQuery, 3)]
      (∀ row ∈ ops,
        let op := a.l.headD row.2
        let refused (res : Nat) : Prop := ∃ s', exec row.1 s = .next s' ∧ answers s' op res 0 ∧ s'.keys = s.keys ∧ s'.parts = s.parts
        (s.md.sessions.has a.n = false → refused 4) ∧
        (s.md.sessions.has a.n = true → s.ofVf a.n = some (q, c) →
          (a.ok = false ∨ a.l ≠ [] → refused 6) ∧ (a.ok = true → a.l = [] →
            (63 < a.m → refused 3) ∧ (a.m ≤ 63 → (slot s).st = 2 → refused 1) ∧
            (a.m ≤ 63 → (slot s).st = 1 → ((slot s).part, (slot s).ctx) ≠ (q, c) → refused 2)))) ∧
      (s.md.sessions.has a.n = true → s.ofVf a.n = some (q, c) → a.ok = true → a.l = [] → a.m ≤ 63 → (slot s).st ≠ 2 →
        ((slot s).st = 1 → ((slot s).part, (slot s).ctx) = (q, c)) →
        (a.d.setWidth 256 ≠ a.e.setWidth 256 → ∃ s', exec .keyPut s = .next s' ∧ answers s' 1 0 0 ∧
          slot s' = { st := 1, dkey := a.d.setWidth 256, tkey := a.e.setWidth 256, part := q, ctx := c, kid := a.w.setWidth 32
                      was := (slot s').was, putAt := s.clock + 1 } ∧ (s'.ctx q c).keySlot = a.m ∧
          (s'.ctx q c).kv = true) ∧
        (a.d.setWidth 256 = a.e.setWidth 256 → ∃ s', exec .keyPut s = .next s' ∧ answers s' 1 5 0 ∧ s'.keys = s.keys) ∧
        ((slot s).st = 1 → ∃ s', exec .keyDel s = .next s' ∧ answers s' 2 0 0 ∧ (slot s').st = 2 ∧
          ((s.ctx q c).keySlot = a.m → (s'.ctx q c).kv = false) ∧ ∃ lat, 0 < lat ∧
            (⟨.ref, s.clock + lat, false, default, { n := a.m }, .keyZeroingDone⟩ ∈ s'.agenda)) ∧
        (∃ s', exec .keyQuery s = .next s' ∧ answers s' 3 0 (slot s).kid ∧ s'.keys = s.keys ∧ s'.parts = s.parts)) ∧
      ((s.keys.getD a.n {}).st = 2 → s.keys.Rising → ∃ s', exec .keyZeroingDone s = .next s' ∧ s'.keys.getD a.n {} = {} ∧
        ∀ k, k ≠ a.n → s'.keys.get? k = s.keys.get? k) ∧
      (a.ok = true → ∃ s', exec .securedSession s = .next s' ∧ s'.md.sessions.has a.n = true ∧ s'.parts = s.parts) ∧
      (a.ok = false → exec .securedSession s = .next s))

/-! ## Engines, caches and faults (spec/07 to spec/10, spec/19) -/

/-- R204, R219, R223, R226, R231 to R233, R241, R248, R254: an event from outside enters the queue at its place in delivery
order and a fan-out event is answered, refused where the launch does not export event delivery; a sample that does not come
is not waited for; a service goes to the core in turn, or to the next; a row that is due is written, column by column, as
its K group says; a loaded plane, a command and a binding complete, their identifiers count and failures are noted, an
uncorrectable error calls for the fence of the context; a host atomic writes the host's word and brings back the old one.
Where it shows a choice of the model, not a rule: log 18. -/
def Obligations.EngineSteps : Prop :=
  ∀ s : State,
    let tile := s.cur.tile
    let c := s.cur.core
    let a := s.arg
    let t := s.tile tile
    let ev (s : State) : EvEngine := (s.tile tile).ev
    let mx (s : State) : Matrix := (s.tile tile).mx
    let now := s.now tile
    let due (s' : State) (lat : Nat) (who : ThreadRef) (arg : Args) (i : Instr) : Prop :=
      (⟨.deck (deckOf tile), now + lat, false, who, arg, i⟩ : Agenda) ∈ s'.agenda
    let fenced (s' : State) (who : Nat) : Prop := ∃ e ∈ s'.agenda, e.clk = .ref ∧ e.due = s.clock ∧ e.i = .contextFence ∧
      e.arg.n = (s.launch tile).part ∧ e.arg.m = (s.launch tile).ctx ∧ e.arg.d.toNat % 2 ^ 16 = 1 + 2 ^ 8 * who
    (∀ n, (ev s).queue.length = n →
      (a.ok = true → n < 4096 → ∃ s', exec .eventIntake s = .next s' ∧ (ev s').queue = insertEvent ⟨a.w, a.n, a.m⟩ (ev s).queue) ∧
      (a.ok = true → 4096 ≤ n → (ev s).decl = none → ∃ s', exec .eventIntake s = .next s' ∧ (ev s').queue = (ev s).queue ∧
        (ev s').undecl = (ev s).undecl + 1) ∧
      (a.ok = false → n < 4096 → ∃ s' x, exec .eventIntake s = .next s' ∧ x ∈ (s'.tile tile).copy.inj ∧ x.flit.dst = a.n ∧
        x.flit.ref = a.d.toNat ∧ x.flit.msg = .ack (if (s.launch tile).exports 10 then 0 else 2) ∧
        (ev s').queue = if (s.launch tile).exports 10 then insertEvent ⟨a.w, a.n, a.m⟩ (ev s).queue else (ev s).queue)) ∧
    (∀ ix at_, (s.copyUnit tile).samples.get? a.n = some (.source ix at_) →
      (at_ ≠ a.m → exec .timeCellSampleTimeout s = .next s) ∧
      (∀ left top d, at_ = a.m → (ev s).run = some (.sampling left top) → (ev s).decl = some d → ix ∈ left → ∃ s',
        exec .timeCellSampleTimeout s = .next s' ∧ (ev s').tau = (ev s).tau ∧
        (ev s').run = some (.sampling (left.filter (· != ix)) top) ∧ (s'.copyUnit tile).samples.get? a.n = some .gone)) ∧
    (∀ (d : Fin 8) q rest i, t.mx.busy ≤ now → t.cores[d].mxq = q :: rest → decodeTWord q.word = .ok i → t.mxCan now d = true →
      let served (n : Nat) : Prop := ∃ s', exec .matrixService s = .next s' ∧ due s' 0 ⟨tile, d, q.thr⟩ {} i ∧ (mx s').turn = d ∧
        (mx s').used = n ∧ (mx s').acc = (mx s).acc
      (d = t.mx.turn → t.mx.used < t.mxTurns d → served (t.mx.used + 1)) ∧
      (d = t.mx.turn + 1 → (t.mxCan now t.mx.turn = true → t.mxTurns t.mx.turn ≤ t.mx.used) → served 1)) ∧
    (now < t.mx.busy → exec .matrixService s = .next s) ∧
    (∀ r rest, (mx s).rows = r :: rest → r.due ≤ now → (mx s).acc.wf = true →
      let k (j : Nat) : KRes := kgroup (r.a.map entryVal) (column (if r.plane then (mx s).plane1 else (mx s).plane0) j)
      let word (s : State) (o n : Nat) : Nat := (mx s).acc.readNat o n
      ∃ s', exec .matrixRowWrite s = .next s' ∧ (mx s').rows = rest ∧
        (r.wm = false → r.dst < 256 → ∀ x < 256, ∀ j < 32, word s' (128 * x + 4 * j) 4 =
          if x = r.dst then (convF f32F .rne (k j).val).1 % 2 ^ 32 else word s (128 * x + 4 * j) 4) ∧
        (r.wm = true → r.dst < 64 → ∀ x < 64, ∀ j < 32, BitVec.ofNat 128 (word s' (512 * x + 16 * j) 16) =
          if x = r.dst then BitVec.ofInt 128 (w128Add (BitVec.ofNat 128 (word s (512 * x + 16 * j) 16)).toInt (k j).val r.ex).1
          else BitVec.ofNat 128 (word s (512 * x + 16 * j) 16)) ∧
        ∀ st, (∀ y ∈ rest, y.core = r.core → y.job ≠ r.job) → (mx s).open_ = [(r.core, r.job, st)] →
          due s' 0 ⟨tile, r.core, 0⟩ { n := r.job, m := st.toNat } .matrixJobCompletion) ∧
    (∀ x, (mx s).load = some x → ∃ s', exec .weightLoadDone s = .next s' ∧ (mx s').load = none ∧
      due s' 0 ⟨tile, x.core, 0⟩ { n := x.job } .matrixJobCompletion) ∧
    (a.ok = true → (s.core tile c).mxLate = [] → a.n < 2 ^ 16 → ∃ s', exec .matrixJobCompletion s = .next s' ∧
      (s'.core tile c).mxFail = (s.core tile c).mxFail.note (BitVec.ofNat 8 a.m) a.n ∧ (s'.tile tile).watchdog = 0 ∧
      (BitVec.ofNat 16 a.n = (s.core tile c).mxDone + 1 → (s'.core tile c).mxDone = (s.core tile c).mxDone + 1) ∧
      (BitVec.ofNat 16 a.n ≠ (s.core tile c).mxDone + 1 → (s'.core tile c).mxDone = (s.core tile c).mxDone ∧
        (s'.core tile c).mxLate = [a.n]) ∧ (a.m % 256 = 9 → fenced s' (128 + c.val))) ∧
    (∀ q rest, (ev s).cmds = q :: rest →
      (q.id ≠ a.n → exec .eventJobCompletion s = .next s) ∧
      (q.id = a.n → ∃ s', exec .eventJobCompletion s = .next s' ∧ (ev s').cmds = rest ∧ (ev s').run = none ∧
        (s'.core tile q.core).evDone = BitVec.ofNat 16 q.id ∧
        (s'.core tile q.core).evFail = (s.core tile q.core).evFail.note (BitVec.ofNat 8 a.m) q.id ∧ (s'.tile tile).watchdog = 0 ∧
        (a.m % 256 = 9 → fenced s' (192 + q.core.val)))) ∧
    (∀ r, a.ok = true → s.runOf tile a.n = some r → a.n < 64 → ∃ s', exec .copyCompletion s = .next s' ∧
      ((s'.copyUnit tile).chan a.n).ct = BitVec.ofNat 32 r.q.id ∧ ((s'.copyUnit tile).chan a.n).run = none ∧
      ((s'.copyUnit tile).chan a.n).fail = ((s.copyUnit tile).chan a.n).fail.note (BitVec.ofNat 8 a.m) r.q.id ∧
      (s'.tile tile).watchdog = 0 ∧ (a.m % 256 = 9 → fenced s' (64 + a.n))) ∧
    (∀ b, a.ok = false → t.drains = [b] → b.chan.val = a.n → b.xid = a.w.setWidth 32 → a.m % 256 ≠ 0 →
      ∃ s', exec .copyCompletion s = .next s' ∧ (s'.tile tile).drains = [] ∧ ((s'.copyUnit tile).chan a.n).ct = b.xid ∧
        ((s'.copyUnit tile).chan a.n).fail = ((s.copyUnit tile).chan a.n).fail.note (BitVec.ofNat 8 a.m) b.xid.toNat) ∧
    (∀ r g pa x cmp, s.runOf tile a.n = some r → r.host = some (g, pa, x, cmp) → BitVec.ofNat 64 g = a.w →
      let w := r.q.word
      let size := if (cmdFlags w).getLsbD 2 then 8 else 4
      let ends (s' : State) (st : Nat) : Prop := due s' 0 ⟨tile, 0, 0⟩ { n := a.n, m := st } .copyCompletion
      let unknown (s' : State) : Prop := ends s' 0x14 ∧ ((s'.host = s.host ∧ s'.hostFog = s.hostFog) ∨
        (s'.host = (s.hostAtomic w pa x cmp).1.host ∧ s'.hostFog = (s.hostAtomic w pa x cmp).1.hostFog))
      (a.m = 1 → ∃ s', exec .hostAtomicCompletion s = .next s' ∧ ends s' 0x0A ∧ s'.host = s.host ∧ s'.hostFog = s.hostFog) ∧
      (1 < a.m → ∃ s', exec .hostAtomicCompletion s = .next s' ∧ unknown s') ∧
      (∃ s', exec .hostCompletionTimeout s = .next s' ∧ unknown s') ∧
      (∀ s2, a.m = 0 → s.host.wf = true → isGlobal (w.extractLsb' 128 64) = false →
        ((s.hostAtomic w pa x cmp).1.modRun tile a.n fun r => { r with host := none }).unitWrite tile (w.extractLsb' 128 64)
          (natToBytes 8 (s.hostRead pa size)) kind0or14 (some (cmdSrc tile 1 a.n r.q.id)) = (s2, none) →
        ∃ s', exec .hostAtomicCompletion s = .next s' ∧ ends s' 0 ∧ (∀ x d, s'.core x d = s2.core x d) ∧
          s'.hostRead pa size = hatomNew ((cmdFlags w).toNat % 4) size (s.hostRead pa size) x cmp % 2 ^ (8 * size) ∧
          ∀ x, x < pa ∨ pa + size ≤ x → s'.hostByte x = s.hostByte x)) ∧
    (s.hatomRun tile a.n a.w = none → exec .hostAtomicCompletion s = .next s ∧ exec .hostCompletionTimeout s = .next s)

/-- R270, R274, R294, R312, R314, R391, R399, R401, R418: a finished walk lets the misses of its deck that wait for it ask
the home slice for their lines, or fails their loads with PAGE; a fill answers the read that waits for it with the line that
HBM holds, by the key and into a way of the mask that its start found, or calls for a fence; a load of host memory takes the host's bytes, or UE; an evicted line leaves its cache, its
stored words in its home slice; an evicted slice line leaves the slice, in HBM if it was dirty; a store whose turn has come
leaves the side buffer and performs. Where it shows a choice of the model, not a rule: log 6, log 11, log 25, log 67. -/
def Obligations.CacheSteps : Prop :=
  ∀ s : State,
    let tile := s.cur.tile
    let c := s.cur.core
    let a := s.arg
    let l := s.launch tile
    let line (s : State) (x : Nat) : Option Line := (s.core tile c).lineGet? x
    let slice (s : State) (x : Nat) : Option SLine := (s.tile tile).sliceGet? x
    let page (x : Word) : Nat := x.toNat % 2 ^ 56 / 2 ^ 16
    let idle (t : Nat) : Prop := ∀ m ∈ (s.tile t).misses, m.walking = false ∨ page m.va ≠ page a.w
    (∀ t m ix d, s.tiles.Rising → deckOf t = deckOf tile → (∀ u, u ≠ t → deckOf u = deckOf tile → idle u) → (s.launch t).part = a.n →
      (s.ctx a.n (s.launch t).ctx).asid = (s.ctx a.n a.m).asid → (s.tile t).misses = [m] → m.walking = true →
      m.what = .line ix d false → page m.va = page a.w →
      (∀ s1 pa, s.translate t m.va false false = (s1, .ok pa) → ∃ s' y, exec .translationWalk s = .next s' ∧
        (s'.tile t).misses = [y] ∧ y.tag = m.tag ∧ y.walking = false ∧ y.pl = pa / 64 ∧
        let home := (s.part a.n).homeTile (lineIx m.va)
        (home ≠ t → ∃ x ∈ (s'.tile t).copy.inj, x.flit.dst = home ∧ x.flit.ref = m.tag ∧ x.flit.msg = .lineReq (pa / 64)) ∧
        (home = t → (∃ e ∈ s'.agenda, e.i = .readReply ∧ e.arg.n = m.tag) ∨ ∃ e ∈ s'.agenda, e.i = .hbmFill ∧ e.arg.n = pa / 64)) ∧
      (∀ s1 f, s.translate t m.va false false = (s1, .fault f) → ∃ s', exec .translationWalk s = .next s' ∧
        (s'.tile t).misses = [] ∧ ∀ x ∈ s.accsOn t ix, ∀ g, x.r.tile = t → x.act = .load g →
          (∀ y ∈ (s'.tile t).accs, ¬(y.r = x.r ∧ y.op = x.op)) ∧
          ∀ o ∈ (s'.thread x.r).outst, o.id = x.op → ∃ v, o.cond = .faulted .page v)) ∧
    (s.tiles.Rising → (∀ u, deckOf u = deckOf tile → idle u) → s.decks[deckOf tile].walks = [] → (s.ctx a.n a.m).root.getLsbD 0 = false →
      exec .translationWalk s = .next s) ∧
    (∀ q, (s.tile tile).sreqs = [q] → q.pl = a.n →
      (a.ok = true → slice s q.pl = none → ∃ s', exec .hbmFill s = .next s' ∧ (s'.tile tile).sreqs = [] ∧
        let d := s.hbmReadBy q.part q.rule.key q.pl
        (q.rule.mask = 0 → slice s' q.pl = none) ∧
        (q.rule.mask ≠ 0 → ∃ y, slice s' q.pl = some y ∧ y.data = d ∧ y.ctx = q.ctx ∧ y.dirty = false ∧ q.rule.mask.getLsbD y.way = true) ∧
        (q.tile = tile → (⟨.deck (deckOf tile), s.now tile + 48, false, ⟨q.tile, 0, 0⟩, { n := q.tag, d := d }, .readReply⟩ ∈ s'.agenda)) ∧
        (q.tile ≠ tile → ∃ x ∈ (s'.tile tile).copy.inj, x.flit.dst = q.tile ∧ x.flit.ref = q.tag ∧ x.flit.msg = .rdata 0 d)) ∧
      (a.ok = false → ∃ s' e, exec .hbmFill s = .next s' ∧ (s'.tile tile).sreqs = [] ∧ e ∈ s'.agenda ∧ e.i = .contextFence ∧
        e.arg.n = q.part ∧ e.arg.m = q.ctx ∧ e.arg.d.toNat % 256 = 4)) ∧
    (∀ o va pa f, (s.thread s.cur).op? a.n = some o → o.cond = .host va pa f → ∃ s', exec .hostReadCompletion s = .next s' ∧
      (⟨.deck (deckOf tile), s.now tile, false, s.cur, { n := a.n }, .resultArrival⟩ ∈ s'.agenda) ∧ s'.host = s.host ∧ s'.hostFog = s.hostFog ∧
      ∀ y ∈ (s'.thread s.cur).outst, y.id = a.n →
        y.cond = if a.ok then .ready (f.writes (s.hostRead pa f.size)) else .faulted .ue va) ∧
    (line s a.n = none → exec .lineEviction s = .next s) ∧
    (∀ x, (s.core tile c).lines.Rising → line s a.n = some x → ∃ s', exec .lineEviction s = .next s' ∧ line s' a.n = none ∧
      (∀ y, y ≠ a.n → line s' y = line s y) ∧ (s'.core tile c).lm = (s.core tile c).lm ∧
      (x.dirty = true → ∀ g, slice s x.pl = some g → g.ctx = l.ctx → (s.part l.part).homeTile x.tag = tile →
        ∃ h, slice s' x.pl = some h ∧ h.dirty = !(s.wayMask l.part l.ctx == 0) ∧ h.data = mergeWords g.data x.data x.words)) ∧
    (slice s a.n = none → exec .sliceEviction s = .next s) ∧
    (∀ x, (s.tile tile).slice.Rising → slice s a.n = some x → x.pl = a.n → ∃ s', exec .sliceEviction s = .next s' ∧
      slice s' a.n = none ∧ (∀ y, y ≠ a.n → slice s' y = slice s y) ∧
      (x.dirty = true → (s.part a.m).hbm.wf = true → (∀ f ∈ (s.part a.m).fog, f.2.2.1 ≤ (s.part a.m).fences) → s'.hbmRead a.m x.ctx a.n = x.data) ∧
      (x.dirty = false → s'.parts = s.parts)) ∧
    (∀ h v mask core off, (s.tile tile).accs = [h] → h.r.tile = tile → h.since ≠ none → h.act = .store v mask →
      h.place = .lm core off → (s.core tile core).lm.wf = true → (∀ i < h.n, (s.core tile core).lmUE.has ((off + i) / 4) = false) →
      ((s.tile tile).mayLeave (s.now tile) h = true → ∃ s', exec .replayStoreRelease s = .next s' ∧ (s'.tile tile).accs = [] ∧
        ∀ i < h.n, (∀ w ∈ wordsOf off h.n, ¬(s.core tile core).wokenByte l w (off + i)) →
          (s'.core tile core).lm.readByte (off + i) = BitVec.ofNat 8 (maskIn (s.lmRead tile core off h.n) v mask / 256 ^ i)) ∧
      ((s.tile tile).mayLeave (s.now tile) h = false → exec .replayStoreRelease s = .next s))

/-- R225, R241, R388, R391, R392, R394, R399: the oldest record that waits is written at its place in the fault queue while
there is room, and vector 0 is signalled; one that finds no room goes on waiting. A settled fault leaves the context and its command
is tried again or ends with PAGE; one of a SAVED context is marked where the tile's block holds it, counted, and listed in the header
of its save area while fewer than 256 are; a settle without a pending fault is ignored. An invalidation drops the matching translations of
every tile of the partition and the matching entries of the walkers' caches, and is counted once the accesses
under way have performed; fills of the tick in which a way mask is written follow the mask before. A write by a function without a
context does nothing. Where it shows a choice of the model, not a rule: log 47, log 53, log 107, log 108. -/
def Obligations.FaultSteps : Prop :=
  (
    ∀ s : State,
      let p := s.arg.n
      let c := s.arg.m
      let x := s.ctx p c
      (∀ f rest, x.records = f :: rest →
        (x.fqn ≤ (x.fqprod - x.fqcons).toNat → exec .faultRecordWrite s = .next s) ∧
        ((x.fqprod - x.fqcons).toNat < x.fqn → ∃ s', exec .faultRecordWrite s = .next s' ∧ s'.irqs = s.irqs ++ [(x.vf, 0)] ∧
          (s'.ctx p c).fqprod = x.fqprod + 1 ∧ (s'.ctx p c).records = rest ∧ (s'.ctx p c).faults = x.faults ∧
          (rest ≠ [] → (⟨.ref, s.clock, false, s.cur, s.arg, .faultRecordWrite⟩ ∈ s'.agenda)) ∧
          let s1 := s.physWrite p c (x.fq + 32 * (x.fqprod.toNat % x.fqn)) f.bytes
          s'.tiles = s1.tiles ∧ (s'.part p).hbm = (s1.part p).hbm)) ∧
      (x.records = [] → exec .faultRecordWrite s = .next s) ∧
      ((∀ y ∈ s.arg.l, y ∉ s.underWay p) → ∃ s', exec .tbinvDone s = .next s' ∧ (s'.ctx p c).tbdone = x.tbdone + 1 ∧ s'.tiles = s.tiles) ∧
      (∀ y ∈ s.arg.l, y ∈ s.underWay p → ∃ s', exec .tbinvDone s = .next s' ∧ (s'.ctx p c).tbdone = x.tbdone ∧
        (⟨.ref, s.clock + 1, false, s.cur, s.arg, .tbinvDone⟩ ∈ s'.agenda))) ∧
  (
    ∀ s : State, s.ofVf s.arg.n = none → ∀ i ∈ ([.fqconsWrite, .tbinv, .wmaskWrite, .faultResume, .faultAbort] : List Instr),
      exec i s = .next s) ∧
  (
    ∀ (s : State) (p c : Nat), s.ofVf s.arg.n = some (p, c) →
      let x := s.ctx p c
      let w := s.arg.w
      let seq := w.toNat / 256
      (∀ f, x.state = 0x03 → x.faults.find? (fun f => f.seq == seq) = some f → ∃ s1 s2,
        exec .faultResume s = .next s1 ∧ exec .faultAbort s = .next s2 ∧
        (s1.ctx p c).settles = x.settles ++ [(seq, false)] ∧ (s2.ctx p c).settles = x.settles ++ [(seq, true)] ∧
        (s1.ctx p c).faults = x.faults ∧ (s2.ctx p c).faults = x.faults ∧
        (∀ y ∈ (s1.ctx p c).saved, y.1 = f.tile → y.2.1.faultAborts f = false) ∧
        (∀ y z left, x.saved = [(f.tile, y, left)] → (s2.ctx p c).saved = [z] → f.who / 64 = 0 →
          (y.copy.chan (f.who % 64)).fpend ≠ none → z.2.1.faultAborts f = true) ∧
        let n := x.settles.length
        let marked (act : Byte) : State := match x.saved.zipIdx.find? fun t => t.1.1 == f.tile with
          | some (_, i) => s.physWrite p c (x.save + 0x1000 + 0x30_0000 * i + f.markOff) [act]
          | none => s
        let counted (act : Byte) : State := (marked act).physWrite p c (x.save + 24) (natToBytes 8 (n + 1))
        let listed (act : Byte) : State :=
          (counted act).physWrite p c (x.save + 0x800 + 8 * n) (natToBytes 8 (256 * seq + act.toNat))
        (n < 256 → s1.tiles = (listed 1).tiles ∧ (s1.part p).hbm = ((listed 1).part p).hbm ∧
          s2.tiles = (listed 2).tiles ∧ (s2.part p).hbm = ((listed 2).part p).hbm) ∧
        (256 ≤ n → s1.tiles = (counted 1).tiles ∧ s2.tiles = (counted 2).tiles)) ∧
      (x.faults.find? (fun f => f.seq == seq) = none → exec .faultResume s = .next s ∧ exec .faultAbort s = .next s) ∧
      (∀ f, x.state ≠ 0x03 → x.faults.find? (fun f => f.seq == seq) = some f → ∃ s1 s2,
        exec .faultResume s = .next s1 ∧ exec .faultAbort s = .next s2 ∧
        (∀ g ∈ (s1.ctx p c).faults, g.seq ≠ seq) ∧ (∀ g ∈ (s2.ctx p c).faults, g.seq ≠ seq) ∧
        let k := f.who % 64
        let core : Fin 8 := ⟨k % 8, Nat.mod_lt _ (by decide)⟩
        let due (s' : State) (who : ThreadRef) (arg : Args) (i : Instr) : Prop :=
          (⟨.deck (deckOf f.tile), s.now f.tile, false, who, arg, i⟩ : Agenda) ∈ s'.agenda
        (f.who / 64 = 0 → ((s1.copyUnit f.tile).chan k).fpend = none ∧ ((s2.copyUnit f.tile).chan k).fpend = none ∧
          due s2 ⟨f.tile, 0, 0⟩ { n := k, m := 0x0B } .copyCompletion ∧
          ∀ r i, (s.tile f.tile).frozen = false → s.runOf f.tile k = some r → decodeTWord r.q.word = .ok i →
            due s1 ⟨f.tile, r.q.core, r.q.thr⟩ { n := k } i) ∧
        (f.who / 64 = 1 → (s1.tile f.tile).mx.fpend[core] = none ∧ (s2.tile f.tile).mx.fpend[core] = none ∧
          due s2 ⟨f.tile, core, 0⟩ { n := f.id, m := 0x0B, ok := false } .matrixJobCompletion) ∧
        (1 < f.who / 64 → (s1.tile f.tile).ev.fpend = none ∧ (s2.tile f.tile).ev.fpend = none ∧
          due s2 ⟨f.tile, 0, 0⟩ { n := f.id, m := 0x0B } .eventJobCompletion)) ∧
      (∃ s', exec .fqconsWrite s = .next s' ∧ (s'.ctx p c).fqcons = w ∧ s'.tiles = s.tiles ∧
        (⟨.ref, s.clock, false, default, { n := p, m := c }, .faultRecordWrite⟩ ∈ s'.agenda)) ∧
      (w.getLsbD 0 = false → exec .tbinv s = .next s) ∧
      (w.getLsbD 0 = true → ∃ s' lat, exec .tbinv s = .next s' ∧ 0 < lat ∧
        (⟨.ref, s.clock + lat, false, default, { n := p, m := c, l := s.underWay p }, .tbinvDone⟩ ∈ s'.agenda) ∧
        let size := (w.extractLsb' 1 2).toNat
        let under (lvl : Nat) : Nat := w.toNat % 2 ^ 56 / 2 ^ 16 * 2 ^ 16 / 2 ^ lvlShift lvl
        let hit (e : TLBEnt) : Bool := e.asid == x.asid && (size == 3 || (e.lvl == 4 - size && under e.lvl == e.vpn))
        let above (e : NonLeaf) : Bool := e.part == p && e.asid == x.asid && (size == 3 || under e.lvl == e.vpn)
        (∀ t, (s'.tile t).tlb = if (s.part p).hasTile t then (s.tile t).tlb.filter fun e => !hit e else (s.tile t).tlb) ∧
        ∀ d : Fin 8, s'.decks[d].nonleaf = s.decks[d].nonleaf.filter fun e => !above e) ∧
      (∃ s', exec .wmaskWrite s = .next s' ∧ (s'.ctx p c).wmask = w.setWidth 16 ∧ s'.wayMask p c = s.wayMask p c ∧ s'.tiles = s.tiles))

/-! ## The module (spec/21) -/

/-- R400, R424 to R426, R428, R429, R432, R434: a start records the one before it when that lost its power, and begins stage 1;
each stage that passes extends its measurement and begins the next under its limit, and after the seventh the module is
READY. Stages 1 and 2 measure the firmware and the image, stage 3 unseals an image made under this module's PUF key, stage 4 measures
the repair map in force and whether a replacement was asked for. A stage that fails, or runs out of its time, a rail fault and an
overtemperature fail the start with their code, and it begins afresh, loaded keys leaving their slots through ZEROING; after three
failures the module is in Cocoon mode, which runs stages 1 to 3 and 6, and goes on past a stage that fails; a power loss leaves
what flash holds. Where it shows a choice of the model, not a rule: log 7, log 54, log 55, log 56, log 57, log 106. -/
def Obligations.ModuleStarts : Prop :=
  ∀ s : State,
    let m := s.md
    let a := s.arg
    let ms := 1_750_000
    let limits : List (Nat × Nat) := [(1, 200), (2, 200), (3, 100), (4, 2000), (5, 500), (6, 1000), (7, 10)]
    let codes : List (Nat × Nat) := [(1, 0x01), (2, 0x02), (2, 0x04), (3, 0x03), (4, 0x05), (4, 0x0A), (5, 0x06), (6, 0x07)]
    let first : List (Nat × Nat) := [(1, 0x01), (2, 0x02), (3, 0x03), (4, 0x05), (5, 0x06), (6, 0x07)]
    let extended (x d : BitVec 384) : BitVec 384 := sha384 (digestBytes x ++ digestBytes d)
    let counted (s' : State) (code : Nat) : Prop := s'.md.fails = min 3 (m.fails + 1) ∧ s'.md.reasons = m.reasons.drop 1 ++ [code] ∧
      s'.md.starts = m.starts ∧ s'.md.image = m.image ∧ s'.clock = s.clock ∧ s'.host = s.host ∧ s'.hostFog = s.hostFog
    let failed (s' : State) (code : Nat) : Prop := counted s' code ∧ s'.tiles = State.reset.tiles ∧
      s'.parts = State.reset.parts ∧ s'.md.state = State.reset.md.state ∧
      (s.keys = [] → (∀ e ∈ s.agenda, e.i ≠ .keyZeroingDone) → s'.keys = [] ∧ s'.agenda = State.reset.agenda) ∧
      ∀ k x, s.keys = [(k, x)] → x.st = 1 → s'.keys = [(k, { x with st := 2 })] ∧
        ∃ e ∈ s'.agenda, e.i = .keyZeroingDone ∧ e.arg.n = k
    let begun (s' : State) (n : Nat) : Prop := s'.md.stage = n ∧ ∀ l, (n, l) ∈ limits →
      (⟨.ref, s.clock + l * ms, false, default, { n := n, m := s'.md.starts }, .startStageTimeout⟩ ∈ s'.agenda)
    let passes : Prop := a.ok = true ∧ (a.n = 3 → m.image.key = m.puf)
    (∃ s', exec .moduleStart s = .next s' ∧ s'.md.starts = m.starts + 1 ∧ s'.parts = [] ∧ begun s' 1 ∧
      (∀ t, (s'.tile t).launch ≠ none ↔ t = 0x2000 ∨ t = 0x2001) ∧
      s'.md.fails = (if m.interrupted then min 3 (m.fails + 1) else m.fails) ∧
      s'.md.reasons = (if m.interrupted then m.reasons.drop 1 ++ [0x07] else m.reasons) ∧
      s'.md.state = (if s'.md.fails = 3 then 3 else 1) ∧ (s'.md.state = 1 → s'.keys = s.keys) ∧
      ∀ k x, s'.md.state = 3 → s.keys = [(k, x)] → x.st = 1 → s'.keys = [(k, { x with st := 2 })]) ∧
    (m.starts = 0 ∨ m.stage ≠ a.n ∨ (m.state ≠ 1 ∧ m.state ≠ 3) ∨ (m.state = 3 ∧ m.meas.has a.n = true) →
      exec .startStage s = .next s) ∧
    (m.starts ≠ 0 → m.stage = a.n → m.state = 1 →
      (¬passes → a.n = 7 → exec .startStage s = .next s) ∧
      (¬passes → (a.n, a.m) ∈ codes → ∃ s', exec .startStage s = .next s' ∧ failed s' a.m) ∧
      (∀ code, ¬passes → (a.n, a.m) ∉ codes → (a.n, code) ∈ first → ∃ s', exec .startStage s = .next s' ∧ failed s' code) ∧
      (passes → 0 < a.n → a.n < 7 → ∃ s', exec .startStage s = .next s' ∧ s'.md.state = 1 ∧ begun s' (a.n + 1) ∧
        (a.n ≠ 4 → s'.md.meas.get? a.n = some (extended (m.meas.getD a.n 0)
          (if a.n = 1 then m.firmware else if a.n = 2 then m.image.digest else a.d.setWidth 384))) ∧
        (a.n = 3 → s'.md.identity = some m.image.seed)) ∧
      (a.ok = true → a.n = 4 → a.l = [] →
        let map : List Byte := (List.range 160).map fun row => match m.image.repair.get? row with
          | some b => if b < 32 then BitVec.ofNat 8 (128 + b) else 0
          | none => 0
        ∃ s', exec .startStage s = .next s' ∧ s'.md.meas.get? 4 = some (extended (extended (m.meas.getD 4 0) (sha384 map))
          (sha384 [if m.repl then 1 else 0])) ∧ s'.md.repl = false ∧ s'.md.unavail = 0) ∧
      (∀ ch < 256, a.ok = true → a.n = 4 → a.l = [2 ^ 14 + ch] → ∃ s', exec .startStage s = .next s' ∧
        s'.md.chfail = (1 : BitVec 256) <<< ch ∧ s'.md.unavail = (1 : BitVec 64) <<< chanStrip ch ∧ s'.md.hbmdeg = true ∧ s'.md.repl = true) ∧
      (∀ row b, a.ok = true → a.n = 5 → m.image.repair = [(row, b)] → m.found = [] → row < 160 → b < 32 → ∃ s',
        exec .startStage s = .next s' ∧ s'.md.rows.get? row = some b ∧ s'.md.unavail = m.unavail) ∧
      (a.ok = true → a.n = 7 → ∃ s', exec .startStage s = .next s' ∧ s'.md.state = 2 ∧ s'.md.fails = 0 ∧
        (⟨.ref, s.clock + 2 ^ 14, false, default, {}, .healthCheck⟩ ∈ s'.agenda) ∧
        (⟨.ref, s.clock + ms, false, default, {}, .healthSample⟩ ∈ s'.agenda))) ∧
    (m.starts ≠ 0 → m.stage = a.n → m.state = 3 → m.meas.has a.n = false → (a.n = 1 ∨ a.n = 2 ∨ a.n = 3 ∨ a.n = 6) →
      let goesOn (s' : State) : Prop := s'.md.state = 3 ∧
        (a.n = 6 → s'.md.stage = 6) ∧ (a.n = 3 → begun s' 6) ∧ (a.n < 3 → begun s' (a.n + 1))
      (passes → ∃ s', exec .startStage s = .next s' ∧ goesOn s' ∧ s'.md.meas.has a.n = true ∧ s'.md.fails = m.fails) ∧
      (¬passes → (a.n, a.m) ∈ codes → ∃ s', exec .startStage s = .next s' ∧ goesOn s' ∧ counted s' a.m ∧ s'.md.meas = m.meas) ∧
      (∀ code, m.starts = a.m → (a.n, code) ∈ first → ∃ s', exec .startStageTimeout s = .next s' ∧ goesOn s' ∧ counted s' code ∧
        s'.md.meas = m.meas)) ∧
    (∀ code, m.state = 1 → m.stage = a.n → m.starts ≠ 0 → m.starts = a.m → (a.n, code) ∈ first ++ [(7, 0x07)] →
      ∃ s', exec .startStageTimeout s = .next s' ∧ failed s' code) ∧
    (m.starts = 0 ∨ m.stage ≠ a.n ∨ m.starts ≠ a.m ∨ (m.state ≠ 1 ∧ m.state ≠ 3) ∨ (m.state = 3 ∧ m.meas.has a.n = true) →
      exec .startStageTimeout s = .next s) ∧
    (∃ s', exec .powerLoss s = .next s' ∧ s'.md.fails = m.fails ∧ s'.md.reasons = m.reasons ∧ s'.md.image = m.image ∧
      s'.md.firmware = m.firmware ∧ s'.md.puf = m.puf ∧ s'.md.starts = m.starts ∧
      (s'.md.interrupted = true ↔ m.state = 1 ∨ (m.state = 3 ∧ m.meas.has 6 = false)) ∧
      s'.host = s.host ∧ s'.hostFog = s.hostFog ∧ s'.tiles = State.reset.tiles ∧ s'.keys = State.reset.keys ∧
      s'.parts = State.reset.parts ∧ s'.agenda = State.reset.agenda ∧ s'.clock = State.reset.clock) ∧
    (m.state = 1 → ∃ s', exec .railFault s = .next s' ∧ failed s' (if a.n = 8 then 0x08 else 0x09)) ∧
    (m.state = 3 → ∃ s', exec .railFault s = .next s' ∧ s'.md.state = 4) ∧
    (m.state ≠ 1 → m.state ≠ 3 → exec .railFault s = .next s) ∧
    (m.state = 1 → ∃ s', exec .thermalShutdown s = .next s' ∧ failed s' 0x08)

/-- R429 to R433, R435: every 2^14 ticks the tiles that answer, and have reported no error since the last check, count one
check; a count that has not advanced in four consecutive samples, and an error in a tile's logic, declare the tile failed, once: the
running contexts of its partition are fenced, and its row's spare is tested, or its strip is lost where the row has no spare left and a
replacement is asked for and measured; a spare that passes takes the row from that column on. A failed channel fences the contexts with
valid tables of the partition that owns its strip, a shut-down those of every partition. A deck is slowed by a step
above 100 °C or above the cap, and runs free below 95 °C. Where it shows a choice of the model, not a rule: log 7, log 58,
log 60, log 61, log 83. -/
def Obligations.TileFailures : Prop :=
  ∀ s : State,
    let m := s.md
    let a := s.arg
    let ms := 1_750_000
    let row (t : Nat) : Nat := 20 * (t / 1024 % 8) + t / 32 % 32
    let strip (t : Nat) : Nat := 32 * (row t / 20 / 4) + 8 * (row t / 20 % 4) + t % 32 / 4
    let bit (n : Nat) : BitVec 64 := (1 : BitVec 64) <<< n
    let fenceable (y : Ctx) : Prop := y.state = 0x01 ∨ y.state = 0x02 ∨ y.state = 0x03
    let fenced (s' : State) (q c : Nat) (y : Ctx) : Prop := (s'.ctx q c).state = 0x01 ∧ (s'.ctx q c).fencedAt = s.clock + 1 ∧
      s'.irqs = s.irqs ++ [(y.vf, 0)]
    let asked (s' : State) : Prop := s'.md.repl = true ∧
      s'.md.meas.get? 8 = some (sha384 (digestBytes (m.meas.getD 8 0) ++ digestBytes (sha384 [1])))
    let lost (s' : State) (t : Nat) : Prop := s'.md.unavail = m.unavail ||| bit (strip t) ∧ s'.md.rowx = true ∧ asked s'
    let declared (s' : State) (t : Nat) : Prop :=
      (t ∈ m.shifts → s'.md.shifts = m.shifts ∧ s'.md.unavail = m.unavail ∧ s'.tiles = s.tiles ∧ s'.parts = s.parts) ∧
      (t ∉ m.shifts →
        (m.rows.has (row t) = false → (∀ u ∈ m.shifts, row u ≠ row t) → s'.md.shifts = m.shifts ++ [t] ∧ s'.md.unavail = m.unavail) ∧
        (m.rows.has (row t) = true ∨ (∃ u ∈ m.shifts, row u = row t) → lost s' t) ∧
        ∀ q x c d y z, s.parts = [(q, x)] → x.hasTile t = true → x.ctxs = [(c, y), (d, z)] → c ≠ d → y.state = 0x02 → z.state = 0x02 →
          (s'.ctx q c).state = 0x01 ∧ (s'.ctx q d).state = 0x01 ∧ s'.irqs = s.irqs ++ [(y.vf, 0), (z.vf, 0)] ∧
          ((s.tile t).launch.map (fun l => (l.part, l.ctx)) = some (q, c) → (s'.tile t).launch = none))
    (a.ok = false → a.n = 1 → ∃ s', exec .healthCheck s = .next s' ∧ s'.md.silent.has s.cur.tile = false ∧ s'.tiles = s.tiles) ∧
    (a.ok = false → a.n ≠ 1 → ∃ s', exec .healthCheck s = .next s' ∧ s'.md.silent.has s.cur.tile = true ∧ s'.tiles = s.tiles) ∧
    (a.ok = true → m.silent.Rising → m.erred.Nodup → ∃ s', exec .healthCheck s = .next s' ∧ s'.md.checks = m.checks + 1 ∧
      s'.md.erred = [] ∧
      (∀ t, (s'.tile t).missed = (s.tile t).missed + if m.silent.has t || m.erred.contains t then 1 else 0) ∧
      (⟨.ref, s.clock + 2 ^ 14, false, default, {}, .healthCheck⟩ ∈ s'.agenda)) ∧
    (∀ t n k, m.silent = [(t, n, k)] →
      let count := m.checks - (s.tile t).missed
      ∃ s', exec .healthSample s = .next s' ∧
        (⟨.ref, s'.clock + ms, false, default, {}, .healthSample⟩ ∈ s'.agenda) ∧ s'.clock = s.clock ∧
        s'.md.silent = [(t, if count = n then (n, k + 1) else (count, 0))] ∧
        (count ≠ n ∨ k ≠ 3 → s'.tiles = s.tiles) ∧ (count = n → k = 3 → declared s' t)) ∧
    (∃ s', exec .logicErrorReport s = .next s' ∧ declared s' s.cur.tile ∧ s.cur.tile ∈ s'.md.erred) ∧
    (s.cur.tile ∉ m.shifts → exec .rowShift s = .next s) ∧
    (s.cur.tile ∈ m.shifts → ∃ s', exec .rowShift s = .next s' ∧ s'.md.shifts = m.shifts.erase s.cur.tile ∧
      (a.ok = false → lost s' s.cur.tile) ∧
      (a.ok = true → s'.md.rows.get? (row s.cur.tile) = some (s.cur.tile % 32) ∧ s'.md.unavail = m.unavail ∧
        ∀ x, s.cur.tile % 32 ≤ x → x < 32 → (s'.tile (s.cur.tile / 32 * 32 + x)).launch = none)) ∧
    (256 ≤ a.n ∨ m.chfail.getLsbD a.n = true → exec .hbmChannelFailure s = .next s) ∧
    (a.n < 256 → m.chfail.getLsbD a.n = false → ∃ s', exec .hbmChannelFailure s = .next s' ∧
      s'.md.chfail = m.chfail ||| (1 : BitVec 256) <<< a.n ∧ s'.md.unavail = m.unavail ||| bit (chanStrip a.n) ∧
      s'.md.hbmdeg = true ∧ asked s' ∧
      ∀ q x c y, s.parts = [(q, x)] → x.ctxs = [(c, y)] → fenceable y → y.root.getLsbD 0 = true → x.sc0 ≤ chanStrip a.n % 32 → chanStrip a.n % 32 ≤ x.sc1 → x.sr0 ≤ chanStrip a.n / 32 → chanStrip a.n / 32 ≤ x.sr1 → fenced s' q c y) ∧
    (m.state = 3 → exec .thermalThrottle s = .next s) ∧
    (∀ d : Fin 8, m.state ≠ 3 → a.n = d.val → ∃ s', exec .thermalThrottle s = .next s' ∧
      (s'.decks[d].thr = if 200 < a.m ∨ m.cap < a.w.toNat then min 15 (s.decks[d].thr + 1) else if a.m < 190 then 0 else s.decks[d].thr) ∧
      (∀ e : Fin 8, e ≠ d → s'.decks[e] = s.decks[e]) ∧
      (230 < a.m → (⟨.ref, s.clock, false, default, {}, .thermalShutdown⟩ ∈ s'.agenda))) ∧
    (m.state ≠ 1 → ∃ s', exec .thermalShutdown s = .next s' ∧ s'.md.state = 4 ∧
      ∀ q x c y, s.parts = [(q, x)] → x.ctxs = [(c, y)] → fenceable y → fenced s' q c y)

/-- R385, R387, R399, R421 to R423, R426 to R428, R435: a management command is refused while another runs (2) and where it
is not offered (0xFF), is not heard in a state that opens no window, and otherwise runs and completes in its time; the
completion shows its result. A restart leaves what flash holds, and loaded keys leave their slots through ZEROING. A write of the
command register is the command of its op; the other registers and memory that software writes take what is written to them, where
they can be written. R418: an uncorrectable
error marks its word of local memory, a correctable one is counted in its partition and in the module, and the clean copy it damaged is
fetched again. Where it shows a
choice of the model, not a rule: log 10, log 11, log 63, log 64, log 65. -/
def Obligations.ManagementCommands : Prop :=
  ∀ s : State,
    let m := s.md
    let a := s.arg
    let result (i : Instr) (n : Nat) : Prop := exec i s = .next (s.modMd fun x => { x with res := n })
    let commands : List (Instr × Bool × Bool) := [(.ringRead, false, false), (.ringWrite, false, false), (.leave, true, true),
      (.restart, false, true), (.imageLoad, true, false), (.powercap, false, false)]
    let runs (s' : State) (bound : Nat) (arg : Args) : Prop := s'.md.busy = true ∧ s'.md.res = 1 ∧ s'.md.cseq = m.cseq ∧ ∃ lat < bound,
      (⟨.ref, s.clock + lat, false, default, arg, .mgmtCommandComplete⟩ ∈ s'.agenda)
    let afresh (s' : State) : Prop := s'.clock = s.clock ∧ s'.host = s.host ∧ s'.hostFog = s.hostFog ∧ s'.tiles = State.reset.tiles ∧ s'.parts = State.reset.parts ∧
      s'.md.starts = m.starts ∧ s'.md.image = m.image ∧ s'.md.firmware = m.firmware ∧ s'.md.state = State.reset.md.state ∧
      (∀ e ∈ s'.agenda, e ∈ State.reset.agenda ∨ e.i = .keyZeroingDone) ∧ (∀ e ∈ State.reset.agenda, e ∈ s'.agenda) ∧
      ∀ k x, s.keys = [(k, x)] → x.st = 1 → s'.keys = [(k, { x with st := 2 })]
    let opens : Prop := m.state = 2 ∨ m.state = 4 ∨ m.meas.has 6 = true
    (∀ x ∈ commands,
      (m.state = 2 → m.busy = true → result x.1 2) ∧
      (m.state = 3 → m.meas.has 6 = false → exec x.1 s = .next s) ∧
      (m.state = 3 → m.meas.has 6 = true → x.2.1 = false → result x.1 0xFF) ∧
      (m.state = 3 → m.meas.has 6 = true → x.2.1 = true → m.busy = true → result x.1 2) ∧
      (m.state = 4 → x.2.2 = false → exec x.1 s = .next s) ∧ (m.state = 0 ∨ m.state = 1 → exec x.1 s = .next s)) ∧
    (m.state = 2 → m.busy = false →
      (tileIdOk s.cur.tile = false ∨ 55 < a.n → result .ringRead 2 ∧ result .ringWrite 2) ∧
      (∀ y, tileIdOk s.cur.tile = true → a.n ≤ 55 → (s.tile s.cur.tile).ports.get? a.n = some y → y.ring.length ≤ 256 →
        m.buffer.wf = true → ∃ s', exec .ringRead s = .next s' ∧ runs s' 112000 {} ∧
        ∀ i (h : i < y.ring.length),
          s'.md.buffer.readBytes (16 * (256 - y.ring.length + i)) 16 = (y.ring[i]'h).bytes) ∧
      (tileIdOk s.cur.tile = true → a.n ≤ 55 → ∃ s' z, exec .ringWrite s = .next s' ∧ runs s' 112000 {} ∧
        (s'.tile s.cur.tile).ports.get? a.n = some z ∧
        z.order = (List.range 256).filterMap fun i => TraceEnt.ofBytes (m.buffer.readBytes (16 * i) 16)) ∧
      (800 ≤ a.n → a.n ≤ 2800 → ∃ s', exec .powercap s = .next s' ∧ runs s' 1 {} ∧ s'.md.cap = a.n) ∧
      (a.n < 800 ∨ 2800 < a.n → result .powercap 2) ∧ ∃ s', exec .restart s = .next s' ∧ afresh s' ∧ s'.md.fails = m.fails) ∧
    (m.busy = false → m.state = 2 ∨ (m.state = 3 ∧ m.meas.has 6 = true) →
      (a.ok = true → ∃ s', exec .imageLoad s = .next s' ∧
        runs s' 1_750_000 { a with n := 0, m := if a.n = 1 then 2 else 1 } ∧ s'.md.image = m.image) ∧
      (a.ok = false → result .imageLoad 2)) ∧
    (m.busy = false ∨ m.state = 4 → m.state = 2 ∨ (m.state = 3 ∧ m.meas.has 6 = true) ∨ m.state = 4 →
      ∃ s', exec .leave s = .next s' ∧ afresh s' ∧ s'.md.fails = 0) ∧
    (m.state = 4 → ∃ s', exec .restart s = .next s' ∧ afresh s' ∧ s'.md.fails = m.fails) ∧
    (∃ s', exec .mgmtCommandComplete s = .next s' ∧ s'.md.busy = false ∧ s'.md.res = a.n ∧ s'.md.cseq = m.cseq + 1 ∧
      (a.m ≠ 2 → s'.md.firmware = m.firmware) ∧ (a.m = 2 → s'.md.firmware = a.d.setWidth 384) ∧
      (a.m ≠ 1 → s'.md.image = m.image) ∧ (a.m = 1 → s'.md.image.digest = a.d.setWidth 384 ∧ s'.md.image.sku = a.w ∧
        s'.md.image.key = a.e.extractLsb' 0 256 ∧ s'.md.image.seed = a.e.extractLsb' 256 256 ∧
        ∀ row col, a.l = [64 * row + col] → col < 64 → s'.md.image.repair.get? row = some col)) ∧
    (∃ s', exec .registerWrite s = .next s' ∧
      (a.n = 0 → ¬opens → s' = s) ∧ (a.n = 0 → m.state = 3 → a.m ≠ 0x1000 → s' = s) ∧
      (a.n = 0 → a.m = 0x1000 → opens →
        let op := a.w.toNat % 256
        let tile := a.w.toNat / 2 ^ 8 % 2 ^ 16
        let port := a.w.toNat / 2 ^ 24 % 64
        (op = 0 ∨ 6 < op → s'.md.res = 0xFF) ∧ (op = 1 → s' = s.ringRead tile port) ∧ (op = 2 → s' = s.ringWrite tile port) ∧
        (op = 3 → s' = s.leave) ∧ (op = 4 → s' = s.restartCmd) ∧ (op = 6 → s' = s.powercap tile) ∧
        (op = 5 → ∃ x, s' = { s with fresh := s.fresh + 2 }.imageLoad x)) ∧
      (a.n = 0 → opens → m.state ≠ 3 →
        (0x2000 ≤ a.m → a.m < 0x3000 → m.buffer.wf = true → s'.md.buffer.readNat (a.m - 0x2000) 8 = a.w.toNat) ∧
        ∀ p < 64, s.parts.has p = true →
          (a.m = 0x4000 + 0x40 * p → (s'.part p).lbase = a.w) ∧ (a.m = 0x4008 + 0x40 * p → (s'.part p).lsize = a.w.toNat % 32) ∧
          (a.m = 0x4018 + 0x40 * p → (s'.part p).lcons = a.w) ∧
          (a.m = 0x4028 + 0x40 * p → (s'.part p).recd = a.w.getLsbD 0 ∧ (s'.part p).replay = a.w.getLsbD 1)) ∧
      (∀ vf p c, a.n = 1 → a.l = [vf] → s.ofVf vf = some (p, c) →
        (a.m = 0x1028 → (s'.ctx p c).wmask = a.w.setWidth 16) ∧ (a.m = 0x1008 → (s'.ctx p c).fqcons = a.w) ∧
        (a.m = 0x1010 → a.w.toNat % 4 = 0 ∨ a.w.toNat % 4 = 3 → s' = s) ∧
        (a.m ∉ [0x1008, 0x1010, 0x1018, 0x1028] → s' = s)) ∧
      (∀ p c, a.n = 2 → a.l = [p, c] → s.parts.has p = true → c < 16 → (s'.ctx p c).root = a.d.extractLsb' 0 64 ∧
        (s'.ctx p c).asid = (a.d.extractLsb' 64 12).toNat ∧ (s'.ctx p c).wmask = a.d.extractLsb' 80 16 ∧
        (s'.ctx p c).save = (a.d.extractLsb' 192 64).toNat ∧ (s'.ctx p c).fq = (a.d.extractLsb' 256 64).toNat ∧
        (s'.ctx p c).quantum = (a.d.extractLsb' 352 32).toNat ∧
        (s'.ctx p c).state = if (s.ctx p c).state = 0x00 ∧ a.d.getLsbD 0 = true then 0x01 else (s.ctx p c).state) ∧
      (∀ p which, a.n = 3 → a.l = [p, which] → s.parts.has p = true →
        (which = 5 → (s'.part p).hangLimit = a.w.toNat) ∧ (which = 6 → (s'.part p).grace = a.w.toNat) ∧
        (which = 0 → (s'.part p).lane = some a.w.toNat) ∧ (which = 1 → (s'.part p).migThr = a.w.toNat % 16)) ∧
      (∀ p c, a.n = 4 → a.l = [p, c] → s.parts.has p = true → a.w.toNat + 64 ≤ (s.part p).physSize → a.m = 64 →
        s' = s.physWrite p c a.w.toNat (lineBytes a.d)) ∧
      (a.n = 5 → a.m ≤ 64 → s.host.wf = true → ∀ i < a.m, s'.hostByte (a.w.toNat + i) = a.d.extractLsb' (8 * i) 8) ∧
      (a.n = 6 → a.m = 0 → s'.hostTimeout = a.w.toNat) ∧ (a.n = 6 → a.m = 1 → s'.gw.me = a.w.toNat) ∧
      (a.n = 7 → tileIdOk s.cur.tile = true → (s'.core s.cur.tile s.cur.core).lmUE.has (a.m % 65536) = true ∧ s'.parts = s.parts) ∧
      (∀ p c, a.n = 8 ∨ a.n = 9 → a.l = [p, c] → s.parts.has p = true → (s'.part p).ce = (s.part p).ce + 1 ∧ s'.md.ce = m.ce + 1 ∧
        (a.n = 9 → (∀ x ∈ (s'.copyUnit s.cur.tile).recs, lineIx x.2.1 ≠ a.m) ∧
          (∀ x ∈ (s'.core s.cur.tile s.cur.core).rolines, x.tag ≠ a.m) ∧
          ∀ x, (s.core s.cur.tile s.cur.core).lineGet? a.m = some x → (s.core s.cur.tile s.cur.core).lines.Rising →
            (s'.core s.cur.tile s.cur.core).lineGet? a.m = if x.dirty then some x else none)) ∧
      (a.n = 10 → s'.hostBad.has (a.w.toNat / 64) = true))

/-! ## Steps, decoding, the invariant and the frame (spec/01, spec/03) -/

/-- R11, R15 to R17, R72, R77: what comes next is executed: an input of the outside world first, then the first due event,
then the thread whose slot it is: with the word at its pc in the code segment decoded to i, the step is exec of i. When nothing of
these is left the units of the machine act, then the events that end a cycle come, and when nothing comes next one reference tick
passes: a tile cycle of each deck whose clock ticks, in which each core serves the thread of its number modulo 16. No meaning ends in a fault or a refusal: every instruction and
every step answers a next state in every state, and every run is safe. Where it shows a choice of the model, not a rule: log
1. -/
def Obligations.StepRunsDecoded : Prop :=
  (
    ∀ s : State,
      let pending (e : Agenda) : Prop := e.late = false ∧ e.due ≤ match e.clk with
        | .deck d => s.decks[d].tcyc
        | .ref => s.clock
      (∀ i cur arg rest, s.inputs = (i, cur, arg) :: rest → step s = exec i { s with inputs := rest, cur := cur, arg := arg }) ∧
      (∀ e rest, s.inputs = [] → s.agenda = e :: rest → pending e →
        step s = exec e.i { s with agenda := rest, cur := e.cur, arg := e.arg }) ∧
      (s.inputs = [] → (∀ e ∈ s.agenda, ¬pending e) → s.slots = [] →
        (∀ s1, s.pollAll = (s1, true) → step s = .next s1) ∧
        ∀ s1, s.pollAll = (s1, false) →
          let ends (d : Fin 8) : Prop := 16 ≤ s1.decks[d].acc + (16 - s1.decks[d].thr)
          let lateDue (e : Agenda) : Prop := e.late = true ∧ match e.clk with
            | .deck d => e.due ≤ s1.decks[d].tcyc ∧ ends d
            | .ref => e.due ≤ s1.clock
          (∀ e rest, s1.agenda = e :: rest → lateDue e →
            step s = exec e.i { s1 with agenda := rest, cur := e.cur, arg := e.arg }) ∧
          ((∀ e ∈ s1.agenda, ¬lateDue e) → ∃ s', step s = .next s' ∧ s'.clock = s1.clock + 1 ∧
            (∀ d : Fin 8, (ends d → s'.decks[d].tcyc = s1.decks[d].tcyc + 1) ∧ (¬ends d → s'.decks[d].tcyc = s1.decks[d].tcyc)) ∧
            (∀ r, s'.thread r = s1.thread r) ∧ s'.parts = s1.parts ∧ s'.host = s1.host ∧ s'.cur = s1.cur ∧
            ∀ r ∈ s'.slots, (s1.tile r.tile).launch ≠ none → ends (deckOf r.tile) ∧ r.thr.val = s'.now r.tile % 16)) ∧
      ∀ r rest w i, s.inputs = [] → (∀ e ∈ s.agenda, ¬pending e) → s.slots = r :: rest →
        let t := s.thread r
        let l := s.launch r.tile
        (s.tile r.tile).launch ≠ none → (s.tile r.tile).frozen = false ∨ t.resv ≠ none → (s.core r.tile r.core).displacing ≠ some r.thr →
        t.st = .running → t.notBefore ≤ s.now r.tile → t.busy = false ∨ (t.look ≠ 0 ∧ t.held = false) →
        (∀ v, t.resv = some v → v.window ≠ 0) → t.pc.toNat < l.csize → t.starved = [] → t.laidOff = [] →
        s.globalPeek r.tile (l.code + BitVec.ofNat 64 t.pc.toNat) 4 = some w → decodeWord (BitVec.ofNat 32 w) = .ok i →
        step s = exec i { s with slots := rest, cur := r, arg := {} }) ∧
  (
   (∀ i s, ∃ s', exec i s = .next s') ∧ ∀ n s, safe n s)

/-- R70 to R81, R96, R98, R104, R114, R142, R145, R177: words written out in spec/03 to spec/15 decode to the instructions
that stand beside them there; the all-zero word and a reserved major are no instruction (R76). -/
def Obligations.DecodedWords : Prop :=
  (∀ p ∈ ([(0x04632020, .aluAdd 3 3 4 .d), (0x094A8022, .aluiShl 10 10 34), (0x0CBE0000, .lui 5 0x1E0000),
      (0x14328820, .cmpEq 1 18 17 .d), (0x18236008, .cmpiGe 1 3 8), (0x1D20FFF6, .brF 1 0xFFF6), (0x23FFFFFC, .jmp 0x3FFFFFC),
      (0x2400000B, .call 11), (0x28020003, .loopIn 2 3), (0x322C2000, .memLdH 17 12 0 0), (0x35226000, .memStD 9 2 0),
      (0x39264080, .atomFaa 9 6 8 .i32 0), (0x3C410430, .syncLdfe 2 1 0 3 0), (0x44460100, .smpSample 2 6 0 0 0),
      (0x47C0D2B0, .smpBar 30 26 3 0), (0x48000050, .taskRetire 0), (0x4CE310D0, .engPush 7 3 2 5),
      (0x54C00060, .kregRd 6 .loopcnt), (0x58220021, .vmemLdV 1 2 2 1), (0x5CE33FF0, .vmemStW 7 3 0x1FF),
      (0x602218A0, .valuAdd 1 2 3 .i .w), (0x64456A80, .vfltFnma 2 5 13 .rne), (0x68C60180, .vcvtFri 6 6 .rne),
      (0x6F6D0080, .vredFadd 27 13 .rne), (0x72A2B170, .vmovExtu 21 2 22 .d), (0x001F0060, .sysJr 31)] :
      List (BitVec 32 × Instr)), decodeWord p.1 = .ok p.2) ∧
  decodeWord 0 = .error .reservedMajor ∧ (∀ w : BitVec 26, decodeWord (0x1D#6 ++ w) = .error .reservedMajor) ∧
  decodeTWord (0x0203_0001_0000_0000_0000_0000_0000_0000_0000_0000_0000_0000_0000_0040_0000_1000#256) =
    .ok (.mxRun 1 0x0000_0040_0000_1000) ∧
  decodeTWord (0x0108_0004_0200_0000_0000_0000_0000_0000_0000_0000_0000_0000_0000_0000_0000_0000#256) =
    .ok (.copyHatom ⟨4, 2, 0, 0⟩ 0)

/-- R70 to R77: every well-formed S-word instruction, with every operand at every value its encoding admits, is decoded from
the word that encodes it; and a word that decodes is the word of its instruction, so no two words mean the same. R78 to R81:
the same for the commands of the copy unit, the matrix engine and the event engine, whose T-words are eight words. -/
def Obligations.EncodingRoundTrip : Prop :=
  (
    (∀ i w, i.wf = true → encodeWord i = some w → decodeWord w = .ok i ∧ decode (encode i) = .ok i) ∧
    ∀ w i, decodeWord w = .ok i → i.wf = true ∧ encodeWord i = some w) ∧
  (
    (∀ i x, i.wf = true → encodeTWord i = some x → decodeTWord x = .ok i ∧ decode (encode i) = .ok i) ∧
    ∀ x i, decodeTWord x = .ok i → i.wf = true ∧ encodeTWord i = some x)

/-- Every step keeps every memory of the machine in canonical form and the numbering of outstanding instructions: equal
contents are equal data, in states that no run reaches too. -/
def Obligations.InvariantKept : Prop :=
 ∀ s s' : State, s.Inv → step s = .next s' → s'.Inv

/-- The machine after reset meets the invariant, runs no launch, has no partition and no key, and reads 0 in every register
and every byte (the values the spec does not give are the model's: log 4, log 5). Where it shows a choice of the model, not
a rule: log 4, log 5. -/
def Obligations.ResetState : Prop :=
  let s := State.reset
  s.Inv ∧ s.parts = [] ∧ s.keys = [] ∧ s.clock = 0 ∧ (∀ t, (s.tile t).launch = none) ∧
    (∀ r, (s.thread r).st = .empty ∧ (s.thread r).pc = 0 ∧ (s.thread r).fflags = 0 ∧ (s.thread r).frm = 0 ∧
      (∀ x, (s.thread r).getS x = 0) ∧ (∀ x, (s.thread r).getV x = 0) ∧ ∀ x, (s.thread r).getP x = decide (x = 0)) ∧
    ∀ t c a, (s.core t c).lm.readByte a = 0

/-- R9, R15, R24, R73, R96 to R101, R104, R137, R142, R148, R153: the frame of the register forms (majors 0x01 to 0x03,
0x05, 0x06, 0x18 to 0x1C, but for vflt.div, vflt.sqrt and vcvt.tload): no register changes but the destination, fflags only
gains bits, and only in the floating-point majors; memory, every special register, every other thread, the engines and the
partitions stay. -/
def Obligations.RegisterFrame : Prop :=
  ∀ (s : State) (i : Instr) (w : BitVec 32), encodeWord i = some w →
    let maj := (w.extractLsb' 26 6).toNat
    maj ∈ [0x01, 0x02, 0x03, 0x05, 0x06, 0x18, 0x19, 0x1A, 0x1B, 0x1C] → (∀ d a b rm la, i ≠ .vfltDiv d a b rm la) →
    (∀ d a rm la, i ≠ .vfltSqrt d a rm la) → (∀ a t la, i ≠ .vcvtTload a t la) → s.clear i →
    ∃ s', exec i s = .next s' ∧
      (∀ r, RegRef.s r ∉ (regUse i).writes → s'.th.getS r = s.th.getS r) ∧
      (∀ r, RegRef.v r ∉ (regUse i).writes → s'.th.getV r = s.th.getV r) ∧
      (∀ r, RegRef.p r ∉ (regUse i).writes → s'.th.getP r = s.th.getP r) ∧
      s.th.fflags &&& s'.th.fflags = s.th.fflags ∧ (maj ∉ [0x19, 0x1A, 0x1B] → s'.th.fflags = s.th.fflags) ∧
      s'.th.frm = s.th.frm ∧ s'.th.tpc = s.th.tpc ∧ s'.th.tinst = s.th.tinst ∧ s'.th.tcause = s.th.tcause ∧ s'.th.tval = s.th.tval ∧
      s'.th.ih = s.th.ih ∧ s'.th.tbm = s.th.tbm ∧ s'.th.outst = s.th.outst ∧ s'.th.binds = s.th.binds ∧ s'.th.watch = s.th.watch ∧
      s'.th.st = s.th.st ∧ (s'.th.resv.map fun v => (v.va, v.addr)) = s.th.resv.map (fun v => (v.va, v.addr)) ∧
      (s.th.ih = true ∨ (∀ o, (s.th.loopLvl o).active = false ∨ (s.th.loopLvl o).last ≠ s.th.pc.toNat) →
        s'.th.loopcnt = s.th.loopcnt ∧ s'.th.loopstart = s.th.loopstart ∧ s'.th.loopend = s.th.loopend) ∧
      (∀ r, r ≠ s.cur → s'.thread r = s.thread r) ∧
      (∀ t c, (∀ a, (s'.core t c).lm.readByte a = (s.core t c).lm.readByte a) ∧ (s'.core t c).full = (s.core t c).full ∧
        (s'.core t c).lines = (s.core t c).lines ∧ (s'.core t c).mxflags = (s.core t c).mxflags ∧
        (s'.core t c).t8 = (s.core t c).t8 ∧ (s'.core t c).t4 = (s.core t c).t4) ∧
      (∀ t, (s'.tile t).launch = (s.tile t).launch ∧ (s'.tile t).cells = (s.tile t).cells ∧ (s'.tile t).copy = (s.tile t).copy ∧
        (s'.tile t).mx = (s.tile t).mx ∧ (s'.tile t).ev = (s.tile t).ev ∧ (s'.tile t).slice = (s.tile t).slice ∧
        (s'.tile t).accs = (s.tile t).accs ∧ (s'.tile t).misses = (s.tile t).misses) ∧
      s'.parts = s.parts ∧ s'.host = s.host ∧ s'.hostFog = s.hostFog ∧ s'.keys = s.keys ∧ s'.clock = s.clock ∧ s'.md = s.md
end

