-- ==== Sys2Proof/Laws/KMap.lean ====
section
/-!
SUPPORT. Laws of the sparse maps: read after write, the canonical form of byte memories and that every memory operation keeps
it.
-/
namespace Sys2Proof.Machine

variable {α : Type}

/-! ## Read after write -/

@[simp] theorem KMap.get?_nil (i : Nat) : KMap.get? ([] : KMap α) i = none := rfl

@[simp] theorem KMap.get?_set_self (m : KMap α) (i : Nat) (x : α) : (KMap.set m i x).get? i = some x := by
  induction m with
  | nil => simp [KMap.set, KMap.get?]
  | cons p m ih =>
    obtain ⟨k, v⟩ := p
    unfold KMap.set
    split
    · next h => simp [KMap.get?, h]
    · split
      · simp [KMap.get?]
      · next h h' => simp [KMap.get?, h, h', ih]

theorem KMap.get?_set_ne (m : KMap α) {i j : Nat} (x : α) (h : j ≠ i) : (KMap.set m i x).get? j = KMap.get? m j := by
  induction m with
  | nil => simp [KMap.set, KMap.get?, h]
  | cons p m ih =>
    obtain ⟨k, v⟩ := p
    unfold KMap.set
    split
    · next hk => subst hk; simp [KMap.get?, h]
    · split
      · next hk hlt =>
        simp only [KMap.get?, h, if_false]
        by_cases hj : j < i
        · have h1 : j ≠ k := by omega
          have h2 : j < k := by omega
          simp [hj, h1, h2]
        · simp [hj]
      · next hk hlt => simp only [KMap.get?, ih]

@[simp] theorem KMap.getD_set_self (m : KMap α) (i : Nat) (x d : α) : (KMap.set m i x).getD i d = x := by
  simp [KMap.getD]

theorem KMap.getD_set_ne (m : KMap α) {i j : Nat} (x d : α) (h : j ≠ i) : (KMap.set m i x).getD j d = KMap.getD m j d := by
  simp [KMap.getD, KMap.get?_set_ne m x h]

/-- A second write of a key replaces the first. -/
@[simp] theorem KMap.set_set (m : KMap α) (i : Nat) (x y : α) : KMap.set (KMap.set m i x) i y = KMap.set m i y := by
  induction m with
  | nil => simp [KMap.set]
  | cons p m ih =>
    obtain ⟨k, v⟩ := p
    by_cases h : i = k
    · simp [KMap.set, h]
    · by_cases h' : i < k
      · simp [KMap.set, h, h']
      · simp [KMap.set, h, h', ih]

/-! ## Strictly rising keys -/

/-- The keys rise strictly. -/
abbrev KMap.Sorted (m : KMap α) : Prop := m.Pairwise fun p q => p.1 < q.1

theorem KMap.mem_set {m : KMap α} {i : Nat} {x : α} {q : Nat × α} (h : q ∈ KMap.set m i x) : q = (i, x) ∨ q ∈ m := by
  induction m with
  | nil => simpa [KMap.set] using h
  | cons p m ih =>
    obtain ⟨k, v⟩ := p
    unfold KMap.set at h
    split at h
    · next hk => rcases List.mem_cons.1 h with h | h <;> simp_all
    · split at h
      · rcases List.mem_cons.1 h with h | h
        · exact Or.inl h
        · exact Or.inr h
      · rcases List.mem_cons.1 h with h | h
        · exact Or.inr (by simp [h])
        · rcases ih h with h | h
          · exact Or.inl h
          · exact Or.inr (List.mem_cons_of_mem _ h)

theorem KMap.set_sorted {m : KMap α} (hm : KMap.Sorted m) (i : Nat) (x : α) : KMap.Sorted (KMap.set m i x) := by
  induction m with
  | nil => simp [KMap.set]
  | cons p m ih =>
    obtain ⟨k, v⟩ := p
    have hp := List.pairwise_cons.1 hm
    unfold KMap.set
    split
    · exact List.pairwise_cons.2 ⟨hp.1, hp.2⟩
    · split
      · next hlt =>
        refine List.pairwise_cons.2 ⟨fun q hq => ?_, hm⟩
        rcases List.mem_cons.1 hq with h | h
        · simpa [h] using hlt
        · exact Nat.lt_trans hlt (hp.1 q h)
      · next hk hlt =>
        refine List.pairwise_cons.2 ⟨fun q hq => ?_, ih hp.2⟩
        rcases KMap.mem_set hq with h | h
        · subst h; show k < i; omega
        · exact hp.1 q h

theorem KMap.erase_sublist (m : KMap α) (i : Nat) : (KMap.erase m i).Sublist m := by
  induction m with
  | nil => simp [KMap.erase]
  | cons p m ih =>
    obtain ⟨k, v⟩ := p
    unfold KMap.erase
    split
    · exact List.sublist_cons_self _ _
    · split
      · exact List.Sublist.refl _
      · exact ih.cons_cons _

theorem KMap.erase_sorted {m : KMap α} (hm : KMap.Sorted m) (i : Nat) : KMap.Sorted (KMap.erase m i) :=
  hm.sublist (KMap.erase_sublist m i)

/-- In a map with rising keys a read finds nothing below the first key. -/
theorem KMap.get?_below {m : KMap α} {i : Nat} (h : ∀ q ∈ m, i < q.1) : KMap.get? m i = none := by
  cases m with
  | nil => rfl
  | cons p m =>
    obtain ⟨k, v⟩ := p
    have hk : i < k := h (k, v) (by simp)
    have hne : i ≠ k := by omega
    simp [KMap.get?, hk, hne]

theorem KMap.get?_erase_self {m : KMap α} (hm : KMap.Sorted m) (i : Nat) : (KMap.erase m i).get? i = none := by
  induction m with
  | nil => rfl
  | cons p m ih =>
    obtain ⟨k, v⟩ := p
    have hp := List.pairwise_cons.1 hm
    unfold KMap.erase
    split
    · next h => subst h; exact KMap.get?_below hp.1
    · split
      · next hk hlt => simp [KMap.get?, hk, hlt]
      · next hk hlt => simp [KMap.get?, hk, hlt, ih hp.2]

theorem KMap.get?_erase_ne {m : KMap α} (hm : KMap.Sorted m) {i j : Nat} (h : j ≠ i) :
    (KMap.erase m i).get? j = KMap.get? m j := by
  induction m with
  | nil => rfl
  | cons p m ih =>
    obtain ⟨k, v⟩ := p
    have hp := List.pairwise_cons.1 hm
    unfold KMap.erase
    split
    · next hk =>
      subst hk
      by_cases hj : j < i
      · rw [KMap.get?_below (m := m) fun q hq => Nat.lt_trans hj (hp.1 q hq)]
        simp [KMap.get?, h, hj]
      · simp [KMap.get?, h, hj]
    · split
      · rfl
      · next hk hlt => simp only [KMap.get?, ih hp.2]

/-! ## Byte memories -/

theorem Memory.wf_iff (m : Memory) : Memory.wf m = true ↔ KMap.Sorted m ∧ ∀ p ∈ m, p.2 ≠ 0 := by
  induction m with
  | nil => simp [Memory.wf]
  | cons p m ih =>
    obtain ⟨a, b⟩ := p
    cases m with
    | nil => simp [Memory.wf]
    | cons q rest =>
      obtain ⟨a', b'⟩ := q
      simp only [Memory.wf, Bool.and_eq_true, bne_iff_ne, ne_eq, decide_eq_true_eq, ih]
      constructor
      · rintro ⟨⟨hb, hlt⟩, hs, hz⟩
        refine ⟨List.pairwise_cons.2 ⟨fun q hq => ?_, hs⟩, fun p hp => ?_⟩
        · rcases List.mem_cons.1 hq with h | h
          · simpa [h] using hlt
          · exact Nat.lt_trans hlt ((List.pairwise_cons.1 hs).1 q h)
        · rcases List.mem_cons.1 hp with h | h
          · simpa [h] using hb
          · exact hz p h
      · rintro ⟨hs, hz⟩
        have hp := List.pairwise_cons.1 hs
        exact ⟨⟨hz (a, b) (by simp), hp.1 (a', b') (by simp)⟩, hp.2, fun p h => hz p (List.mem_cons_of_mem _ h)⟩

theorem Memory.wf_nil : Memory.wf [] = true := rfl

/-- A byte write keeps the canonical form. -/
theorem Memory.writeByte_wf {m : Memory} (hm : m.wf = true) (a : Nat) (b : Byte) : (m.writeByte a b).wf = true := by
  rw [Memory.wf_iff] at hm ⊢
  unfold Memory.writeByte
  split
  · exact ⟨KMap.erase_sorted hm.1 a, fun p hp => hm.2 p ((KMap.erase_sublist m a).subset hp)⟩
  · next hb =>
    refine ⟨KMap.set_sorted hm.1 a b, fun p hp => ?_⟩
    rcases KMap.mem_set hp with h | h
    · subst h; exact hb
    · exact hm.2 p h

/-- A write of bytes keeps the canonical form. -/
theorem Memory.writeBytes_wf {m : Memory} (hm : m.wf = true) (a : Nat) (bs : List Byte) :
    (m.writeBytes a bs).wf = true := by
  induction bs generalizing m a with
  | nil => exact hm
  | cons b bs ih => exact ih (Memory.writeByte_wf hm a b) (a + 1)

/-- A little-endian write keeps the canonical form. -/
theorem Memory.writeNat_wf {m : Memory} (hm : m.wf = true) (a n x : Nat) : (m.writeNat a n x).wf = true :=
  Memory.writeBytes_wf hm a _

/-- Read after write of one byte, at the same address. -/
theorem Memory.readByte_writeByte_self {m : Memory} (hm : m.wf = true) (a : Nat) (b : Byte) :
    (m.writeByte a b).readByte a = b := by
  have hs := ((Memory.wf_iff m).1 hm).1
  unfold Memory.writeByte Memory.readByte
  split
  · next h => simp [KMap.getD, KMap.get?_erase_self hs, h]
  · simp

/-- A write of one byte leaves every other byte. -/
theorem Memory.readByte_writeByte_ne {m : Memory} (hm : m.wf = true) {a a' : Nat} (h : a' ≠ a) (b : Byte) :
    (m.writeByte a b).readByte a' = m.readByte a' := by
  have hs := ((Memory.wf_iff m).1 hm).1
  unfold Memory.writeByte Memory.readByte
  split
  · simp [KMap.getD, KMap.get?_erase_ne hs h]
  · exact KMap.getD_set_ne m b 0 h

/-- A write of bytes leaves every byte outside them. -/
theorem Memory.readByte_writeBytes_outside {m : Memory} (hm : m.wf = true) (a a' : Nat) (bs : List Byte)
    (h : a' < a ∨ a + bs.length ≤ a') : (m.writeBytes a bs).readByte a' = m.readByte a' := by
  induction bs generalizing m a with
  | nil => rfl
  | cons b bs ih =>
    have hlen : (b :: bs).length = bs.length + 1 := rfl
    have hne : a' ≠ a := by omega
    rw [Memory.writeBytes, ih (Memory.writeByte_wf hm a b) (a + 1) (by omega), Memory.readByte_writeByte_ne hm hne]

/-- Read after write of bytes. -/
theorem Memory.readBytes_writeBytes {m : Memory} (hm : m.wf = true) (a : Nat) (bs : List Byte) :
    (m.writeBytes a bs).readBytes a bs.length = bs := by
  induction bs generalizing m a with
  | nil => rfl
  | cons b bs ih =>
    have hw := Memory.writeByte_wf hm a b
    simp only [Memory.writeBytes, List.length_cons, Memory.readBytes, ih hw (a + 1)]
    rw [Memory.readByte_writeBytes_outside hw (a + 1) a bs (Or.inl (Nat.lt_succ_self a)),
      Memory.readByte_writeByte_self hm]

/-- Two canonical memories whose bytes agree are equal. -/
theorem Memory.ext_of_readByte {m m' : Memory} (hm : m.wf = true) (hm' : m'.wf = true)
    (h : ∀ a, m.readByte a = m'.readByte a) : m = m' := by
  rw [Memory.wf_iff] at hm hm'
  induction m generalizing m' with
  | nil =>
    cases m' with
    | nil => rfl
    | cons p m' =>
      obtain ⟨a, b⟩ := p
      have := h a
      simp [Memory.readByte, KMap.getD, KMap.get?] at this
      exact absurd this.symm (hm'.2 (a, b) (by simp))
  | cons p m ih =>
    obtain ⟨a, b⟩ := p
    have hs := List.pairwise_cons.1 hm.1
    have hb := hm.2 (a, b) (by simp)
    cases m' with
    | nil =>
      have := h a
      simp [Memory.readByte, KMap.getD, KMap.get?] at this
      exact absurd this hb
    | cons p' m' =>
      obtain ⟨a', b'⟩ := p'
      have hs' := List.pairwise_cons.1 hm'.1
      have hb' := hm'.2 (a', b') (by simp)
      have haa : a = a' := by
        rcases Nat.lt_trichotomy a a' with hlt | heq | hgt
        · have := h a
          have hne : a ≠ a' := by omega
          simp [Memory.readByte, KMap.getD, KMap.get?, hlt, hne] at this
          exact absurd this hb
        · exact heq
        · have := h a'
          have hne : a' ≠ a := by omega
          simp [Memory.readByte, KMap.getD, KMap.get?, hgt, hne] at this
          exact absurd this.symm hb'
      subst haa
      have hbb : b = b' := by
        have := h a
        simpa [Memory.readByte, KMap.getD, KMap.get?] using this
      subst hbb
      have hrest : m = m' := ih (m' := m')
        ⟨hs.2, fun p hp => hm.2 p (List.mem_cons_of_mem _ hp)⟩
        ⟨hs'.2, fun p hp => hm'.2 p (List.mem_cons_of_mem _ hp)⟩
        fun x => by
          rcases Nat.lt_trichotomy x a with hlt | heq | hgt
          · have e1 : KMap.get? m x = none := KMap.get?_below fun q hq => Nat.lt_trans hlt (hs.1 q hq)
            have e2 : KMap.get? m' x = none := KMap.get?_below fun q hq => Nat.lt_trans hlt (hs'.1 q hq)
            simp [Memory.readByte, KMap.getD, e1, e2]
          · subst heq
            have e1 : KMap.get? m x = none := KMap.get?_below hs.1
            have e2 : KMap.get? m' x = none := KMap.get?_below hs'.1
            simp [Memory.readByte, KMap.getD, e1, e2]
          · have := h x
            have hne : x ≠ a := by omega
            have hnl : ¬ x < a := by omega
            simpa [Memory.readByte, KMap.getD, KMap.get?, hne, hnl] using this
      rw [hrest]

end Sys2Proof.Machine
end

