-- ==== Sys2Proof/Laws/State.lean ====
section
/-!
SUPPORT. Laws of the state: for each named update one lemma per field that it leaves alone, true by definition, and read after
write for tiles, cores, threads and registers.
-/
namespace Sys2Proof.Machine

/-! ## State.modTile -/

@[simp] theorem State.modTile_clock (s : State) (t : Nat) (f : Tile → Tile) : (s.modTile t f).clock = s.clock := rfl
@[simp] theorem State.modTile_decks (s : State) (t : Nat) (f : Tile → Tile) : (s.modTile t f).decks = s.decks := rfl
@[simp] theorem State.modTile_cur (s : State) (t : Nat) (f : Tile → Tile) : (s.modTile t f).cur = s.cur := rfl
@[simp] theorem State.modTile_arg (s : State) (t : Nat) (f : Tile → Tile) : (s.modTile t f).arg = s.arg := rfl
@[simp] theorem State.modTile_inputs (s : State) (t : Nat) (f : Tile → Tile) : (s.modTile t f).inputs = s.inputs := rfl
@[simp] theorem State.modTile_agenda (s : State) (t : Nat) (f : Tile → Tile) : (s.modTile t f).agenda = s.agenda := rfl
@[simp] theorem State.modTile_slots (s : State) (t : Nat) (f : Tile → Tile) : (s.modTile t f).slots = s.slots := rfl
@[simp] theorem State.modTile_fresh (s : State) (t : Nat) (f : Tile → Tile) : (s.modTile t f).fresh = s.fresh := rfl
@[simp] theorem State.modTile_parts (s : State) (t : Nat) (f : Tile → Tile) : (s.modTile t f).parts = s.parts := rfl
@[simp] theorem State.modTile_keys (s : State) (t : Nat) (f : Tile → Tile) : (s.modTile t f).keys = s.keys := rfl
@[simp] theorem State.modTile_reports (s : State) (t : Nat) (f : Tile → Tile) : (s.modTile t f).reports = s.reports := rfl
@[simp] theorem State.modTile_host (s : State) (t : Nat) (f : Tile → Tile) : (s.modTile t f).host = s.host := rfl
@[simp] theorem State.modTile_hostFog (s : State) (t : Nat) (f : Tile → Tile) : (s.modTile t f).hostFog = s.hostFog := rfl
@[simp] theorem State.modTile_hostTimeout (s : State) (t : Nat) (f : Tile → Tile) : (s.modTile t f).hostTimeout = s.hostTimeout := rfl
@[simp] theorem State.modTile_irqs (s : State) (t : Nat) (f : Tile → Tile) : (s.modTile t f).irqs = s.irqs := rfl
@[simp] theorem State.modTile_hops (s : State) (t : Nat) (f : Tile → Tile) : (s.modTile t f).hops = s.hops := rfl
@[simp] theorem State.modTile_routers (s : State) (t : Nat) (f : Tile → Tile) : (s.modTile t f).routers = s.routers := rfl
@[simp] theorem State.modTile_gw (s : State) (t : Nat) (f : Tile → Tile) : (s.modTile t f).gw = s.gw := rfl
@[simp] theorem State.modTile_md (s : State) (t : Nat) (f : Tile → Tile) : (s.modTile t f).md = s.md := rfl

/-! ## State.modCore -/

@[simp] theorem State.modCore_clock (s : State) (t : Nat) (c : Fin 8) (f : Core → Core) : (s.modCore t c f).clock = s.clock := rfl
@[simp] theorem State.modCore_decks (s : State) (t : Nat) (c : Fin 8) (f : Core → Core) : (s.modCore t c f).decks = s.decks := rfl
@[simp] theorem State.modCore_cur (s : State) (t : Nat) (c : Fin 8) (f : Core → Core) : (s.modCore t c f).cur = s.cur := rfl
@[simp] theorem State.modCore_arg (s : State) (t : Nat) (c : Fin 8) (f : Core → Core) : (s.modCore t c f).arg = s.arg := rfl
@[simp] theorem State.modCore_inputs (s : State) (t : Nat) (c : Fin 8) (f : Core → Core) : (s.modCore t c f).inputs = s.inputs := rfl
@[simp] theorem State.modCore_agenda (s : State) (t : Nat) (c : Fin 8) (f : Core → Core) : (s.modCore t c f).agenda = s.agenda := rfl
@[simp] theorem State.modCore_slots (s : State) (t : Nat) (c : Fin 8) (f : Core → Core) : (s.modCore t c f).slots = s.slots := rfl
@[simp] theorem State.modCore_fresh (s : State) (t : Nat) (c : Fin 8) (f : Core → Core) : (s.modCore t c f).fresh = s.fresh := rfl
@[simp] theorem State.modCore_parts (s : State) (t : Nat) (c : Fin 8) (f : Core → Core) : (s.modCore t c f).parts = s.parts := rfl
@[simp] theorem State.modCore_keys (s : State) (t : Nat) (c : Fin 8) (f : Core → Core) : (s.modCore t c f).keys = s.keys := rfl
@[simp] theorem State.modCore_reports (s : State) (t : Nat) (c : Fin 8) (f : Core → Core) : (s.modCore t c f).reports = s.reports := rfl
@[simp] theorem State.modCore_host (s : State) (t : Nat) (c : Fin 8) (f : Core → Core) : (s.modCore t c f).host = s.host := rfl
@[simp] theorem State.modCore_hostFog (s : State) (t : Nat) (c : Fin 8) (f : Core → Core) : (s.modCore t c f).hostFog = s.hostFog := rfl
@[simp] theorem State.modCore_hostTimeout (s : State) (t : Nat) (c : Fin 8) (f : Core → Core) : (s.modCore t c f).hostTimeout = s.hostTimeout := rfl
@[simp] theorem State.modCore_irqs (s : State) (t : Nat) (c : Fin 8) (f : Core → Core) : (s.modCore t c f).irqs = s.irqs := rfl
@[simp] theorem State.modCore_hops (s : State) (t : Nat) (c : Fin 8) (f : Core → Core) : (s.modCore t c f).hops = s.hops := rfl
@[simp] theorem State.modCore_routers (s : State) (t : Nat) (c : Fin 8) (f : Core → Core) : (s.modCore t c f).routers = s.routers := rfl
@[simp] theorem State.modCore_gw (s : State) (t : Nat) (c : Fin 8) (f : Core → Core) : (s.modCore t c f).gw = s.gw := rfl
@[simp] theorem State.modCore_md (s : State) (t : Nat) (c : Fin 8) (f : Core → Core) : (s.modCore t c f).md = s.md := rfl

/-! ## State.modThread -/

@[simp] theorem State.modThread_clock (s : State) (r : ThreadRef) (f : Thread → Thread) : (s.modThread r f).clock = s.clock := rfl
@[simp] theorem State.modThread_decks (s : State) (r : ThreadRef) (f : Thread → Thread) : (s.modThread r f).decks = s.decks := rfl
@[simp] theorem State.modThread_cur (s : State) (r : ThreadRef) (f : Thread → Thread) : (s.modThread r f).cur = s.cur := rfl
@[simp] theorem State.modThread_arg (s : State) (r : ThreadRef) (f : Thread → Thread) : (s.modThread r f).arg = s.arg := rfl
@[simp] theorem State.modThread_inputs (s : State) (r : ThreadRef) (f : Thread → Thread) : (s.modThread r f).inputs = s.inputs := rfl
@[simp] theorem State.modThread_agenda (s : State) (r : ThreadRef) (f : Thread → Thread) : (s.modThread r f).agenda = s.agenda := rfl
@[simp] theorem State.modThread_slots (s : State) (r : ThreadRef) (f : Thread → Thread) : (s.modThread r f).slots = s.slots := rfl
@[simp] theorem State.modThread_fresh (s : State) (r : ThreadRef) (f : Thread → Thread) : (s.modThread r f).fresh = s.fresh := rfl
@[simp] theorem State.modThread_parts (s : State) (r : ThreadRef) (f : Thread → Thread) : (s.modThread r f).parts = s.parts := rfl
@[simp] theorem State.modThread_keys (s : State) (r : ThreadRef) (f : Thread → Thread) : (s.modThread r f).keys = s.keys := rfl
@[simp] theorem State.modThread_reports (s : State) (r : ThreadRef) (f : Thread → Thread) : (s.modThread r f).reports = s.reports := rfl
@[simp] theorem State.modThread_host (s : State) (r : ThreadRef) (f : Thread → Thread) : (s.modThread r f).host = s.host := rfl
@[simp] theorem State.modThread_hostFog (s : State) (r : ThreadRef) (f : Thread → Thread) : (s.modThread r f).hostFog = s.hostFog := rfl
@[simp] theorem State.modThread_hostTimeout (s : State) (r : ThreadRef) (f : Thread → Thread) : (s.modThread r f).hostTimeout = s.hostTimeout := rfl
@[simp] theorem State.modThread_irqs (s : State) (r : ThreadRef) (f : Thread → Thread) : (s.modThread r f).irqs = s.irqs := rfl
@[simp] theorem State.modThread_hops (s : State) (r : ThreadRef) (f : Thread → Thread) : (s.modThread r f).hops = s.hops := rfl
@[simp] theorem State.modThread_routers (s : State) (r : ThreadRef) (f : Thread → Thread) : (s.modThread r f).routers = s.routers := rfl
@[simp] theorem State.modThread_gw (s : State) (r : ThreadRef) (f : Thread → Thread) : (s.modThread r f).gw = s.gw := rfl
@[simp] theorem State.modThread_md (s : State) (r : ThreadRef) (f : Thread → Thread) : (s.modThread r f).md = s.md := rfl

/-! ## State.modTh -/

@[simp] theorem State.modTh_clock (s : State) (f : Thread → Thread) : (s.modTh f).clock = s.clock := rfl
@[simp] theorem State.modTh_decks (s : State) (f : Thread → Thread) : (s.modTh f).decks = s.decks := rfl
@[simp] theorem State.modTh_cur (s : State) (f : Thread → Thread) : (s.modTh f).cur = s.cur := rfl
@[simp] theorem State.modTh_arg (s : State) (f : Thread → Thread) : (s.modTh f).arg = s.arg := rfl
@[simp] theorem State.modTh_inputs (s : State) (f : Thread → Thread) : (s.modTh f).inputs = s.inputs := rfl
@[simp] theorem State.modTh_agenda (s : State) (f : Thread → Thread) : (s.modTh f).agenda = s.agenda := rfl
@[simp] theorem State.modTh_slots (s : State) (f : Thread → Thread) : (s.modTh f).slots = s.slots := rfl
@[simp] theorem State.modTh_fresh (s : State) (f : Thread → Thread) : (s.modTh f).fresh = s.fresh := rfl
@[simp] theorem State.modTh_parts (s : State) (f : Thread → Thread) : (s.modTh f).parts = s.parts := rfl
@[simp] theorem State.modTh_keys (s : State) (f : Thread → Thread) : (s.modTh f).keys = s.keys := rfl
@[simp] theorem State.modTh_reports (s : State) (f : Thread → Thread) : (s.modTh f).reports = s.reports := rfl
@[simp] theorem State.modTh_host (s : State) (f : Thread → Thread) : (s.modTh f).host = s.host := rfl
@[simp] theorem State.modTh_hostFog (s : State) (f : Thread → Thread) : (s.modTh f).hostFog = s.hostFog := rfl
@[simp] theorem State.modTh_hostTimeout (s : State) (f : Thread → Thread) : (s.modTh f).hostTimeout = s.hostTimeout := rfl
@[simp] theorem State.modTh_irqs (s : State) (f : Thread → Thread) : (s.modTh f).irqs = s.irqs := rfl
@[simp] theorem State.modTh_hops (s : State) (f : Thread → Thread) : (s.modTh f).hops = s.hops := rfl
@[simp] theorem State.modTh_routers (s : State) (f : Thread → Thread) : (s.modTh f).routers = s.routers := rfl
@[simp] theorem State.modTh_gw (s : State) (f : Thread → Thread) : (s.modTh f).gw = s.gw := rfl
@[simp] theorem State.modTh_md (s : State) (f : Thread → Thread) : (s.modTh f).md = s.md := rfl

/-! ## State.modCopy -/

@[simp] theorem State.modCopy_clock (s : State) (t : Nat) (f : CopyUnit → CopyUnit) : (s.modCopy t f).clock = s.clock := rfl
@[simp] theorem State.modCopy_decks (s : State) (t : Nat) (f : CopyUnit → CopyUnit) : (s.modCopy t f).decks = s.decks := rfl
@[simp] theorem State.modCopy_cur (s : State) (t : Nat) (f : CopyUnit → CopyUnit) : (s.modCopy t f).cur = s.cur := rfl
@[simp] theorem State.modCopy_arg (s : State) (t : Nat) (f : CopyUnit → CopyUnit) : (s.modCopy t f).arg = s.arg := rfl
@[simp] theorem State.modCopy_inputs (s : State) (t : Nat) (f : CopyUnit → CopyUnit) : (s.modCopy t f).inputs = s.inputs := rfl
@[simp] theorem State.modCopy_agenda (s : State) (t : Nat) (f : CopyUnit → CopyUnit) : (s.modCopy t f).agenda = s.agenda := rfl
@[simp] theorem State.modCopy_slots (s : State) (t : Nat) (f : CopyUnit → CopyUnit) : (s.modCopy t f).slots = s.slots := rfl
@[simp] theorem State.modCopy_fresh (s : State) (t : Nat) (f : CopyUnit → CopyUnit) : (s.modCopy t f).fresh = s.fresh := rfl
@[simp] theorem State.modCopy_parts (s : State) (t : Nat) (f : CopyUnit → CopyUnit) : (s.modCopy t f).parts = s.parts := rfl
@[simp] theorem State.modCopy_keys (s : State) (t : Nat) (f : CopyUnit → CopyUnit) : (s.modCopy t f).keys = s.keys := rfl
@[simp] theorem State.modCopy_reports (s : State) (t : Nat) (f : CopyUnit → CopyUnit) : (s.modCopy t f).reports = s.reports := rfl
@[simp] theorem State.modCopy_host (s : State) (t : Nat) (f : CopyUnit → CopyUnit) : (s.modCopy t f).host = s.host := rfl
@[simp] theorem State.modCopy_hostFog (s : State) (t : Nat) (f : CopyUnit → CopyUnit) : (s.modCopy t f).hostFog = s.hostFog := rfl
@[simp] theorem State.modCopy_hostTimeout (s : State) (t : Nat) (f : CopyUnit → CopyUnit) : (s.modCopy t f).hostTimeout = s.hostTimeout := rfl
@[simp] theorem State.modCopy_irqs (s : State) (t : Nat) (f : CopyUnit → CopyUnit) : (s.modCopy t f).irqs = s.irqs := rfl
@[simp] theorem State.modCopy_hops (s : State) (t : Nat) (f : CopyUnit → CopyUnit) : (s.modCopy t f).hops = s.hops := rfl
@[simp] theorem State.modCopy_routers (s : State) (t : Nat) (f : CopyUnit → CopyUnit) : (s.modCopy t f).routers = s.routers := rfl
@[simp] theorem State.modCopy_gw (s : State) (t : Nat) (f : CopyUnit → CopyUnit) : (s.modCopy t f).gw = s.gw := rfl
@[simp] theorem State.modCopy_md (s : State) (t : Nat) (f : CopyUnit → CopyUnit) : (s.modCopy t f).md = s.md := rfl

/-! ## State.modChan -/

@[simp] theorem State.modChan_clock (s : State) (t k : Nat) (f : Chan → Chan) : (s.modChan t k f).clock = s.clock := rfl
@[simp] theorem State.modChan_decks (s : State) (t k : Nat) (f : Chan → Chan) : (s.modChan t k f).decks = s.decks := rfl
@[simp] theorem State.modChan_cur (s : State) (t k : Nat) (f : Chan → Chan) : (s.modChan t k f).cur = s.cur := rfl
@[simp] theorem State.modChan_arg (s : State) (t k : Nat) (f : Chan → Chan) : (s.modChan t k f).arg = s.arg := rfl
@[simp] theorem State.modChan_inputs (s : State) (t k : Nat) (f : Chan → Chan) : (s.modChan t k f).inputs = s.inputs := rfl
@[simp] theorem State.modChan_agenda (s : State) (t k : Nat) (f : Chan → Chan) : (s.modChan t k f).agenda = s.agenda := rfl
@[simp] theorem State.modChan_slots (s : State) (t k : Nat) (f : Chan → Chan) : (s.modChan t k f).slots = s.slots := rfl
@[simp] theorem State.modChan_fresh (s : State) (t k : Nat) (f : Chan → Chan) : (s.modChan t k f).fresh = s.fresh := rfl
@[simp] theorem State.modChan_parts (s : State) (t k : Nat) (f : Chan → Chan) : (s.modChan t k f).parts = s.parts := rfl
@[simp] theorem State.modChan_keys (s : State) (t k : Nat) (f : Chan → Chan) : (s.modChan t k f).keys = s.keys := rfl
@[simp] theorem State.modChan_reports (s : State) (t k : Nat) (f : Chan → Chan) : (s.modChan t k f).reports = s.reports := rfl
@[simp] theorem State.modChan_host (s : State) (t k : Nat) (f : Chan → Chan) : (s.modChan t k f).host = s.host := rfl
@[simp] theorem State.modChan_hostFog (s : State) (t k : Nat) (f : Chan → Chan) : (s.modChan t k f).hostFog = s.hostFog := rfl
@[simp] theorem State.modChan_hostTimeout (s : State) (t k : Nat) (f : Chan → Chan) : (s.modChan t k f).hostTimeout = s.hostTimeout := rfl
@[simp] theorem State.modChan_irqs (s : State) (t k : Nat) (f : Chan → Chan) : (s.modChan t k f).irqs = s.irqs := rfl
@[simp] theorem State.modChan_hops (s : State) (t k : Nat) (f : Chan → Chan) : (s.modChan t k f).hops = s.hops := rfl
@[simp] theorem State.modChan_routers (s : State) (t k : Nat) (f : Chan → Chan) : (s.modChan t k f).routers = s.routers := rfl
@[simp] theorem State.modChan_gw (s : State) (t k : Nat) (f : Chan → Chan) : (s.modChan t k f).gw = s.gw := rfl
@[simp] theorem State.modChan_md (s : State) (t k : Nat) (f : Chan → Chan) : (s.modChan t k f).md = s.md := rfl

/-! ## State.modMx -/

@[simp] theorem State.modMx_clock (s : State) (t : Nat) (f : Matrix → Matrix) : (s.modMx t f).clock = s.clock := rfl
@[simp] theorem State.modMx_decks (s : State) (t : Nat) (f : Matrix → Matrix) : (s.modMx t f).decks = s.decks := rfl
@[simp] theorem State.modMx_cur (s : State) (t : Nat) (f : Matrix → Matrix) : (s.modMx t f).cur = s.cur := rfl
@[simp] theorem State.modMx_arg (s : State) (t : Nat) (f : Matrix → Matrix) : (s.modMx t f).arg = s.arg := rfl
@[simp] theorem State.modMx_inputs (s : State) (t : Nat) (f : Matrix → Matrix) : (s.modMx t f).inputs = s.inputs := rfl
@[simp] theorem State.modMx_agenda (s : State) (t : Nat) (f : Matrix → Matrix) : (s.modMx t f).agenda = s.agenda := rfl
@[simp] theorem State.modMx_slots (s : State) (t : Nat) (f : Matrix → Matrix) : (s.modMx t f).slots = s.slots := rfl
@[simp] theorem State.modMx_fresh (s : State) (t : Nat) (f : Matrix → Matrix) : (s.modMx t f).fresh = s.fresh := rfl
@[simp] theorem State.modMx_parts (s : State) (t : Nat) (f : Matrix → Matrix) : (s.modMx t f).parts = s.parts := rfl
@[simp] theorem State.modMx_keys (s : State) (t : Nat) (f : Matrix → Matrix) : (s.modMx t f).keys = s.keys := rfl
@[simp] theorem State.modMx_reports (s : State) (t : Nat) (f : Matrix → Matrix) : (s.modMx t f).reports = s.reports := rfl
@[simp] theorem State.modMx_host (s : State) (t : Nat) (f : Matrix → Matrix) : (s.modMx t f).host = s.host := rfl
@[simp] theorem State.modMx_hostFog (s : State) (t : Nat) (f : Matrix → Matrix) : (s.modMx t f).hostFog = s.hostFog := rfl
@[simp] theorem State.modMx_hostTimeout (s : State) (t : Nat) (f : Matrix → Matrix) : (s.modMx t f).hostTimeout = s.hostTimeout := rfl
@[simp] theorem State.modMx_irqs (s : State) (t : Nat) (f : Matrix → Matrix) : (s.modMx t f).irqs = s.irqs := rfl
@[simp] theorem State.modMx_hops (s : State) (t : Nat) (f : Matrix → Matrix) : (s.modMx t f).hops = s.hops := rfl
@[simp] theorem State.modMx_routers (s : State) (t : Nat) (f : Matrix → Matrix) : (s.modMx t f).routers = s.routers := rfl
@[simp] theorem State.modMx_gw (s : State) (t : Nat) (f : Matrix → Matrix) : (s.modMx t f).gw = s.gw := rfl
@[simp] theorem State.modMx_md (s : State) (t : Nat) (f : Matrix → Matrix) : (s.modMx t f).md = s.md := rfl

/-! ## State.modEv -/

@[simp] theorem State.modEv_clock (s : State) (t : Nat) (f : EvEngine → EvEngine) : (s.modEv t f).clock = s.clock := rfl
@[simp] theorem State.modEv_decks (s : State) (t : Nat) (f : EvEngine → EvEngine) : (s.modEv t f).decks = s.decks := rfl
@[simp] theorem State.modEv_cur (s : State) (t : Nat) (f : EvEngine → EvEngine) : (s.modEv t f).cur = s.cur := rfl
@[simp] theorem State.modEv_arg (s : State) (t : Nat) (f : EvEngine → EvEngine) : (s.modEv t f).arg = s.arg := rfl
@[simp] theorem State.modEv_inputs (s : State) (t : Nat) (f : EvEngine → EvEngine) : (s.modEv t f).inputs = s.inputs := rfl
@[simp] theorem State.modEv_agenda (s : State) (t : Nat) (f : EvEngine → EvEngine) : (s.modEv t f).agenda = s.agenda := rfl
@[simp] theorem State.modEv_slots (s : State) (t : Nat) (f : EvEngine → EvEngine) : (s.modEv t f).slots = s.slots := rfl
@[simp] theorem State.modEv_fresh (s : State) (t : Nat) (f : EvEngine → EvEngine) : (s.modEv t f).fresh = s.fresh := rfl
@[simp] theorem State.modEv_parts (s : State) (t : Nat) (f : EvEngine → EvEngine) : (s.modEv t f).parts = s.parts := rfl
@[simp] theorem State.modEv_keys (s : State) (t : Nat) (f : EvEngine → EvEngine) : (s.modEv t f).keys = s.keys := rfl
@[simp] theorem State.modEv_reports (s : State) (t : Nat) (f : EvEngine → EvEngine) : (s.modEv t f).reports = s.reports := rfl
@[simp] theorem State.modEv_host (s : State) (t : Nat) (f : EvEngine → EvEngine) : (s.modEv t f).host = s.host := rfl
@[simp] theorem State.modEv_hostFog (s : State) (t : Nat) (f : EvEngine → EvEngine) : (s.modEv t f).hostFog = s.hostFog := rfl
@[simp] theorem State.modEv_hostTimeout (s : State) (t : Nat) (f : EvEngine → EvEngine) : (s.modEv t f).hostTimeout = s.hostTimeout := rfl
@[simp] theorem State.modEv_irqs (s : State) (t : Nat) (f : EvEngine → EvEngine) : (s.modEv t f).irqs = s.irqs := rfl
@[simp] theorem State.modEv_hops (s : State) (t : Nat) (f : EvEngine → EvEngine) : (s.modEv t f).hops = s.hops := rfl
@[simp] theorem State.modEv_routers (s : State) (t : Nat) (f : EvEngine → EvEngine) : (s.modEv t f).routers = s.routers := rfl
@[simp] theorem State.modEv_gw (s : State) (t : Nat) (f : EvEngine → EvEngine) : (s.modEv t f).gw = s.gw := rfl
@[simp] theorem State.modEv_md (s : State) (t : Nat) (f : EvEngine → EvEngine) : (s.modEv t f).md = s.md := rfl

/-! ## State.modPart -/

@[simp] theorem State.modPart_clock (s : State) (p : Nat) (f : Part → Part) : (s.modPart p f).clock = s.clock := rfl
@[simp] theorem State.modPart_decks (s : State) (p : Nat) (f : Part → Part) : (s.modPart p f).decks = s.decks := rfl
@[simp] theorem State.modPart_tiles (s : State) (p : Nat) (f : Part → Part) : (s.modPart p f).tiles = s.tiles := rfl
@[simp] theorem State.modPart_cur (s : State) (p : Nat) (f : Part → Part) : (s.modPart p f).cur = s.cur := rfl
@[simp] theorem State.modPart_arg (s : State) (p : Nat) (f : Part → Part) : (s.modPart p f).arg = s.arg := rfl
@[simp] theorem State.modPart_inputs (s : State) (p : Nat) (f : Part → Part) : (s.modPart p f).inputs = s.inputs := rfl
@[simp] theorem State.modPart_agenda (s : State) (p : Nat) (f : Part → Part) : (s.modPart p f).agenda = s.agenda := rfl
@[simp] theorem State.modPart_slots (s : State) (p : Nat) (f : Part → Part) : (s.modPart p f).slots = s.slots := rfl
@[simp] theorem State.modPart_fresh (s : State) (p : Nat) (f : Part → Part) : (s.modPart p f).fresh = s.fresh := rfl
@[simp] theorem State.modPart_keys (s : State) (p : Nat) (f : Part → Part) : (s.modPart p f).keys = s.keys := rfl
@[simp] theorem State.modPart_reports (s : State) (p : Nat) (f : Part → Part) : (s.modPart p f).reports = s.reports := rfl
@[simp] theorem State.modPart_host (s : State) (p : Nat) (f : Part → Part) : (s.modPart p f).host = s.host := rfl
@[simp] theorem State.modPart_hostFog (s : State) (p : Nat) (f : Part → Part) : (s.modPart p f).hostFog = s.hostFog := rfl
@[simp] theorem State.modPart_hostTimeout (s : State) (p : Nat) (f : Part → Part) : (s.modPart p f).hostTimeout = s.hostTimeout := rfl
@[simp] theorem State.modPart_irqs (s : State) (p : Nat) (f : Part → Part) : (s.modPart p f).irqs = s.irqs := rfl
@[simp] theorem State.modPart_hops (s : State) (p : Nat) (f : Part → Part) : (s.modPart p f).hops = s.hops := rfl
@[simp] theorem State.modPart_routers (s : State) (p : Nat) (f : Part → Part) : (s.modPart p f).routers = s.routers := rfl
@[simp] theorem State.modPart_gw (s : State) (p : Nat) (f : Part → Part) : (s.modPart p f).gw = s.gw := rfl
@[simp] theorem State.modPart_md (s : State) (p : Nat) (f : Part → Part) : (s.modPart p f).md = s.md := rfl

/-! ## State.modCtx -/

@[simp] theorem State.modCtx_clock (s : State) (p c : Nat) (f : Ctx → Ctx) : (s.modCtx p c f).clock = s.clock := rfl
@[simp] theorem State.modCtx_decks (s : State) (p c : Nat) (f : Ctx → Ctx) : (s.modCtx p c f).decks = s.decks := rfl
@[simp] theorem State.modCtx_tiles (s : State) (p c : Nat) (f : Ctx → Ctx) : (s.modCtx p c f).tiles = s.tiles := rfl
@[simp] theorem State.modCtx_cur (s : State) (p c : Nat) (f : Ctx → Ctx) : (s.modCtx p c f).cur = s.cur := rfl
@[simp] theorem State.modCtx_arg (s : State) (p c : Nat) (f : Ctx → Ctx) : (s.modCtx p c f).arg = s.arg := rfl
@[simp] theorem State.modCtx_inputs (s : State) (p c : Nat) (f : Ctx → Ctx) : (s.modCtx p c f).inputs = s.inputs := rfl
@[simp] theorem State.modCtx_agenda (s : State) (p c : Nat) (f : Ctx → Ctx) : (s.modCtx p c f).agenda = s.agenda := rfl
@[simp] theorem State.modCtx_slots (s : State) (p c : Nat) (f : Ctx → Ctx) : (s.modCtx p c f).slots = s.slots := rfl
@[simp] theorem State.modCtx_fresh (s : State) (p c : Nat) (f : Ctx → Ctx) : (s.modCtx p c f).fresh = s.fresh := rfl
@[simp] theorem State.modCtx_keys (s : State) (p c : Nat) (f : Ctx → Ctx) : (s.modCtx p c f).keys = s.keys := rfl
@[simp] theorem State.modCtx_reports (s : State) (p c : Nat) (f : Ctx → Ctx) : (s.modCtx p c f).reports = s.reports := rfl
@[simp] theorem State.modCtx_host (s : State) (p c : Nat) (f : Ctx → Ctx) : (s.modCtx p c f).host = s.host := rfl
@[simp] theorem State.modCtx_hostFog (s : State) (p c : Nat) (f : Ctx → Ctx) : (s.modCtx p c f).hostFog = s.hostFog := rfl
@[simp] theorem State.modCtx_hostTimeout (s : State) (p c : Nat) (f : Ctx → Ctx) : (s.modCtx p c f).hostTimeout = s.hostTimeout := rfl
@[simp] theorem State.modCtx_irqs (s : State) (p c : Nat) (f : Ctx → Ctx) : (s.modCtx p c f).irqs = s.irqs := rfl
@[simp] theorem State.modCtx_hops (s : State) (p c : Nat) (f : Ctx → Ctx) : (s.modCtx p c f).hops = s.hops := rfl
@[simp] theorem State.modCtx_routers (s : State) (p c : Nat) (f : Ctx → Ctx) : (s.modCtx p c f).routers = s.routers := rfl
@[simp] theorem State.modCtx_gw (s : State) (p c : Nat) (f : Ctx → Ctx) : (s.modCtx p c f).gw = s.gw := rfl
@[simp] theorem State.modCtx_md (s : State) (p c : Nat) (f : Ctx → Ctx) : (s.modCtx p c f).md = s.md := rfl

/-! ## State.modMd -/

@[simp] theorem State.modMd_clock (s : State) (f : Module → Module) : (s.modMd f).clock = s.clock := rfl
@[simp] theorem State.modMd_decks (s : State) (f : Module → Module) : (s.modMd f).decks = s.decks := rfl
@[simp] theorem State.modMd_tiles (s : State) (f : Module → Module) : (s.modMd f).tiles = s.tiles := rfl
@[simp] theorem State.modMd_cur (s : State) (f : Module → Module) : (s.modMd f).cur = s.cur := rfl
@[simp] theorem State.modMd_arg (s : State) (f : Module → Module) : (s.modMd f).arg = s.arg := rfl
@[simp] theorem State.modMd_inputs (s : State) (f : Module → Module) : (s.modMd f).inputs = s.inputs := rfl
@[simp] theorem State.modMd_agenda (s : State) (f : Module → Module) : (s.modMd f).agenda = s.agenda := rfl
@[simp] theorem State.modMd_slots (s : State) (f : Module → Module) : (s.modMd f).slots = s.slots := rfl
@[simp] theorem State.modMd_fresh (s : State) (f : Module → Module) : (s.modMd f).fresh = s.fresh := rfl
@[simp] theorem State.modMd_parts (s : State) (f : Module → Module) : (s.modMd f).parts = s.parts := rfl
@[simp] theorem State.modMd_keys (s : State) (f : Module → Module) : (s.modMd f).keys = s.keys := rfl
@[simp] theorem State.modMd_reports (s : State) (f : Module → Module) : (s.modMd f).reports = s.reports := rfl
@[simp] theorem State.modMd_host (s : State) (f : Module → Module) : (s.modMd f).host = s.host := rfl
@[simp] theorem State.modMd_hostFog (s : State) (f : Module → Module) : (s.modMd f).hostFog = s.hostFog := rfl
@[simp] theorem State.modMd_hostTimeout (s : State) (f : Module → Module) : (s.modMd f).hostTimeout = s.hostTimeout := rfl
@[simp] theorem State.modMd_irqs (s : State) (f : Module → Module) : (s.modMd f).irqs = s.irqs := rfl
@[simp] theorem State.modMd_hops (s : State) (f : Module → Module) : (s.modMd f).hops = s.hops := rfl
@[simp] theorem State.modMd_routers (s : State) (f : Module → Module) : (s.modMd f).routers = s.routers := rfl
@[simp] theorem State.modMd_gw (s : State) (f : Module → Module) : (s.modMd f).gw = s.gw := rfl

/-! ## State.atTile -/

@[simp] theorem State.atTile_clock (s : State) (t d : Nat) (i : Instr) (r : ThreadRef) (a : Args) (b : Bool) : (s.atTile t d i r a b).clock = s.clock := rfl
@[simp] theorem State.atTile_decks (s : State) (t d : Nat) (i : Instr) (r : ThreadRef) (a : Args) (b : Bool) : (s.atTile t d i r a b).decks = s.decks := rfl
@[simp] theorem State.atTile_tiles (s : State) (t d : Nat) (i : Instr) (r : ThreadRef) (a : Args) (b : Bool) : (s.atTile t d i r a b).tiles = s.tiles := rfl
@[simp] theorem State.atTile_cur (s : State) (t d : Nat) (i : Instr) (r : ThreadRef) (a : Args) (b : Bool) : (s.atTile t d i r a b).cur = s.cur := rfl
@[simp] theorem State.atTile_arg (s : State) (t d : Nat) (i : Instr) (r : ThreadRef) (a : Args) (b : Bool) : (s.atTile t d i r a b).arg = s.arg := rfl
@[simp] theorem State.atTile_inputs (s : State) (t d : Nat) (i : Instr) (r : ThreadRef) (a : Args) (b : Bool) : (s.atTile t d i r a b).inputs = s.inputs := rfl
@[simp] theorem State.atTile_slots (s : State) (t d : Nat) (i : Instr) (r : ThreadRef) (a : Args) (b : Bool) : (s.atTile t d i r a b).slots = s.slots := rfl
@[simp] theorem State.atTile_fresh (s : State) (t d : Nat) (i : Instr) (r : ThreadRef) (a : Args) (b : Bool) : (s.atTile t d i r a b).fresh = s.fresh := rfl
@[simp] theorem State.atTile_parts (s : State) (t d : Nat) (i : Instr) (r : ThreadRef) (a : Args) (b : Bool) : (s.atTile t d i r a b).parts = s.parts := rfl
@[simp] theorem State.atTile_keys (s : State) (t d : Nat) (i : Instr) (r : ThreadRef) (a : Args) (b : Bool) : (s.atTile t d i r a b).keys = s.keys := rfl
@[simp] theorem State.atTile_reports (s : State) (t d : Nat) (i : Instr) (r : ThreadRef) (a : Args) (b : Bool) : (s.atTile t d i r a b).reports = s.reports := rfl
@[simp] theorem State.atTile_host (s : State) (t d : Nat) (i : Instr) (r : ThreadRef) (a : Args) (b : Bool) : (s.atTile t d i r a b).host = s.host := rfl
@[simp] theorem State.atTile_hostFog (s : State) (t d : Nat) (i : Instr) (r : ThreadRef) (a : Args) (b : Bool) : (s.atTile t d i r a b).hostFog = s.hostFog := rfl
@[simp] theorem State.atTile_hostTimeout (s : State) (t d : Nat) (i : Instr) (r : ThreadRef) (a : Args) (b : Bool) : (s.atTile t d i r a b).hostTimeout = s.hostTimeout := rfl
@[simp] theorem State.atTile_irqs (s : State) (t d : Nat) (i : Instr) (r : ThreadRef) (a : Args) (b : Bool) : (s.atTile t d i r a b).irqs = s.irqs := rfl
@[simp] theorem State.atTile_hops (s : State) (t d : Nat) (i : Instr) (r : ThreadRef) (a : Args) (b : Bool) : (s.atTile t d i r a b).hops = s.hops := rfl
@[simp] theorem State.atTile_routers (s : State) (t d : Nat) (i : Instr) (r : ThreadRef) (a : Args) (b : Bool) : (s.atTile t d i r a b).routers = s.routers := rfl
@[simp] theorem State.atTile_gw (s : State) (t d : Nat) (i : Instr) (r : ThreadRef) (a : Args) (b : Bool) : (s.atTile t d i r a b).gw = s.gw := rfl
@[simp] theorem State.atTile_md (s : State) (t d : Nat) (i : Instr) (r : ThreadRef) (a : Args) (b : Bool) : (s.atTile t d i r a b).md = s.md := rfl

/-! ## State.atRef -/

@[simp] theorem State.atRef_clock (s : State) (d : Nat) (i : Instr) (r : ThreadRef) (a : Args) : (s.atRef d i r a).clock = s.clock := rfl
@[simp] theorem State.atRef_decks (s : State) (d : Nat) (i : Instr) (r : ThreadRef) (a : Args) : (s.atRef d i r a).decks = s.decks := rfl
@[simp] theorem State.atRef_tiles (s : State) (d : Nat) (i : Instr) (r : ThreadRef) (a : Args) : (s.atRef d i r a).tiles = s.tiles := rfl
@[simp] theorem State.atRef_cur (s : State) (d : Nat) (i : Instr) (r : ThreadRef) (a : Args) : (s.atRef d i r a).cur = s.cur := rfl
@[simp] theorem State.atRef_arg (s : State) (d : Nat) (i : Instr) (r : ThreadRef) (a : Args) : (s.atRef d i r a).arg = s.arg := rfl
@[simp] theorem State.atRef_inputs (s : State) (d : Nat) (i : Instr) (r : ThreadRef) (a : Args) : (s.atRef d i r a).inputs = s.inputs := rfl
@[simp] theorem State.atRef_slots (s : State) (d : Nat) (i : Instr) (r : ThreadRef) (a : Args) : (s.atRef d i r a).slots = s.slots := rfl
@[simp] theorem State.atRef_fresh (s : State) (d : Nat) (i : Instr) (r : ThreadRef) (a : Args) : (s.atRef d i r a).fresh = s.fresh := rfl
@[simp] theorem State.atRef_parts (s : State) (d : Nat) (i : Instr) (r : ThreadRef) (a : Args) : (s.atRef d i r a).parts = s.parts := rfl
@[simp] theorem State.atRef_keys (s : State) (d : Nat) (i : Instr) (r : ThreadRef) (a : Args) : (s.atRef d i r a).keys = s.keys := rfl
@[simp] theorem State.atRef_reports (s : State) (d : Nat) (i : Instr) (r : ThreadRef) (a : Args) : (s.atRef d i r a).reports = s.reports := rfl
@[simp] theorem State.atRef_host (s : State) (d : Nat) (i : Instr) (r : ThreadRef) (a : Args) : (s.atRef d i r a).host = s.host := rfl
@[simp] theorem State.atRef_hostFog (s : State) (d : Nat) (i : Instr) (r : ThreadRef) (a : Args) : (s.atRef d i r a).hostFog = s.hostFog := rfl
@[simp] theorem State.atRef_hostTimeout (s : State) (d : Nat) (i : Instr) (r : ThreadRef) (a : Args) : (s.atRef d i r a).hostTimeout = s.hostTimeout := rfl
@[simp] theorem State.atRef_irqs (s : State) (d : Nat) (i : Instr) (r : ThreadRef) (a : Args) : (s.atRef d i r a).irqs = s.irqs := rfl
@[simp] theorem State.atRef_hops (s : State) (d : Nat) (i : Instr) (r : ThreadRef) (a : Args) : (s.atRef d i r a).hops = s.hops := rfl
@[simp] theorem State.atRef_routers (s : State) (d : Nat) (i : Instr) (r : ThreadRef) (a : Args) : (s.atRef d i r a).routers = s.routers := rfl
@[simp] theorem State.atRef_gw (s : State) (d : Nat) (i : Instr) (r : ThreadRef) (a : Args) : (s.atRef d i r a).gw = s.gw := rfl
@[simp] theorem State.atRef_md (s : State) (d : Nat) (i : Instr) (r : ThreadRef) (a : Args) : (s.atRef d i r a).md = s.md := rfl

/-! ## State.takeFresh -/

@[simp] theorem State.takeFresh_clock (s : State) : s.takeFresh.2.clock = s.clock := rfl
@[simp] theorem State.takeFresh_decks (s : State) : s.takeFresh.2.decks = s.decks := rfl
@[simp] theorem State.takeFresh_tiles (s : State) : s.takeFresh.2.tiles = s.tiles := rfl
@[simp] theorem State.takeFresh_cur (s : State) : s.takeFresh.2.cur = s.cur := rfl
@[simp] theorem State.takeFresh_arg (s : State) : s.takeFresh.2.arg = s.arg := rfl
@[simp] theorem State.takeFresh_inputs (s : State) : s.takeFresh.2.inputs = s.inputs := rfl
@[simp] theorem State.takeFresh_agenda (s : State) : s.takeFresh.2.agenda = s.agenda := rfl
@[simp] theorem State.takeFresh_slots (s : State) : s.takeFresh.2.slots = s.slots := rfl
@[simp] theorem State.takeFresh_parts (s : State) : s.takeFresh.2.parts = s.parts := rfl
@[simp] theorem State.takeFresh_keys (s : State) : s.takeFresh.2.keys = s.keys := rfl
@[simp] theorem State.takeFresh_reports (s : State) : s.takeFresh.2.reports = s.reports := rfl
@[simp] theorem State.takeFresh_host (s : State) : s.takeFresh.2.host = s.host := rfl
@[simp] theorem State.takeFresh_hostFog (s : State) : s.takeFresh.2.hostFog = s.hostFog := rfl
@[simp] theorem State.takeFresh_hostTimeout (s : State) : s.takeFresh.2.hostTimeout = s.hostTimeout := rfl
@[simp] theorem State.takeFresh_irqs (s : State) : s.takeFresh.2.irqs = s.irqs := rfl
@[simp] theorem State.takeFresh_hops (s : State) : s.takeFresh.2.hops = s.hops := rfl
@[simp] theorem State.takeFresh_routers (s : State) : s.takeFresh.2.routers = s.routers := rfl
@[simp] theorem State.takeFresh_gw (s : State) : s.takeFresh.2.gw = s.gw := rfl
@[simp] theorem State.takeFresh_md (s : State) : s.takeFresh.2.md = s.md := rfl

/-! ## Tile.modCore -/

@[simp] theorem Tile.modCore_launch (x : Tile) (c : Fin 8) (f : Core → Core) : (x.modCore c f).launch = x.launch := rfl
@[simp] theorem Tile.modCore_kperiod (x : Tile) (c : Fin 8) (f : Core → Core) : (x.modCore c f).kperiod = x.kperiod := rfl
@[simp] theorem Tile.modCore_kact (x : Tile) (c : Fin 8) (f : Core → Core) : (x.modCore c f).kact = x.kact := rfl
@[simp] theorem Tile.modCore_koverrun (x : Tile) (c : Fin 8) (f : Core → Core) : (x.modCore c f).koverrun = x.koverrun := rfl
@[simp] theorem Tile.modCore_alarmCount (x : Tile) (c : Fin 8) (f : Core → Core) : (x.modCore c f).alarmCount = x.alarmCount := rfl
@[simp] theorem Tile.modCore_alarm (x : Tile) (c : Fin 8) (f : Core → Core) : (x.modCore c f).alarm = x.alarm := rfl
@[simp] theorem Tile.modCore_kmxw (x : Tile) (c : Fin 8) (f : Core → Core) : (x.modCore c f).kmxw = x.kmxw := rfl
@[simp] theorem Tile.modCore_cells (x : Tile) (c : Fin 8) (f : Core → Core) : (x.modCore c f).cells = x.cells := rfl
@[simp] theorem Tile.modCore_actRuns (x : Tile) (c : Fin 8) (f : Core → Core) : (x.modCore c f).actRuns = x.actRuns := rfl
@[simp] theorem Tile.modCore_rootsLeft (x : Tile) (c : Fin 8) (f : Core → Core) : (x.modCore c f).rootsLeft = x.rootsLeft := rfl
@[simp] theorem Tile.modCore_drains (x : Tile) (c : Fin 8) (f : Core → Core) : (x.modCore c f).drains = x.drains := rfl
@[simp] theorem Tile.modCore_slice (x : Tile) (c : Fin 8) (f : Core → Core) : (x.modCore c f).slice = x.slice := rfl
@[simp] theorem Tile.modCore_sreqs (x : Tile) (c : Fin 8) (f : Core → Core) : (x.modCore c f).sreqs = x.sreqs := rfl
@[simp] theorem Tile.modCore_tlb (x : Tile) (c : Fin 8) (f : Core → Core) : (x.modCore c f).tlb = x.tlb := rfl
@[simp] theorem Tile.modCore_misses (x : Tile) (c : Fin 8) (f : Core → Core) : (x.modCore c f).misses = x.misses := rfl
@[simp] theorem Tile.modCore_copy (x : Tile) (c : Fin 8) (f : Core → Core) : (x.modCore c f).copy = x.copy := rfl
@[simp] theorem Tile.modCore_mx (x : Tile) (c : Fin 8) (f : Core → Core) : (x.modCore c f).mx = x.mx := rfl
@[simp] theorem Tile.modCore_ev (x : Tile) (c : Fin 8) (f : Core → Core) : (x.modCore c f).ev = x.ev := rfl
@[simp] theorem Tile.modCore_intake (x : Tile) (c : Fin 8) (f : Core → Core) : (x.modCore c f).intake = x.intake := rfl
@[simp] theorem Tile.modCore_cellLast (x : Tile) (c : Fin 8) (f : Core → Core) : (x.modCore c f).cellLast = x.cellLast := rfl
@[simp] theorem Tile.modCore_watchdog (x : Tile) (c : Fin 8) (f : Core → Core) : (x.modCore c f).watchdog = x.watchdog := rfl
@[simp] theorem Tile.modCore_accs (x : Tile) (c : Fin 8) (f : Core → Core) : (x.modCore c f).accs = x.accs := rfl
@[simp] theorem Tile.modCore_owners (x : Tile) (c : Fin 8) (f : Core → Core) : (x.modCore c f).owners = x.owners := rfl
@[simp] theorem Tile.modCore_tickDue (x : Tile) (c : Fin 8) (f : Core → Core) : (x.modCore c f).tickDue = x.tickDue := rfl
@[simp] theorem Tile.modCore_ticked (x : Tile) (c : Fin 8) (f : Core → Core) : (x.modCore c f).ticked = x.ticked := rfl
@[simp] theorem Tile.modCore_lastTick (x : Tile) (c : Fin 8) (f : Core → Core) : (x.modCore c f).lastTick = x.lastTick := rfl
@[simp] theorem Tile.modCore_stopping (x : Tile) (c : Fin 8) (f : Core → Core) : (x.modCore c f).stopping = x.stopping := rfl
@[simp] theorem Tile.modCore_frozen (x : Tile) (c : Fin 8) (f : Core → Core) : (x.modCore c f).frozen = x.frozen := rfl
@[simp] theorem Tile.modCore_missed (x : Tile) (c : Fin 8) (f : Core → Core) : (x.modCore c f).missed = x.missed := rfl
@[simp] theorem Tile.modCore_ueAt (x : Tile) (c : Fin 8) (f : Core → Core) : (x.modCore c f).ueAt = x.ueAt := rfl
@[simp] theorem Tile.modCore_ports (x : Tile) (c : Fin 8) (f : Core → Core) : (x.modCore c f).ports = x.ports := rfl

/-! ## Tile.modCopy -/

@[simp] theorem Tile.modCopy_cores (x : Tile) (f : CopyUnit → CopyUnit) : (x.modCopy f).cores = x.cores := rfl
@[simp] theorem Tile.modCopy_launch (x : Tile) (f : CopyUnit → CopyUnit) : (x.modCopy f).launch = x.launch := rfl
@[simp] theorem Tile.modCopy_kperiod (x : Tile) (f : CopyUnit → CopyUnit) : (x.modCopy f).kperiod = x.kperiod := rfl
@[simp] theorem Tile.modCopy_kact (x : Tile) (f : CopyUnit → CopyUnit) : (x.modCopy f).kact = x.kact := rfl
@[simp] theorem Tile.modCopy_koverrun (x : Tile) (f : CopyUnit → CopyUnit) : (x.modCopy f).koverrun = x.koverrun := rfl
@[simp] theorem Tile.modCopy_alarmCount (x : Tile) (f : CopyUnit → CopyUnit) : (x.modCopy f).alarmCount = x.alarmCount := rfl
@[simp] theorem Tile.modCopy_alarm (x : Tile) (f : CopyUnit → CopyUnit) : (x.modCopy f).alarm = x.alarm := rfl
@[simp] theorem Tile.modCopy_kmxw (x : Tile) (f : CopyUnit → CopyUnit) : (x.modCopy f).kmxw = x.kmxw := rfl
@[simp] theorem Tile.modCopy_cells (x : Tile) (f : CopyUnit → CopyUnit) : (x.modCopy f).cells = x.cells := rfl
@[simp] theorem Tile.modCopy_actRuns (x : Tile) (f : CopyUnit → CopyUnit) : (x.modCopy f).actRuns = x.actRuns := rfl
@[simp] theorem Tile.modCopy_rootsLeft (x : Tile) (f : CopyUnit → CopyUnit) : (x.modCopy f).rootsLeft = x.rootsLeft := rfl
@[simp] theorem Tile.modCopy_drains (x : Tile) (f : CopyUnit → CopyUnit) : (x.modCopy f).drains = x.drains := rfl
@[simp] theorem Tile.modCopy_slice (x : Tile) (f : CopyUnit → CopyUnit) : (x.modCopy f).slice = x.slice := rfl
@[simp] theorem Tile.modCopy_sreqs (x : Tile) (f : CopyUnit → CopyUnit) : (x.modCopy f).sreqs = x.sreqs := rfl
@[simp] theorem Tile.modCopy_tlb (x : Tile) (f : CopyUnit → CopyUnit) : (x.modCopy f).tlb = x.tlb := rfl
@[simp] theorem Tile.modCopy_misses (x : Tile) (f : CopyUnit → CopyUnit) : (x.modCopy f).misses = x.misses := rfl
@[simp] theorem Tile.modCopy_mx (x : Tile) (f : CopyUnit → CopyUnit) : (x.modCopy f).mx = x.mx := rfl
@[simp] theorem Tile.modCopy_ev (x : Tile) (f : CopyUnit → CopyUnit) : (x.modCopy f).ev = x.ev := rfl
@[simp] theorem Tile.modCopy_intake (x : Tile) (f : CopyUnit → CopyUnit) : (x.modCopy f).intake = x.intake := rfl
@[simp] theorem Tile.modCopy_cellLast (x : Tile) (f : CopyUnit → CopyUnit) : (x.modCopy f).cellLast = x.cellLast := rfl
@[simp] theorem Tile.modCopy_watchdog (x : Tile) (f : CopyUnit → CopyUnit) : (x.modCopy f).watchdog = x.watchdog := rfl
@[simp] theorem Tile.modCopy_accs (x : Tile) (f : CopyUnit → CopyUnit) : (x.modCopy f).accs = x.accs := rfl
@[simp] theorem Tile.modCopy_owners (x : Tile) (f : CopyUnit → CopyUnit) : (x.modCopy f).owners = x.owners := rfl
@[simp] theorem Tile.modCopy_tickDue (x : Tile) (f : CopyUnit → CopyUnit) : (x.modCopy f).tickDue = x.tickDue := rfl
@[simp] theorem Tile.modCopy_ticked (x : Tile) (f : CopyUnit → CopyUnit) : (x.modCopy f).ticked = x.ticked := rfl
@[simp] theorem Tile.modCopy_lastTick (x : Tile) (f : CopyUnit → CopyUnit) : (x.modCopy f).lastTick = x.lastTick := rfl
@[simp] theorem Tile.modCopy_stopping (x : Tile) (f : CopyUnit → CopyUnit) : (x.modCopy f).stopping = x.stopping := rfl
@[simp] theorem Tile.modCopy_frozen (x : Tile) (f : CopyUnit → CopyUnit) : (x.modCopy f).frozen = x.frozen := rfl
@[simp] theorem Tile.modCopy_missed (x : Tile) (f : CopyUnit → CopyUnit) : (x.modCopy f).missed = x.missed := rfl
@[simp] theorem Tile.modCopy_ueAt (x : Tile) (f : CopyUnit → CopyUnit) : (x.modCopy f).ueAt = x.ueAt := rfl
@[simp] theorem Tile.modCopy_ports (x : Tile) (f : CopyUnit → CopyUnit) : (x.modCopy f).ports = x.ports := rfl

/-! ## Tile.modMx -/

@[simp] theorem Tile.modMx_cores (x : Tile) (f : Matrix → Matrix) : (x.modMx f).cores = x.cores := rfl
@[simp] theorem Tile.modMx_launch (x : Tile) (f : Matrix → Matrix) : (x.modMx f).launch = x.launch := rfl
@[simp] theorem Tile.modMx_kperiod (x : Tile) (f : Matrix → Matrix) : (x.modMx f).kperiod = x.kperiod := rfl
@[simp] theorem Tile.modMx_kact (x : Tile) (f : Matrix → Matrix) : (x.modMx f).kact = x.kact := rfl
@[simp] theorem Tile.modMx_koverrun (x : Tile) (f : Matrix → Matrix) : (x.modMx f).koverrun = x.koverrun := rfl
@[simp] theorem Tile.modMx_alarmCount (x : Tile) (f : Matrix → Matrix) : (x.modMx f).alarmCount = x.alarmCount := rfl
@[simp] theorem Tile.modMx_alarm (x : Tile) (f : Matrix → Matrix) : (x.modMx f).alarm = x.alarm := rfl
@[simp] theorem Tile.modMx_kmxw (x : Tile) (f : Matrix → Matrix) : (x.modMx f).kmxw = x.kmxw := rfl
@[simp] theorem Tile.modMx_cells (x : Tile) (f : Matrix → Matrix) : (x.modMx f).cells = x.cells := rfl
@[simp] theorem Tile.modMx_actRuns (x : Tile) (f : Matrix → Matrix) : (x.modMx f).actRuns = x.actRuns := rfl
@[simp] theorem Tile.modMx_rootsLeft (x : Tile) (f : Matrix → Matrix) : (x.modMx f).rootsLeft = x.rootsLeft := rfl
@[simp] theorem Tile.modMx_drains (x : Tile) (f : Matrix → Matrix) : (x.modMx f).drains = x.drains := rfl
@[simp] theorem Tile.modMx_slice (x : Tile) (f : Matrix → Matrix) : (x.modMx f).slice = x.slice := rfl
@[simp] theorem Tile.modMx_sreqs (x : Tile) (f : Matrix → Matrix) : (x.modMx f).sreqs = x.sreqs := rfl
@[simp] theorem Tile.modMx_tlb (x : Tile) (f : Matrix → Matrix) : (x.modMx f).tlb = x.tlb := rfl
@[simp] theorem Tile.modMx_misses (x : Tile) (f : Matrix → Matrix) : (x.modMx f).misses = x.misses := rfl
@[simp] theorem Tile.modMx_copy (x : Tile) (f : Matrix → Matrix) : (x.modMx f).copy = x.copy := rfl
@[simp] theorem Tile.modMx_ev (x : Tile) (f : Matrix → Matrix) : (x.modMx f).ev = x.ev := rfl
@[simp] theorem Tile.modMx_intake (x : Tile) (f : Matrix → Matrix) : (x.modMx f).intake = x.intake := rfl
@[simp] theorem Tile.modMx_cellLast (x : Tile) (f : Matrix → Matrix) : (x.modMx f).cellLast = x.cellLast := rfl
@[simp] theorem Tile.modMx_watchdog (x : Tile) (f : Matrix → Matrix) : (x.modMx f).watchdog = x.watchdog := rfl
@[simp] theorem Tile.modMx_accs (x : Tile) (f : Matrix → Matrix) : (x.modMx f).accs = x.accs := rfl
@[simp] theorem Tile.modMx_owners (x : Tile) (f : Matrix → Matrix) : (x.modMx f).owners = x.owners := rfl
@[simp] theorem Tile.modMx_tickDue (x : Tile) (f : Matrix → Matrix) : (x.modMx f).tickDue = x.tickDue := rfl
@[simp] theorem Tile.modMx_ticked (x : Tile) (f : Matrix → Matrix) : (x.modMx f).ticked = x.ticked := rfl
@[simp] theorem Tile.modMx_lastTick (x : Tile) (f : Matrix → Matrix) : (x.modMx f).lastTick = x.lastTick := rfl
@[simp] theorem Tile.modMx_stopping (x : Tile) (f : Matrix → Matrix) : (x.modMx f).stopping = x.stopping := rfl
@[simp] theorem Tile.modMx_frozen (x : Tile) (f : Matrix → Matrix) : (x.modMx f).frozen = x.frozen := rfl
@[simp] theorem Tile.modMx_missed (x : Tile) (f : Matrix → Matrix) : (x.modMx f).missed = x.missed := rfl
@[simp] theorem Tile.modMx_ueAt (x : Tile) (f : Matrix → Matrix) : (x.modMx f).ueAt = x.ueAt := rfl
@[simp] theorem Tile.modMx_ports (x : Tile) (f : Matrix → Matrix) : (x.modMx f).ports = x.ports := rfl

/-! ## Core.modThread -/

@[simp] theorem Core.modThread_lm (c : Core) (h : Fin 16) (f : Thread → Thread) : (c.modThread h f).lm = c.lm := rfl
@[simp] theorem Core.modThread_full (c : Core) (h : Fin 16) (f : Thread → Thread) : (c.modThread h f).full = c.full := rfl
@[simp] theorem Core.modThread_lmUE (c : Core) (h : Fin 16) (f : Thread → Thread) : (c.modThread h f).lmUE = c.lmUE := rfl
@[simp] theorem Core.modThread_sendq (c : Core) (h : Fin 16) (f : Thread → Thread) : (c.modThread h f).sendq = c.sendq := rfl
@[simp] theorem Core.modThread_recvq (c : Core) (h : Fin 16) (f : Thread → Thread) : (c.modThread h f).recvq = c.recvq := rfl
@[simp] theorem Core.modThread_t8 (c : Core) (h : Fin 16) (f : Thread → Thread) : (c.modThread h f).t8 = c.t8 := rfl
@[simp] theorem Core.modThread_t4 (c : Core) (h : Fin 16) (f : Thread → Thread) : (c.modThread h f).t4 = c.t4 := rfl
@[simp] theorem Core.modThread_tloads (c : Core) (h : Fin 16) (f : Thread → Thread) : (c.modThread h f).tloads = c.tloads := rfl
@[simp] theorem Core.modThread_tlast (c : Core) (h : Fin 16) (f : Thread → Thread) : (c.modThread h f).tlast = c.tlast := rfl
@[simp] theorem Core.modThread_area (c : Core) (h : Fin 16) (f : Thread → Thread) : (c.modThread h f).area = c.area := rfl
@[simp] theorem Core.modThread_deque (c : Core) (h : Fin 16) (f : Thread → Thread) : (c.modThread h f).deque = c.deque := rfl
@[simp] theorem Core.modThread_park (c : Core) (h : Fin 16) (f : Thread → Thread) : (c.modThread h f).park = c.park := rfl
@[simp] theorem Core.modThread_frames (c : Core) (h : Fin 16) (f : Thread → Thread) : (c.modThread h f).frames = c.frames := rfl
@[simp] theorem Core.modThread_displacing (c : Core) (h : Fin 16) (f : Thread → Thread) : (c.modThread h f).displacing = c.displacing := rfl
@[simp] theorem Core.modThread_picks (c : Core) (h : Fin 16) (f : Thread → Thread) : (c.modThread h f).picks = c.picks := rfl
@[simp] theorem Core.modThread_arrivals (c : Core) (h : Fin 16) (f : Thread → Thread) : (c.modThread h f).arrivals = c.arrivals := rfl
@[simp] theorem Core.modThread_nextRun (c : Core) (h : Fin 16) (f : Thread → Thread) : (c.modThread h f).nextRun = c.nextRun := rfl
@[simp] theorem Core.modThread_openRuns (c : Core) (h : Fin 16) (f : Thread → Thread) : (c.modThread h f).openRuns = c.openRuns := rfl
@[simp] theorem Core.modThread_stealing (c : Core) (h : Fin 16) (f : Thread → Thread) : (c.modThread h f).stealing = c.stealing := rfl
@[simp] theorem Core.modThread_stealBusy (c : Core) (h : Fin 16) (f : Thread → Thread) : (c.modThread h f).stealBusy = c.stealBusy := rfl
@[simp] theorem Core.modThread_stealNext (c : Core) (h : Fin 16) (f : Thread → Thread) : (c.modThread h f).stealNext = c.stealNext := rfl
@[simp] theorem Core.modThread_stealLast (c : Core) (h : Fin 16) (f : Thread → Thread) : (c.modThread h f).stealLast = c.stealLast := rfl
@[simp] theorem Core.modThread_lines (c : Core) (h : Fin 16) (f : Thread → Thread) : (c.modThread h f).lines = c.lines := rfl
@[simp] theorem Core.modThread_rolines (c : Core) (h : Fin 16) (f : Thread → Thread) : (c.modThread h f).rolines = c.rolines := rfl
@[simp] theorem Core.modThread_copyq (c : Core) (h : Fin 16) (f : Thread → Thread) : (c.modThread h f).copyq = c.copyq := rfl
@[simp] theorem Core.modThread_mxq (c : Core) (h : Fin 16) (f : Thread → Thread) : (c.modThread h f).mxq = c.mxq := rfl
@[simp] theorem Core.modThread_mxIssued (c : Core) (h : Fin 16) (f : Thread → Thread) : (c.modThread h f).mxIssued = c.mxIssued := rfl
@[simp] theorem Core.modThread_mxDone (c : Core) (h : Fin 16) (f : Thread → Thread) : (c.modThread h f).mxDone = c.mxDone := rfl
@[simp] theorem Core.modThread_evIssued (c : Core) (h : Fin 16) (f : Thread → Thread) : (c.modThread h f).evIssued = c.evIssued := rfl
@[simp] theorem Core.modThread_evDone (c : Core) (h : Fin 16) (f : Thread → Thread) : (c.modThread h f).evDone = c.evDone := rfl
@[simp] theorem Core.modThread_mxLate (c : Core) (h : Fin 16) (f : Thread → Thread) : (c.modThread h f).mxLate = c.mxLate := rfl
@[simp] theorem Core.modThread_mxFail (c : Core) (h : Fin 16) (f : Thread → Thread) : (c.modThread h f).mxFail = c.mxFail := rfl
@[simp] theorem Core.modThread_evFail (c : Core) (h : Fin 16) (f : Thread → Thread) : (c.modThread h f).evFail = c.evFail := rfl
@[simp] theorem Core.modThread_mxflags (c : Core) (h : Fin 16) (f : Thread → Thread) : (c.modThread h f).mxflags = c.mxflags := rfl
@[simp] theorem Core.modThread_posts (c : Core) (h : Fin 16) (f : Thread → Thread) : (c.modThread h f).posts = c.posts := rfl

/-! ## Thread.setS -/

@[simp] theorem Thread.setS_st (t : Thread) (r : SReg) (x : Word) : (t.setS r x).st = t.st := by
  unfold Thread.setS; split <;> rfl
@[simp] theorem Thread.setS_pc (t : Thread) (r : SReg) (x : Word) : (t.setS r x).pc = t.pc := by
  unfold Thread.setS; split <;> rfl
@[simp] theorem Thread.setS_v (t : Thread) (r : SReg) (x : Word) : (t.setS r x).v = t.v := by
  unfold Thread.setS; split <;> rfl
@[simp] theorem Thread.setS_p (t : Thread) (r : SReg) (x : Word) : (t.setS r x).p = t.p := by
  unfold Thread.setS; split <;> rfl
@[simp] theorem Thread.setS_look (t : Thread) (r : SReg) (x : Word) : (t.setS r x).look = t.look := by
  unfold Thread.setS; split <;> rfl
@[simp] theorem Thread.setS_outst (t : Thread) (r : SReg) (x : Word) : (t.setS r x).outst = t.outst := by
  unfold Thread.setS; split <;> rfl
@[simp] theorem Thread.setS_nextOp (t : Thread) (r : SReg) (x : Word) : (t.setS r x).nextOp = t.nextOp := by
  unfold Thread.setS; split <;> rfl
@[simp] theorem Thread.setS_held (t : Thread) (r : SReg) (x : Word) : (t.setS r x).held = t.held := by
  unfold Thread.setS; split <;> rfl
@[simp] theorem Thread.setS_trap (t : Thread) (r : SReg) (x : Word) : (t.setS r x).trap = t.trap := by
  unfold Thread.setS; split <;> rfl
@[simp] theorem Thread.setS_susp (t : Thread) (r : SReg) (x : Word) : (t.setS r x).susp = t.susp := by
  unfold Thread.setS; split <;> rfl
@[simp] theorem Thread.setS_tbm (t : Thread) (r : SReg) (x : Word) : (t.setS r x).tbm = t.tbm := by
  unfold Thread.setS; split <;> rfl
@[simp] theorem Thread.setS_fflags (t : Thread) (r : SReg) (x : Word) : (t.setS r x).fflags = t.fflags := by
  unfold Thread.setS; split <;> rfl
@[simp] theorem Thread.setS_frm (t : Thread) (r : SReg) (x : Word) : (t.setS r x).frm = t.frm := by
  unfold Thread.setS; split <;> rfl
@[simp] theorem Thread.setS_tpc (t : Thread) (r : SReg) (x : Word) : (t.setS r x).tpc = t.tpc := by
  unfold Thread.setS; split <;> rfl
@[simp] theorem Thread.setS_tinst (t : Thread) (r : SReg) (x : Word) : (t.setS r x).tinst = t.tinst := by
  unfold Thread.setS; split <;> rfl
@[simp] theorem Thread.setS_tcause (t : Thread) (r : SReg) (x : Word) : (t.setS r x).tcause = t.tcause := by
  unfold Thread.setS; split <;> rfl
@[simp] theorem Thread.setS_tval (t : Thread) (r : SReg) (x : Word) : (t.setS r x).tval = t.tval := by
  unfold Thread.setS; split <;> rfl
@[simp] theorem Thread.setS_ih (t : Thread) (r : SReg) (x : Word) : (t.setS r x).ih = t.ih := by
  unfold Thread.setS; split <;> rfl
@[simp] theorem Thread.setS_cxh (t : Thread) (r : SReg) (x : Word) : (t.setS r x).cxh = t.cxh := by
  unfold Thread.setS; split <;> rfl
@[simp] theorem Thread.setS_hcx (t : Thread) (r : SReg) (x : Word) : (t.setS r x).hcx = t.hcx := by
  unfold Thread.setS; split <;> rfl
@[simp] theorem Thread.setS_budget (t : Thread) (r : SReg) (x : Word) : (t.setS r x).budget = t.budget := by
  unfold Thread.setS; split <;> rfl
@[simp] theorem Thread.setS_cxWait (t : Thread) (r : SReg) (x : Word) : (t.setS r x).cxWait = t.cxWait := by
  unfold Thread.setS; split <;> rfl
@[simp] theorem Thread.setS_heldAsync (t : Thread) (r : SReg) (x : Word) : (t.setS r x).heldAsync = t.heldAsync := by
  unfold Thread.setS; split <;> rfl
@[simp] theorem Thread.setS_loopcnt (t : Thread) (r : SReg) (x : Word) : (t.setS r x).loopcnt = t.loopcnt := by
  unfold Thread.setS; split <;> rfl
@[simp] theorem Thread.setS_loopstart (t : Thread) (r : SReg) (x : Word) : (t.setS r x).loopstart = t.loopstart := by
  unfold Thread.setS; split <;> rfl
@[simp] theorem Thread.setS_loopend (t : Thread) (r : SReg) (x : Word) : (t.setS r x).loopend = t.loopend := by
  unfold Thread.setS; split <;> rfl
@[simp] theorem Thread.setS_watch (t : Thread) (r : SReg) (x : Word) : (t.setS r x).watch = t.watch := by
  unfold Thread.setS; split <;> rfl
@[simp] theorem Thread.setS_ready (t : Thread) (r : SReg) (x : Word) : (t.setS r x).ready = t.ready := by
  unfold Thread.setS; split <;> rfl
@[simp] theorem Thread.setS_mseq (t : Thread) (r : SReg) (x : Word) : (t.setS r x).mseq = t.mseq := by
  unfold Thread.setS; split <;> rfl
@[simp] theorem Thread.setS_cseq (t : Thread) (r : SReg) (x : Word) : (t.setS r x).cseq = t.cseq := by
  unfold Thread.setS; split <;> rfl
@[simp] theorem Thread.setS_resv (t : Thread) (r : SReg) (x : Word) : (t.setS r x).resv = t.resv := by
  unfold Thread.setS; split <;> rfl
@[simp] theorem Thread.setS_w1 (t : Thread) (r : SReg) (x : Word) : (t.setS r x).w1 = t.w1 := by
  unfold Thread.setS; split <;> rfl
@[simp] theorem Thread.setS_w2 (t : Thread) (r : SReg) (x : Word) : (t.setS r x).w2 = t.w2 := by
  unfold Thread.setS; split <;> rfl
@[simp] theorem Thread.setS_w3 (t : Thread) (r : SReg) (x : Word) : (t.setS r x).w3 = t.w3 := by
  unfold Thread.setS; split <;> rfl
@[simp] theorem Thread.setS_run (t : Thread) (r : SReg) (x : Word) : (t.setS r x).run = t.run := by
  unfold Thread.setS; split <;> rfl
@[simp] theorem Thread.setS_spawns (t : Thread) (r : SReg) (x : Word) : (t.setS r x).spawns = t.spawns := by
  unfold Thread.setS; split <;> rfl
@[simp] theorem Thread.setS_mig (t : Thread) (r : SReg) (x : Word) : (t.setS r x).mig = t.mig := by
  unfold Thread.setS; split <;> rfl
@[simp] theorem Thread.setS_noMig (t : Thread) (r : SReg) (x : Word) : (t.setS r x).noMig = t.noMig := by
  unfold Thread.setS; split <;> rfl
@[simp] theorem Thread.setS_msgUsed (t : Thread) (r : SReg) (x : Word) : (t.setS r x).msgUsed = t.msgUsed := by
  unfold Thread.setS; split <;> rfl
@[simp] theorem Thread.setS_picked (t : Thread) (r : SReg) (x : Word) : (t.setS r x).picked = t.picked := by
  unfold Thread.setS; split <;> rfl
@[simp] theorem Thread.setS_notBefore (t : Thread) (r : SReg) (x : Word) : (t.setS r x).notBefore = t.notBefore := by
  unfold Thread.setS; split <;> rfl
@[simp] theorem Thread.setS_strmWait (t : Thread) (r : SReg) (x : Word) : (t.setS r x).strmWait = t.strmWait := by
  unfold Thread.setS; split <;> rfl
@[simp] theorem Thread.setS_starved (t : Thread) (r : SReg) (x : Word) : (t.setS r x).starved = t.starved := by
  unfold Thread.setS; split <;> rfl
@[simp] theorem Thread.setS_laidOff (t : Thread) (r : SReg) (x : Word) : (t.setS r x).laidOff = t.laidOff := by
  unfold Thread.setS; split <;> rfl
@[simp] theorem Thread.setS_binds (t : Thread) (r : SReg) (x : Word) : (t.setS r x).binds = t.binds := by
  unfold Thread.setS; split <;> rfl
@[simp] theorem Thread.setS_owner (t : Thread) (r : SReg) (x : Word) : (t.setS r x).owner = t.owner := by
  unfold Thread.setS; split <;> rfl

/-! ## Thread.setV -/

@[simp] theorem Thread.setV_st (t : Thread) (r : VReg) (x : V256) : (t.setV r x).st = t.st := rfl
@[simp] theorem Thread.setV_pc (t : Thread) (r : VReg) (x : V256) : (t.setV r x).pc = t.pc := rfl
@[simp] theorem Thread.setV_s (t : Thread) (r : VReg) (x : V256) : (t.setV r x).s = t.s := rfl
@[simp] theorem Thread.setV_p (t : Thread) (r : VReg) (x : V256) : (t.setV r x).p = t.p := rfl
@[simp] theorem Thread.setV_look (t : Thread) (r : VReg) (x : V256) : (t.setV r x).look = t.look := rfl
@[simp] theorem Thread.setV_outst (t : Thread) (r : VReg) (x : V256) : (t.setV r x).outst = t.outst := rfl
@[simp] theorem Thread.setV_nextOp (t : Thread) (r : VReg) (x : V256) : (t.setV r x).nextOp = t.nextOp := rfl
@[simp] theorem Thread.setV_held (t : Thread) (r : VReg) (x : V256) : (t.setV r x).held = t.held := rfl
@[simp] theorem Thread.setV_trap (t : Thread) (r : VReg) (x : V256) : (t.setV r x).trap = t.trap := rfl
@[simp] theorem Thread.setV_susp (t : Thread) (r : VReg) (x : V256) : (t.setV r x).susp = t.susp := rfl
@[simp] theorem Thread.setV_tbm (t : Thread) (r : VReg) (x : V256) : (t.setV r x).tbm = t.tbm := rfl
@[simp] theorem Thread.setV_fflags (t : Thread) (r : VReg) (x : V256) : (t.setV r x).fflags = t.fflags := rfl
@[simp] theorem Thread.setV_frm (t : Thread) (r : VReg) (x : V256) : (t.setV r x).frm = t.frm := rfl
@[simp] theorem Thread.setV_tpc (t : Thread) (r : VReg) (x : V256) : (t.setV r x).tpc = t.tpc := rfl
@[simp] theorem Thread.setV_tinst (t : Thread) (r : VReg) (x : V256) : (t.setV r x).tinst = t.tinst := rfl
@[simp] theorem Thread.setV_tcause (t : Thread) (r : VReg) (x : V256) : (t.setV r x).tcause = t.tcause := rfl
@[simp] theorem Thread.setV_tval (t : Thread) (r : VReg) (x : V256) : (t.setV r x).tval = t.tval := rfl
@[simp] theorem Thread.setV_ih (t : Thread) (r : VReg) (x : V256) : (t.setV r x).ih = t.ih := rfl
@[simp] theorem Thread.setV_cxh (t : Thread) (r : VReg) (x : V256) : (t.setV r x).cxh = t.cxh := rfl
@[simp] theorem Thread.setV_hcx (t : Thread) (r : VReg) (x : V256) : (t.setV r x).hcx = t.hcx := rfl
@[simp] theorem Thread.setV_budget (t : Thread) (r : VReg) (x : V256) : (t.setV r x).budget = t.budget := rfl
@[simp] theorem Thread.setV_cxWait (t : Thread) (r : VReg) (x : V256) : (t.setV r x).cxWait = t.cxWait := rfl
@[simp] theorem Thread.setV_heldAsync (t : Thread) (r : VReg) (x : V256) : (t.setV r x).heldAsync = t.heldAsync := rfl
@[simp] theorem Thread.setV_loopcnt (t : Thread) (r : VReg) (x : V256) : (t.setV r x).loopcnt = t.loopcnt := rfl
@[simp] theorem Thread.setV_loopstart (t : Thread) (r : VReg) (x : V256) : (t.setV r x).loopstart = t.loopstart := rfl
@[simp] theorem Thread.setV_loopend (t : Thread) (r : VReg) (x : V256) : (t.setV r x).loopend = t.loopend := rfl
@[simp] theorem Thread.setV_watch (t : Thread) (r : VReg) (x : V256) : (t.setV r x).watch = t.watch := rfl
@[simp] theorem Thread.setV_ready (t : Thread) (r : VReg) (x : V256) : (t.setV r x).ready = t.ready := rfl
@[simp] theorem Thread.setV_mseq (t : Thread) (r : VReg) (x : V256) : (t.setV r x).mseq = t.mseq := rfl
@[simp] theorem Thread.setV_cseq (t : Thread) (r : VReg) (x : V256) : (t.setV r x).cseq = t.cseq := rfl
@[simp] theorem Thread.setV_resv (t : Thread) (r : VReg) (x : V256) : (t.setV r x).resv = t.resv := rfl
@[simp] theorem Thread.setV_w1 (t : Thread) (r : VReg) (x : V256) : (t.setV r x).w1 = t.w1 := rfl
@[simp] theorem Thread.setV_w2 (t : Thread) (r : VReg) (x : V256) : (t.setV r x).w2 = t.w2 := rfl
@[simp] theorem Thread.setV_w3 (t : Thread) (r : VReg) (x : V256) : (t.setV r x).w3 = t.w3 := rfl
@[simp] theorem Thread.setV_run (t : Thread) (r : VReg) (x : V256) : (t.setV r x).run = t.run := rfl
@[simp] theorem Thread.setV_spawns (t : Thread) (r : VReg) (x : V256) : (t.setV r x).spawns = t.spawns := rfl
@[simp] theorem Thread.setV_mig (t : Thread) (r : VReg) (x : V256) : (t.setV r x).mig = t.mig := rfl
@[simp] theorem Thread.setV_noMig (t : Thread) (r : VReg) (x : V256) : (t.setV r x).noMig = t.noMig := rfl
@[simp] theorem Thread.setV_msgUsed (t : Thread) (r : VReg) (x : V256) : (t.setV r x).msgUsed = t.msgUsed := rfl
@[simp] theorem Thread.setV_picked (t : Thread) (r : VReg) (x : V256) : (t.setV r x).picked = t.picked := rfl
@[simp] theorem Thread.setV_notBefore (t : Thread) (r : VReg) (x : V256) : (t.setV r x).notBefore = t.notBefore := rfl
@[simp] theorem Thread.setV_strmWait (t : Thread) (r : VReg) (x : V256) : (t.setV r x).strmWait = t.strmWait := rfl
@[simp] theorem Thread.setV_starved (t : Thread) (r : VReg) (x : V256) : (t.setV r x).starved = t.starved := rfl
@[simp] theorem Thread.setV_laidOff (t : Thread) (r : VReg) (x : V256) : (t.setV r x).laidOff = t.laidOff := rfl
@[simp] theorem Thread.setV_binds (t : Thread) (r : VReg) (x : V256) : (t.setV r x).binds = t.binds := rfl
@[simp] theorem Thread.setV_owner (t : Thread) (r : VReg) (x : V256) : (t.setV r x).owner = t.owner := rfl

/-! ## Thread.setP -/

@[simp] theorem Thread.setP_st (t : Thread) (r : PReg) (x : Bool) : (t.setP r x).st = t.st := by
  unfold Thread.setP; split <;> rfl
@[simp] theorem Thread.setP_pc (t : Thread) (r : PReg) (x : Bool) : (t.setP r x).pc = t.pc := by
  unfold Thread.setP; split <;> rfl
@[simp] theorem Thread.setP_s (t : Thread) (r : PReg) (x : Bool) : (t.setP r x).s = t.s := by
  unfold Thread.setP; split <;> rfl
@[simp] theorem Thread.setP_v (t : Thread) (r : PReg) (x : Bool) : (t.setP r x).v = t.v := by
  unfold Thread.setP; split <;> rfl
@[simp] theorem Thread.setP_look (t : Thread) (r : PReg) (x : Bool) : (t.setP r x).look = t.look := by
  unfold Thread.setP; split <;> rfl
@[simp] theorem Thread.setP_outst (t : Thread) (r : PReg) (x : Bool) : (t.setP r x).outst = t.outst := by
  unfold Thread.setP; split <;> rfl
@[simp] theorem Thread.setP_nextOp (t : Thread) (r : PReg) (x : Bool) : (t.setP r x).nextOp = t.nextOp := by
  unfold Thread.setP; split <;> rfl
@[simp] theorem Thread.setP_held (t : Thread) (r : PReg) (x : Bool) : (t.setP r x).held = t.held := by
  unfold Thread.setP; split <;> rfl
@[simp] theorem Thread.setP_trap (t : Thread) (r : PReg) (x : Bool) : (t.setP r x).trap = t.trap := by
  unfold Thread.setP; split <;> rfl
@[simp] theorem Thread.setP_susp (t : Thread) (r : PReg) (x : Bool) : (t.setP r x).susp = t.susp := by
  unfold Thread.setP; split <;> rfl
@[simp] theorem Thread.setP_tbm (t : Thread) (r : PReg) (x : Bool) : (t.setP r x).tbm = t.tbm := by
  unfold Thread.setP; split <;> rfl
@[simp] theorem Thread.setP_fflags (t : Thread) (r : PReg) (x : Bool) : (t.setP r x).fflags = t.fflags := by
  unfold Thread.setP; split <;> rfl
@[simp] theorem Thread.setP_frm (t : Thread) (r : PReg) (x : Bool) : (t.setP r x).frm = t.frm := by
  unfold Thread.setP; split <;> rfl
@[simp] theorem Thread.setP_tpc (t : Thread) (r : PReg) (x : Bool) : (t.setP r x).tpc = t.tpc := by
  unfold Thread.setP; split <;> rfl
@[simp] theorem Thread.setP_tinst (t : Thread) (r : PReg) (x : Bool) : (t.setP r x).tinst = t.tinst := by
  unfold Thread.setP; split <;> rfl
@[simp] theorem Thread.setP_tcause (t : Thread) (r : PReg) (x : Bool) : (t.setP r x).tcause = t.tcause := by
  unfold Thread.setP; split <;> rfl
@[simp] theorem Thread.setP_tval (t : Thread) (r : PReg) (x : Bool) : (t.setP r x).tval = t.tval := by
  unfold Thread.setP; split <;> rfl
@[simp] theorem Thread.setP_ih (t : Thread) (r : PReg) (x : Bool) : (t.setP r x).ih = t.ih := by
  unfold Thread.setP; split <;> rfl
@[simp] theorem Thread.setP_cxh (t : Thread) (r : PReg) (x : Bool) : (t.setP r x).cxh = t.cxh := by
  unfold Thread.setP; split <;> rfl
@[simp] theorem Thread.setP_hcx (t : Thread) (r : PReg) (x : Bool) : (t.setP r x).hcx = t.hcx := by
  unfold Thread.setP; split <;> rfl
@[simp] theorem Thread.setP_budget (t : Thread) (r : PReg) (x : Bool) : (t.setP r x).budget = t.budget := by
  unfold Thread.setP; split <;> rfl
@[simp] theorem Thread.setP_cxWait (t : Thread) (r : PReg) (x : Bool) : (t.setP r x).cxWait = t.cxWait := by
  unfold Thread.setP; split <;> rfl
@[simp] theorem Thread.setP_heldAsync (t : Thread) (r : PReg) (x : Bool) : (t.setP r x).heldAsync = t.heldAsync := by
  unfold Thread.setP; split <;> rfl
@[simp] theorem Thread.setP_loopcnt (t : Thread) (r : PReg) (x : Bool) : (t.setP r x).loopcnt = t.loopcnt := by
  unfold Thread.setP; split <;> rfl
@[simp] theorem Thread.setP_loopstart (t : Thread) (r : PReg) (x : Bool) : (t.setP r x).loopstart = t.loopstart := by
  unfold Thread.setP; split <;> rfl
@[simp] theorem Thread.setP_loopend (t : Thread) (r : PReg) (x : Bool) : (t.setP r x).loopend = t.loopend := by
  unfold Thread.setP; split <;> rfl
@[simp] theorem Thread.setP_watch (t : Thread) (r : PReg) (x : Bool) : (t.setP r x).watch = t.watch := by
  unfold Thread.setP; split <;> rfl
@[simp] theorem Thread.setP_ready (t : Thread) (r : PReg) (x : Bool) : (t.setP r x).ready = t.ready := by
  unfold Thread.setP; split <;> rfl
@[simp] theorem Thread.setP_mseq (t : Thread) (r : PReg) (x : Bool) : (t.setP r x).mseq = t.mseq := by
  unfold Thread.setP; split <;> rfl
@[simp] theorem Thread.setP_cseq (t : Thread) (r : PReg) (x : Bool) : (t.setP r x).cseq = t.cseq := by
  unfold Thread.setP; split <;> rfl
@[simp] theorem Thread.setP_resv (t : Thread) (r : PReg) (x : Bool) : (t.setP r x).resv = t.resv := by
  unfold Thread.setP; split <;> rfl
@[simp] theorem Thread.setP_w1 (t : Thread) (r : PReg) (x : Bool) : (t.setP r x).w1 = t.w1 := by
  unfold Thread.setP; split <;> rfl
@[simp] theorem Thread.setP_w2 (t : Thread) (r : PReg) (x : Bool) : (t.setP r x).w2 = t.w2 := by
  unfold Thread.setP; split <;> rfl
@[simp] theorem Thread.setP_w3 (t : Thread) (r : PReg) (x : Bool) : (t.setP r x).w3 = t.w3 := by
  unfold Thread.setP; split <;> rfl
@[simp] theorem Thread.setP_run (t : Thread) (r : PReg) (x : Bool) : (t.setP r x).run = t.run := by
  unfold Thread.setP; split <;> rfl
@[simp] theorem Thread.setP_spawns (t : Thread) (r : PReg) (x : Bool) : (t.setP r x).spawns = t.spawns := by
  unfold Thread.setP; split <;> rfl
@[simp] theorem Thread.setP_mig (t : Thread) (r : PReg) (x : Bool) : (t.setP r x).mig = t.mig := by
  unfold Thread.setP; split <;> rfl
@[simp] theorem Thread.setP_noMig (t : Thread) (r : PReg) (x : Bool) : (t.setP r x).noMig = t.noMig := by
  unfold Thread.setP; split <;> rfl
@[simp] theorem Thread.setP_msgUsed (t : Thread) (r : PReg) (x : Bool) : (t.setP r x).msgUsed = t.msgUsed := by
  unfold Thread.setP; split <;> rfl
@[simp] theorem Thread.setP_picked (t : Thread) (r : PReg) (x : Bool) : (t.setP r x).picked = t.picked := by
  unfold Thread.setP; split <;> rfl
@[simp] theorem Thread.setP_notBefore (t : Thread) (r : PReg) (x : Bool) : (t.setP r x).notBefore = t.notBefore := by
  unfold Thread.setP; split <;> rfl
@[simp] theorem Thread.setP_strmWait (t : Thread) (r : PReg) (x : Bool) : (t.setP r x).strmWait = t.strmWait := by
  unfold Thread.setP; split <;> rfl
@[simp] theorem Thread.setP_starved (t : Thread) (r : PReg) (x : Bool) : (t.setP r x).starved = t.starved := by
  unfold Thread.setP; split <;> rfl
@[simp] theorem Thread.setP_laidOff (t : Thread) (r : PReg) (x : Bool) : (t.setP r x).laidOff = t.laidOff := by
  unfold Thread.setP; split <;> rfl
@[simp] theorem Thread.setP_binds (t : Thread) (r : PReg) (x : Bool) : (t.setP r x).binds = t.binds := by
  unfold Thread.setP; split <;> rfl
@[simp] theorem Thread.setP_owner (t : Thread) (r : PReg) (x : Bool) : (t.setP r x).owner = t.owner := by
  unfold Thread.setP; split <;> rfl

/-! ## Thread.addFlags -/

@[simp] theorem Thread.addFlags_st (t : Thread) (f : BitVec 5) : (t.addFlags f).st = t.st := rfl
@[simp] theorem Thread.addFlags_pc (t : Thread) (f : BitVec 5) : (t.addFlags f).pc = t.pc := rfl
@[simp] theorem Thread.addFlags_s (t : Thread) (f : BitVec 5) : (t.addFlags f).s = t.s := rfl
@[simp] theorem Thread.addFlags_v (t : Thread) (f : BitVec 5) : (t.addFlags f).v = t.v := rfl
@[simp] theorem Thread.addFlags_p (t : Thread) (f : BitVec 5) : (t.addFlags f).p = t.p := rfl
@[simp] theorem Thread.addFlags_look (t : Thread) (f : BitVec 5) : (t.addFlags f).look = t.look := rfl
@[simp] theorem Thread.addFlags_outst (t : Thread) (f : BitVec 5) : (t.addFlags f).outst = t.outst := rfl
@[simp] theorem Thread.addFlags_nextOp (t : Thread) (f : BitVec 5) : (t.addFlags f).nextOp = t.nextOp := rfl
@[simp] theorem Thread.addFlags_held (t : Thread) (f : BitVec 5) : (t.addFlags f).held = t.held := rfl
@[simp] theorem Thread.addFlags_trap (t : Thread) (f : BitVec 5) : (t.addFlags f).trap = t.trap := rfl
@[simp] theorem Thread.addFlags_susp (t : Thread) (f : BitVec 5) : (t.addFlags f).susp = t.susp := rfl
@[simp] theorem Thread.addFlags_tbm (t : Thread) (f : BitVec 5) : (t.addFlags f).tbm = t.tbm := rfl
@[simp] theorem Thread.addFlags_frm (t : Thread) (f : BitVec 5) : (t.addFlags f).frm = t.frm := rfl
@[simp] theorem Thread.addFlags_tpc (t : Thread) (f : BitVec 5) : (t.addFlags f).tpc = t.tpc := rfl
@[simp] theorem Thread.addFlags_tinst (t : Thread) (f : BitVec 5) : (t.addFlags f).tinst = t.tinst := rfl
@[simp] theorem Thread.addFlags_tcause (t : Thread) (f : BitVec 5) : (t.addFlags f).tcause = t.tcause := rfl
@[simp] theorem Thread.addFlags_tval (t : Thread) (f : BitVec 5) : (t.addFlags f).tval = t.tval := rfl
@[simp] theorem Thread.addFlags_ih (t : Thread) (f : BitVec 5) : (t.addFlags f).ih = t.ih := rfl
@[simp] theorem Thread.addFlags_cxh (t : Thread) (f : BitVec 5) : (t.addFlags f).cxh = t.cxh := rfl
@[simp] theorem Thread.addFlags_hcx (t : Thread) (f : BitVec 5) : (t.addFlags f).hcx = t.hcx := rfl
@[simp] theorem Thread.addFlags_budget (t : Thread) (f : BitVec 5) : (t.addFlags f).budget = t.budget := rfl
@[simp] theorem Thread.addFlags_cxWait (t : Thread) (f : BitVec 5) : (t.addFlags f).cxWait = t.cxWait := rfl
@[simp] theorem Thread.addFlags_heldAsync (t : Thread) (f : BitVec 5) : (t.addFlags f).heldAsync = t.heldAsync := rfl
@[simp] theorem Thread.addFlags_loopcnt (t : Thread) (f : BitVec 5) : (t.addFlags f).loopcnt = t.loopcnt := rfl
@[simp] theorem Thread.addFlags_loopstart (t : Thread) (f : BitVec 5) : (t.addFlags f).loopstart = t.loopstart := rfl
@[simp] theorem Thread.addFlags_loopend (t : Thread) (f : BitVec 5) : (t.addFlags f).loopend = t.loopend := rfl
@[simp] theorem Thread.addFlags_watch (t : Thread) (f : BitVec 5) : (t.addFlags f).watch = t.watch := rfl
@[simp] theorem Thread.addFlags_ready (t : Thread) (f : BitVec 5) : (t.addFlags f).ready = t.ready := rfl
@[simp] theorem Thread.addFlags_mseq (t : Thread) (f : BitVec 5) : (t.addFlags f).mseq = t.mseq := rfl
@[simp] theorem Thread.addFlags_cseq (t : Thread) (f : BitVec 5) : (t.addFlags f).cseq = t.cseq := rfl
@[simp] theorem Thread.addFlags_resv (t : Thread) (f : BitVec 5) : (t.addFlags f).resv = t.resv := rfl
@[simp] theorem Thread.addFlags_w1 (t : Thread) (f : BitVec 5) : (t.addFlags f).w1 = t.w1 := rfl
@[simp] theorem Thread.addFlags_w2 (t : Thread) (f : BitVec 5) : (t.addFlags f).w2 = t.w2 := rfl
@[simp] theorem Thread.addFlags_w3 (t : Thread) (f : BitVec 5) : (t.addFlags f).w3 = t.w3 := rfl
@[simp] theorem Thread.addFlags_run (t : Thread) (f : BitVec 5) : (t.addFlags f).run = t.run := rfl
@[simp] theorem Thread.addFlags_spawns (t : Thread) (f : BitVec 5) : (t.addFlags f).spawns = t.spawns := rfl
@[simp] theorem Thread.addFlags_mig (t : Thread) (f : BitVec 5) : (t.addFlags f).mig = t.mig := rfl
@[simp] theorem Thread.addFlags_noMig (t : Thread) (f : BitVec 5) : (t.addFlags f).noMig = t.noMig := rfl
@[simp] theorem Thread.addFlags_msgUsed (t : Thread) (f : BitVec 5) : (t.addFlags f).msgUsed = t.msgUsed := rfl
@[simp] theorem Thread.addFlags_picked (t : Thread) (f : BitVec 5) : (t.addFlags f).picked = t.picked := rfl
@[simp] theorem Thread.addFlags_notBefore (t : Thread) (f : BitVec 5) : (t.addFlags f).notBefore = t.notBefore := rfl
@[simp] theorem Thread.addFlags_strmWait (t : Thread) (f : BitVec 5) : (t.addFlags f).strmWait = t.strmWait := rfl
@[simp] theorem Thread.addFlags_starved (t : Thread) (f : BitVec 5) : (t.addFlags f).starved = t.starved := rfl
@[simp] theorem Thread.addFlags_laidOff (t : Thread) (f : BitVec 5) : (t.addFlags f).laidOff = t.laidOff := rfl
@[simp] theorem Thread.addFlags_binds (t : Thread) (f : BitVec 5) : (t.addFlags f).binds = t.binds := rfl
@[simp] theorem Thread.addFlags_owner (t : Thread) (f : BitVec 5) : (t.addFlags f).owner = t.owner := rfl

/-! ## Thread.goto -/

@[simp] theorem Thread.goto_st (t : Thread) (a : Word) : (t.goto a).st = t.st := rfl
@[simp] theorem Thread.goto_s (t : Thread) (a : Word) : (t.goto a).s = t.s := rfl
@[simp] theorem Thread.goto_v (t : Thread) (a : Word) : (t.goto a).v = t.v := rfl
@[simp] theorem Thread.goto_p (t : Thread) (a : Word) : (t.goto a).p = t.p := rfl
@[simp] theorem Thread.goto_look (t : Thread) (a : Word) : (t.goto a).look = t.look := rfl
@[simp] theorem Thread.goto_outst (t : Thread) (a : Word) : (t.goto a).outst = t.outst := rfl
@[simp] theorem Thread.goto_nextOp (t : Thread) (a : Word) : (t.goto a).nextOp = t.nextOp := rfl
@[simp] theorem Thread.goto_trap (t : Thread) (a : Word) : (t.goto a).trap = t.trap := rfl
@[simp] theorem Thread.goto_susp (t : Thread) (a : Word) : (t.goto a).susp = t.susp := rfl
@[simp] theorem Thread.goto_tbm (t : Thread) (a : Word) : (t.goto a).tbm = t.tbm := rfl
@[simp] theorem Thread.goto_fflags (t : Thread) (a : Word) : (t.goto a).fflags = t.fflags := rfl
@[simp] theorem Thread.goto_frm (t : Thread) (a : Word) : (t.goto a).frm = t.frm := rfl
@[simp] theorem Thread.goto_tpc (t : Thread) (a : Word) : (t.goto a).tpc = t.tpc := rfl
@[simp] theorem Thread.goto_tinst (t : Thread) (a : Word) : (t.goto a).tinst = t.tinst := rfl
@[simp] theorem Thread.goto_tcause (t : Thread) (a : Word) : (t.goto a).tcause = t.tcause := rfl
@[simp] theorem Thread.goto_tval (t : Thread) (a : Word) : (t.goto a).tval = t.tval := rfl
@[simp] theorem Thread.goto_ih (t : Thread) (a : Word) : (t.goto a).ih = t.ih := rfl
@[simp] theorem Thread.goto_cxh (t : Thread) (a : Word) : (t.goto a).cxh = t.cxh := rfl
@[simp] theorem Thread.goto_hcx (t : Thread) (a : Word) : (t.goto a).hcx = t.hcx := rfl
@[simp] theorem Thread.goto_budget (t : Thread) (a : Word) : (t.goto a).budget = t.budget := rfl
@[simp] theorem Thread.goto_cxWait (t : Thread) (a : Word) : (t.goto a).cxWait = t.cxWait := rfl
@[simp] theorem Thread.goto_heldAsync (t : Thread) (a : Word) : (t.goto a).heldAsync = t.heldAsync := rfl
@[simp] theorem Thread.goto_loopcnt (t : Thread) (a : Word) : (t.goto a).loopcnt = t.loopcnt := rfl
@[simp] theorem Thread.goto_loopstart (t : Thread) (a : Word) : (t.goto a).loopstart = t.loopstart := rfl
@[simp] theorem Thread.goto_loopend (t : Thread) (a : Word) : (t.goto a).loopend = t.loopend := rfl
@[simp] theorem Thread.goto_watch (t : Thread) (a : Word) : (t.goto a).watch = t.watch := rfl
@[simp] theorem Thread.goto_ready (t : Thread) (a : Word) : (t.goto a).ready = t.ready := rfl
@[simp] theorem Thread.goto_mseq (t : Thread) (a : Word) : (t.goto a).mseq = t.mseq := rfl
@[simp] theorem Thread.goto_cseq (t : Thread) (a : Word) : (t.goto a).cseq = t.cseq := rfl
@[simp] theorem Thread.goto_resv (t : Thread) (a : Word) : (t.goto a).resv = t.resv := rfl
@[simp] theorem Thread.goto_w1 (t : Thread) (a : Word) : (t.goto a).w1 = t.w1 := rfl
@[simp] theorem Thread.goto_w2 (t : Thread) (a : Word) : (t.goto a).w2 = t.w2 := rfl
@[simp] theorem Thread.goto_w3 (t : Thread) (a : Word) : (t.goto a).w3 = t.w3 := rfl
@[simp] theorem Thread.goto_run (t : Thread) (a : Word) : (t.goto a).run = t.run := rfl
@[simp] theorem Thread.goto_spawns (t : Thread) (a : Word) : (t.goto a).spawns = t.spawns := rfl
@[simp] theorem Thread.goto_mig (t : Thread) (a : Word) : (t.goto a).mig = t.mig := rfl
@[simp] theorem Thread.goto_noMig (t : Thread) (a : Word) : (t.goto a).noMig = t.noMig := rfl
@[simp] theorem Thread.goto_msgUsed (t : Thread) (a : Word) : (t.goto a).msgUsed = t.msgUsed := rfl
@[simp] theorem Thread.goto_picked (t : Thread) (a : Word) : (t.goto a).picked = t.picked := rfl
@[simp] theorem Thread.goto_notBefore (t : Thread) (a : Word) : (t.goto a).notBefore = t.notBefore := rfl
@[simp] theorem Thread.goto_strmWait (t : Thread) (a : Word) : (t.goto a).strmWait = t.strmWait := rfl
@[simp] theorem Thread.goto_starved (t : Thread) (a : Word) : (t.goto a).starved = t.starved := rfl
@[simp] theorem Thread.goto_laidOff (t : Thread) (a : Word) : (t.goto a).laidOff = t.laidOff := rfl
@[simp] theorem Thread.goto_binds (t : Thread) (a : Word) : (t.goto a).binds = t.binds := rfl
@[simp] theorem Thread.goto_owner (t : Thread) (a : Word) : (t.goto a).owner = t.owner := rfl

/-! ## Thread.dropResv -/

@[simp] theorem Thread.dropResv_st (t : Thread) : t.dropResv.st = t.st := rfl
@[simp] theorem Thread.dropResv_pc (t : Thread) : t.dropResv.pc = t.pc := rfl
@[simp] theorem Thread.dropResv_s (t : Thread) : t.dropResv.s = t.s := rfl
@[simp] theorem Thread.dropResv_v (t : Thread) : t.dropResv.v = t.v := rfl
@[simp] theorem Thread.dropResv_p (t : Thread) : t.dropResv.p = t.p := rfl
@[simp] theorem Thread.dropResv_look (t : Thread) : t.dropResv.look = t.look := rfl
@[simp] theorem Thread.dropResv_outst (t : Thread) : t.dropResv.outst = t.outst := rfl
@[simp] theorem Thread.dropResv_nextOp (t : Thread) : t.dropResv.nextOp = t.nextOp := rfl
@[simp] theorem Thread.dropResv_held (t : Thread) : t.dropResv.held = t.held := rfl
@[simp] theorem Thread.dropResv_trap (t : Thread) : t.dropResv.trap = t.trap := rfl
@[simp] theorem Thread.dropResv_susp (t : Thread) : t.dropResv.susp = t.susp := rfl
@[simp] theorem Thread.dropResv_tbm (t : Thread) : t.dropResv.tbm = t.tbm := rfl
@[simp] theorem Thread.dropResv_fflags (t : Thread) : t.dropResv.fflags = t.fflags := rfl
@[simp] theorem Thread.dropResv_frm (t : Thread) : t.dropResv.frm = t.frm := rfl
@[simp] theorem Thread.dropResv_tpc (t : Thread) : t.dropResv.tpc = t.tpc := rfl
@[simp] theorem Thread.dropResv_tinst (t : Thread) : t.dropResv.tinst = t.tinst := rfl
@[simp] theorem Thread.dropResv_tcause (t : Thread) : t.dropResv.tcause = t.tcause := rfl
@[simp] theorem Thread.dropResv_tval (t : Thread) : t.dropResv.tval = t.tval := rfl
@[simp] theorem Thread.dropResv_ih (t : Thread) : t.dropResv.ih = t.ih := rfl
@[simp] theorem Thread.dropResv_cxh (t : Thread) : t.dropResv.cxh = t.cxh := rfl
@[simp] theorem Thread.dropResv_hcx (t : Thread) : t.dropResv.hcx = t.hcx := rfl
@[simp] theorem Thread.dropResv_budget (t : Thread) : t.dropResv.budget = t.budget := rfl
@[simp] theorem Thread.dropResv_cxWait (t : Thread) : t.dropResv.cxWait = t.cxWait := rfl
@[simp] theorem Thread.dropResv_heldAsync (t : Thread) : t.dropResv.heldAsync = t.heldAsync := rfl
@[simp] theorem Thread.dropResv_loopcnt (t : Thread) : t.dropResv.loopcnt = t.loopcnt := rfl
@[simp] theorem Thread.dropResv_loopstart (t : Thread) : t.dropResv.loopstart = t.loopstart := rfl
@[simp] theorem Thread.dropResv_loopend (t : Thread) : t.dropResv.loopend = t.loopend := rfl
@[simp] theorem Thread.dropResv_watch (t : Thread) : t.dropResv.watch = t.watch := rfl
@[simp] theorem Thread.dropResv_ready (t : Thread) : t.dropResv.ready = t.ready := rfl
@[simp] theorem Thread.dropResv_mseq (t : Thread) : t.dropResv.mseq = t.mseq := rfl
@[simp] theorem Thread.dropResv_cseq (t : Thread) : t.dropResv.cseq = t.cseq := rfl
@[simp] theorem Thread.dropResv_w1 (t : Thread) : t.dropResv.w1 = t.w1 := rfl
@[simp] theorem Thread.dropResv_w2 (t : Thread) : t.dropResv.w2 = t.w2 := rfl
@[simp] theorem Thread.dropResv_w3 (t : Thread) : t.dropResv.w3 = t.w3 := rfl
@[simp] theorem Thread.dropResv_run (t : Thread) : t.dropResv.run = t.run := rfl
@[simp] theorem Thread.dropResv_spawns (t : Thread) : t.dropResv.spawns = t.spawns := rfl
@[simp] theorem Thread.dropResv_mig (t : Thread) : t.dropResv.mig = t.mig := rfl
@[simp] theorem Thread.dropResv_noMig (t : Thread) : t.dropResv.noMig = t.noMig := rfl
@[simp] theorem Thread.dropResv_msgUsed (t : Thread) : t.dropResv.msgUsed = t.msgUsed := rfl
@[simp] theorem Thread.dropResv_picked (t : Thread) : t.dropResv.picked = t.picked := rfl
@[simp] theorem Thread.dropResv_notBefore (t : Thread) : t.dropResv.notBefore = t.notBefore := rfl
@[simp] theorem Thread.dropResv_strmWait (t : Thread) : t.dropResv.strmWait = t.strmWait := rfl
@[simp] theorem Thread.dropResv_starved (t : Thread) : t.dropResv.starved = t.starved := rfl
@[simp] theorem Thread.dropResv_laidOff (t : Thread) : t.dropResv.laidOff = t.laidOff := rfl
@[simp] theorem Thread.dropResv_binds (t : Thread) : t.dropResv.binds = t.binds := rfl
@[simp] theorem Thread.dropResv_owner (t : Thread) : t.dropResv.owner = t.owner := rfl

/-! ## Thread.addOutst -/

@[simp] theorem Thread.addOutst_pc (t : Thread) (ds : List RegRef) (la : Option (BitVec 4)) (c : Cond) (n m k : Nat) (o : Option Nat) : (t.addOutst ds la c n m k o).pc = t.pc := rfl
@[simp] theorem Thread.addOutst_s (t : Thread) (ds : List RegRef) (la : Option (BitVec 4)) (c : Cond) (n m k : Nat) (o : Option Nat) : (t.addOutst ds la c n m k o).s = t.s := rfl
@[simp] theorem Thread.addOutst_v (t : Thread) (ds : List RegRef) (la : Option (BitVec 4)) (c : Cond) (n m k : Nat) (o : Option Nat) : (t.addOutst ds la c n m k o).v = t.v := rfl
@[simp] theorem Thread.addOutst_p (t : Thread) (ds : List RegRef) (la : Option (BitVec 4)) (c : Cond) (n m k : Nat) (o : Option Nat) : (t.addOutst ds la c n m k o).p = t.p := rfl
@[simp] theorem Thread.addOutst_held (t : Thread) (ds : List RegRef) (la : Option (BitVec 4)) (c : Cond) (n m k : Nat) (o : Option Nat) : (t.addOutst ds la c n m k o).held = t.held := rfl
@[simp] theorem Thread.addOutst_trap (t : Thread) (ds : List RegRef) (la : Option (BitVec 4)) (c : Cond) (n m k : Nat) (o : Option Nat) : (t.addOutst ds la c n m k o).trap = t.trap := rfl
@[simp] theorem Thread.addOutst_susp (t : Thread) (ds : List RegRef) (la : Option (BitVec 4)) (c : Cond) (n m k : Nat) (o : Option Nat) : (t.addOutst ds la c n m k o).susp = t.susp := rfl
@[simp] theorem Thread.addOutst_tbm (t : Thread) (ds : List RegRef) (la : Option (BitVec 4)) (c : Cond) (n m k : Nat) (o : Option Nat) : (t.addOutst ds la c n m k o).tbm = t.tbm := rfl
@[simp] theorem Thread.addOutst_fflags (t : Thread) (ds : List RegRef) (la : Option (BitVec 4)) (c : Cond) (n m k : Nat) (o : Option Nat) : (t.addOutst ds la c n m k o).fflags = t.fflags := rfl
@[simp] theorem Thread.addOutst_frm (t : Thread) (ds : List RegRef) (la : Option (BitVec 4)) (c : Cond) (n m k : Nat) (o : Option Nat) : (t.addOutst ds la c n m k o).frm = t.frm := rfl
@[simp] theorem Thread.addOutst_tpc (t : Thread) (ds : List RegRef) (la : Option (BitVec 4)) (c : Cond) (n m k : Nat) (o : Option Nat) : (t.addOutst ds la c n m k o).tpc = t.tpc := rfl
@[simp] theorem Thread.addOutst_tinst (t : Thread) (ds : List RegRef) (la : Option (BitVec 4)) (c : Cond) (n m k : Nat) (o : Option Nat) : (t.addOutst ds la c n m k o).tinst = t.tinst := rfl
@[simp] theorem Thread.addOutst_tcause (t : Thread) (ds : List RegRef) (la : Option (BitVec 4)) (c : Cond) (n m k : Nat) (o : Option Nat) : (t.addOutst ds la c n m k o).tcause = t.tcause := rfl
@[simp] theorem Thread.addOutst_tval (t : Thread) (ds : List RegRef) (la : Option (BitVec 4)) (c : Cond) (n m k : Nat) (o : Option Nat) : (t.addOutst ds la c n m k o).tval = t.tval := rfl
@[simp] theorem Thread.addOutst_ih (t : Thread) (ds : List RegRef) (la : Option (BitVec 4)) (c : Cond) (n m k : Nat) (o : Option Nat) : (t.addOutst ds la c n m k o).ih = t.ih := rfl
@[simp] theorem Thread.addOutst_cxh (t : Thread) (ds : List RegRef) (la : Option (BitVec 4)) (c : Cond) (n m k : Nat) (o : Option Nat) : (t.addOutst ds la c n m k o).cxh = t.cxh := rfl
@[simp] theorem Thread.addOutst_hcx (t : Thread) (ds : List RegRef) (la : Option (BitVec 4)) (c : Cond) (n m k : Nat) (o : Option Nat) : (t.addOutst ds la c n m k o).hcx = t.hcx := rfl
@[simp] theorem Thread.addOutst_budget (t : Thread) (ds : List RegRef) (la : Option (BitVec 4)) (c : Cond) (n m k : Nat) (o : Option Nat) : (t.addOutst ds la c n m k o).budget = t.budget := rfl
@[simp] theorem Thread.addOutst_cxWait (t : Thread) (ds : List RegRef) (la : Option (BitVec 4)) (c : Cond) (n m k : Nat) (o : Option Nat) : (t.addOutst ds la c n m k o).cxWait = t.cxWait := rfl
@[simp] theorem Thread.addOutst_heldAsync (t : Thread) (ds : List RegRef) (la : Option (BitVec 4)) (c : Cond) (n m k : Nat) (o : Option Nat) : (t.addOutst ds la c n m k o).heldAsync = t.heldAsync := rfl
@[simp] theorem Thread.addOutst_loopcnt (t : Thread) (ds : List RegRef) (la : Option (BitVec 4)) (c : Cond) (n m k : Nat) (o : Option Nat) : (t.addOutst ds la c n m k o).loopcnt = t.loopcnt := rfl
@[simp] theorem Thread.addOutst_loopstart (t : Thread) (ds : List RegRef) (la : Option (BitVec 4)) (c : Cond) (n m k : Nat) (o : Option Nat) : (t.addOutst ds la c n m k o).loopstart = t.loopstart := rfl
@[simp] theorem Thread.addOutst_loopend (t : Thread) (ds : List RegRef) (la : Option (BitVec 4)) (c : Cond) (n m k : Nat) (o : Option Nat) : (t.addOutst ds la c n m k o).loopend = t.loopend := rfl
@[simp] theorem Thread.addOutst_watch (t : Thread) (ds : List RegRef) (la : Option (BitVec 4)) (c : Cond) (n m k : Nat) (o : Option Nat) : (t.addOutst ds la c n m k o).watch = t.watch := rfl
@[simp] theorem Thread.addOutst_ready (t : Thread) (ds : List RegRef) (la : Option (BitVec 4)) (c : Cond) (n m k : Nat) (o : Option Nat) : (t.addOutst ds la c n m k o).ready = t.ready := rfl
@[simp] theorem Thread.addOutst_mseq (t : Thread) (ds : List RegRef) (la : Option (BitVec 4)) (c : Cond) (n m k : Nat) (o : Option Nat) : (t.addOutst ds la c n m k o).mseq = t.mseq := rfl
@[simp] theorem Thread.addOutst_cseq (t : Thread) (ds : List RegRef) (la : Option (BitVec 4)) (c : Cond) (n m k : Nat) (o : Option Nat) : (t.addOutst ds la c n m k o).cseq = t.cseq := rfl
@[simp] theorem Thread.addOutst_resv (t : Thread) (ds : List RegRef) (la : Option (BitVec 4)) (c : Cond) (n m k : Nat) (o : Option Nat) : (t.addOutst ds la c n m k o).resv = t.resv := rfl
@[simp] theorem Thread.addOutst_w1 (t : Thread) (ds : List RegRef) (la : Option (BitVec 4)) (c : Cond) (n m k : Nat) (o : Option Nat) : (t.addOutst ds la c n m k o).w1 = t.w1 := rfl
@[simp] theorem Thread.addOutst_w2 (t : Thread) (ds : List RegRef) (la : Option (BitVec 4)) (c : Cond) (n m k : Nat) (o : Option Nat) : (t.addOutst ds la c n m k o).w2 = t.w2 := rfl
@[simp] theorem Thread.addOutst_w3 (t : Thread) (ds : List RegRef) (la : Option (BitVec 4)) (c : Cond) (n m k : Nat) (o : Option Nat) : (t.addOutst ds la c n m k o).w3 = t.w3 := rfl
@[simp] theorem Thread.addOutst_run (t : Thread) (ds : List RegRef) (la : Option (BitVec 4)) (c : Cond) (n m k : Nat) (o : Option Nat) : (t.addOutst ds la c n m k o).run = t.run := rfl
@[simp] theorem Thread.addOutst_spawns (t : Thread) (ds : List RegRef) (la : Option (BitVec 4)) (c : Cond) (n m k : Nat) (o : Option Nat) : (t.addOutst ds la c n m k o).spawns = t.spawns := rfl
@[simp] theorem Thread.addOutst_mig (t : Thread) (ds : List RegRef) (la : Option (BitVec 4)) (c : Cond) (n m k : Nat) (o : Option Nat) : (t.addOutst ds la c n m k o).mig = t.mig := rfl
@[simp] theorem Thread.addOutst_noMig (t : Thread) (ds : List RegRef) (la : Option (BitVec 4)) (c : Cond) (n m k : Nat) (o : Option Nat) : (t.addOutst ds la c n m k o).noMig = t.noMig := rfl
@[simp] theorem Thread.addOutst_msgUsed (t : Thread) (ds : List RegRef) (la : Option (BitVec 4)) (c : Cond) (n m k : Nat) (o : Option Nat) : (t.addOutst ds la c n m k o).msgUsed = t.msgUsed := rfl
@[simp] theorem Thread.addOutst_picked (t : Thread) (ds : List RegRef) (la : Option (BitVec 4)) (c : Cond) (n m k : Nat) (o : Option Nat) : (t.addOutst ds la c n m k o).picked = t.picked := rfl
@[simp] theorem Thread.addOutst_notBefore (t : Thread) (ds : List RegRef) (la : Option (BitVec 4)) (c : Cond) (n m k : Nat) (o : Option Nat) : (t.addOutst ds la c n m k o).notBefore = t.notBefore := rfl
@[simp] theorem Thread.addOutst_strmWait (t : Thread) (ds : List RegRef) (la : Option (BitVec 4)) (c : Cond) (n m k : Nat) (o : Option Nat) : (t.addOutst ds la c n m k o).strmWait = t.strmWait := rfl
@[simp] theorem Thread.addOutst_starved (t : Thread) (ds : List RegRef) (la : Option (BitVec 4)) (c : Cond) (n m k : Nat) (o : Option Nat) : (t.addOutst ds la c n m k o).starved = t.starved := rfl
@[simp] theorem Thread.addOutst_laidOff (t : Thread) (ds : List RegRef) (la : Option (BitVec 4)) (c : Cond) (n m k : Nat) (o : Option Nat) : (t.addOutst ds la c n m k o).laidOff = t.laidOff := rfl
@[simp] theorem Thread.addOutst_binds (t : Thread) (ds : List RegRef) (la : Option (BitVec 4)) (c : Cond) (n m k : Nat) (o : Option Nat) : (t.addOutst ds la c n m k o).binds = t.binds := rfl
@[simp] theorem Thread.addOutst_owner (t : Thread) (ds : List RegRef) (la : Option (BitVec 4)) (c : Cond) (n m k : Nat) (o : Option Nat) : (t.addOutst ds la c n m k o).owner = t.owner := rfl

/-! ## Thread.setLoop -/

@[simp] theorem Thread.setLoop_st (t : Thread) (b : Bool) (l : LoopLvl) : (t.setLoop b l).st = t.st := rfl
@[simp] theorem Thread.setLoop_pc (t : Thread) (b : Bool) (l : LoopLvl) : (t.setLoop b l).pc = t.pc := rfl
@[simp] theorem Thread.setLoop_s (t : Thread) (b : Bool) (l : LoopLvl) : (t.setLoop b l).s = t.s := rfl
@[simp] theorem Thread.setLoop_v (t : Thread) (b : Bool) (l : LoopLvl) : (t.setLoop b l).v = t.v := rfl
@[simp] theorem Thread.setLoop_p (t : Thread) (b : Bool) (l : LoopLvl) : (t.setLoop b l).p = t.p := rfl
@[simp] theorem Thread.setLoop_look (t : Thread) (b : Bool) (l : LoopLvl) : (t.setLoop b l).look = t.look := rfl
@[simp] theorem Thread.setLoop_outst (t : Thread) (b : Bool) (l : LoopLvl) : (t.setLoop b l).outst = t.outst := rfl
@[simp] theorem Thread.setLoop_nextOp (t : Thread) (b : Bool) (l : LoopLvl) : (t.setLoop b l).nextOp = t.nextOp := rfl
@[simp] theorem Thread.setLoop_held (t : Thread) (b : Bool) (l : LoopLvl) : (t.setLoop b l).held = t.held := rfl
@[simp] theorem Thread.setLoop_trap (t : Thread) (b : Bool) (l : LoopLvl) : (t.setLoop b l).trap = t.trap := rfl
@[simp] theorem Thread.setLoop_susp (t : Thread) (b : Bool) (l : LoopLvl) : (t.setLoop b l).susp = t.susp := rfl
@[simp] theorem Thread.setLoop_tbm (t : Thread) (b : Bool) (l : LoopLvl) : (t.setLoop b l).tbm = t.tbm := rfl
@[simp] theorem Thread.setLoop_fflags (t : Thread) (b : Bool) (l : LoopLvl) : (t.setLoop b l).fflags = t.fflags := rfl
@[simp] theorem Thread.setLoop_frm (t : Thread) (b : Bool) (l : LoopLvl) : (t.setLoop b l).frm = t.frm := rfl
@[simp] theorem Thread.setLoop_tpc (t : Thread) (b : Bool) (l : LoopLvl) : (t.setLoop b l).tpc = t.tpc := rfl
@[simp] theorem Thread.setLoop_tinst (t : Thread) (b : Bool) (l : LoopLvl) : (t.setLoop b l).tinst = t.tinst := rfl
@[simp] theorem Thread.setLoop_tcause (t : Thread) (b : Bool) (l : LoopLvl) : (t.setLoop b l).tcause = t.tcause := rfl
@[simp] theorem Thread.setLoop_tval (t : Thread) (b : Bool) (l : LoopLvl) : (t.setLoop b l).tval = t.tval := rfl
@[simp] theorem Thread.setLoop_ih (t : Thread) (b : Bool) (l : LoopLvl) : (t.setLoop b l).ih = t.ih := rfl
@[simp] theorem Thread.setLoop_cxh (t : Thread) (b : Bool) (l : LoopLvl) : (t.setLoop b l).cxh = t.cxh := rfl
@[simp] theorem Thread.setLoop_hcx (t : Thread) (b : Bool) (l : LoopLvl) : (t.setLoop b l).hcx = t.hcx := rfl
@[simp] theorem Thread.setLoop_budget (t : Thread) (b : Bool) (l : LoopLvl) : (t.setLoop b l).budget = t.budget := rfl
@[simp] theorem Thread.setLoop_cxWait (t : Thread) (b : Bool) (l : LoopLvl) : (t.setLoop b l).cxWait = t.cxWait := rfl
@[simp] theorem Thread.setLoop_heldAsync (t : Thread) (b : Bool) (l : LoopLvl) : (t.setLoop b l).heldAsync = t.heldAsync := rfl
@[simp] theorem Thread.setLoop_watch (t : Thread) (b : Bool) (l : LoopLvl) : (t.setLoop b l).watch = t.watch := rfl
@[simp] theorem Thread.setLoop_ready (t : Thread) (b : Bool) (l : LoopLvl) : (t.setLoop b l).ready = t.ready := rfl
@[simp] theorem Thread.setLoop_mseq (t : Thread) (b : Bool) (l : LoopLvl) : (t.setLoop b l).mseq = t.mseq := rfl
@[simp] theorem Thread.setLoop_cseq (t : Thread) (b : Bool) (l : LoopLvl) : (t.setLoop b l).cseq = t.cseq := rfl
@[simp] theorem Thread.setLoop_resv (t : Thread) (b : Bool) (l : LoopLvl) : (t.setLoop b l).resv = t.resv := rfl
@[simp] theorem Thread.setLoop_w1 (t : Thread) (b : Bool) (l : LoopLvl) : (t.setLoop b l).w1 = t.w1 := rfl
@[simp] theorem Thread.setLoop_w2 (t : Thread) (b : Bool) (l : LoopLvl) : (t.setLoop b l).w2 = t.w2 := rfl
@[simp] theorem Thread.setLoop_w3 (t : Thread) (b : Bool) (l : LoopLvl) : (t.setLoop b l).w3 = t.w3 := rfl
@[simp] theorem Thread.setLoop_run (t : Thread) (b : Bool) (l : LoopLvl) : (t.setLoop b l).run = t.run := rfl
@[simp] theorem Thread.setLoop_spawns (t : Thread) (b : Bool) (l : LoopLvl) : (t.setLoop b l).spawns = t.spawns := rfl
@[simp] theorem Thread.setLoop_mig (t : Thread) (b : Bool) (l : LoopLvl) : (t.setLoop b l).mig = t.mig := rfl
@[simp] theorem Thread.setLoop_noMig (t : Thread) (b : Bool) (l : LoopLvl) : (t.setLoop b l).noMig = t.noMig := rfl
@[simp] theorem Thread.setLoop_msgUsed (t : Thread) (b : Bool) (l : LoopLvl) : (t.setLoop b l).msgUsed = t.msgUsed := rfl
@[simp] theorem Thread.setLoop_picked (t : Thread) (b : Bool) (l : LoopLvl) : (t.setLoop b l).picked = t.picked := rfl
@[simp] theorem Thread.setLoop_notBefore (t : Thread) (b : Bool) (l : LoopLvl) : (t.setLoop b l).notBefore = t.notBefore := rfl
@[simp] theorem Thread.setLoop_strmWait (t : Thread) (b : Bool) (l : LoopLvl) : (t.setLoop b l).strmWait = t.strmWait := rfl
@[simp] theorem Thread.setLoop_starved (t : Thread) (b : Bool) (l : LoopLvl) : (t.setLoop b l).starved = t.starved := rfl
@[simp] theorem Thread.setLoop_laidOff (t : Thread) (b : Bool) (l : LoopLvl) : (t.setLoop b l).laidOff = t.laidOff := rfl
@[simp] theorem Thread.setLoop_binds (t : Thread) (b : Bool) (l : LoopLvl) : (t.setLoop b l).binds = t.binds := rfl
@[simp] theorem Thread.setLoop_owner (t : Thread) (b : Bool) (l : LoopLvl) : (t.setLoop b l).owner = t.owner := rfl

/-! ## Read after write: tiles, cores, threads (log 1) -/

@[simp] theorem State.tile_modTile_self (s : State) (t : Nat) (f : Tile → Tile) : (s.modTile t f).tile t = f (s.tile t) := by
  simp [State.tile, State.modTile]

theorem State.tile_modTile_ne (s : State) {t u : Nat} (f : Tile → Tile) (h : u ≠ t) : (s.modTile t f).tile u = s.tile u := by
  simp [State.tile, State.modTile, KMap.getD_set_ne _ _ _ h]

/-- Two updates of one tile are one update. -/
@[simp] theorem State.modTile_modTile (s : State) (t : Nat) (f g : Tile → Tile) :
    (s.modTile t f).modTile t g = s.modTile t fun x => g (f x) := by
  simp [State.modTile, State.tile]

@[simp] theorem Tile.modCore_cores_self (x : Tile) (c : Fin 8) (f : Core → Core) : (x.modCore c f).cores[c] = f x.cores[c] := by
  simp [Tile.modCore]

theorem Tile.modCore_cores_ne (x : Tile) {c d : Fin 8} (f : Core → Core) (h : d ≠ c) : (x.modCore c f).cores[d] = x.cores[d] := by
  have : c.val ≠ d.val := fun e => h (Fin.ext e.symm)
  simp [Tile.modCore, this]

@[simp] theorem Tile.modCore_modCore (x : Tile) (c : Fin 8) (f g : Core → Core) :
    (x.modCore c f).modCore c g = x.modCore c fun y => g (f y) := by
  simp [Tile.modCore]

@[simp] theorem Core.modThread_threads_self (x : Core) (h : Fin 16) (f : Thread → Thread) :
    (x.modThread h f).threads[h] = f x.threads[h] := by
  simp [Core.modThread]

theorem Core.modThread_threads_ne (x : Core) {h k : Fin 16} (f : Thread → Thread) (hk : k ≠ h) :
    (x.modThread h f).threads[k] = x.threads[k] := by
  have : h.val ≠ k.val := fun e => hk (Fin.ext e.symm)
  simp [Core.modThread, this]

@[simp] theorem Core.modThread_modThread (x : Core) (h : Fin 16) (f g : Thread → Thread) :
    (x.modThread h f).modThread h g = x.modThread h fun y => g (f y) := by
  simp [Core.modThread]

@[simp] theorem State.core_modCore_self (s : State) (t : Nat) (c : Fin 8) (f : Core → Core) :
    (s.modCore t c f).core t c = f (s.core t c) := by
  simp only [State.core, State.modCore, State.tile_modTile_self, Tile.modCore_cores_self]

@[simp] theorem State.modCore_modCore (s : State) (t : Nat) (c : Fin 8) (f g : Core → Core) :
    (s.modCore t c f).modCore t c g = s.modCore t c fun y => g (f y) := by
  simp only [State.modCore, State.modTile_modTile, Tile.modCore_modCore]

@[simp] theorem State.thread_modThread_self (s : State) (r : ThreadRef) (f : Thread → Thread) :
    (s.modThread r f).thread r = f (s.thread r) := by
  simp only [State.thread, State.modThread, State.core_modCore_self, Core.modThread_threads_self]

theorem State.core_modCore_ne (s : State) {t u : Nat} {c d : Fin 8} (f : Core → Core) (h : ¬(u = t ∧ d = c)) :
    (s.modCore t c f).core u d = s.core u d := by
  by_cases ht : u = t
  · subst ht
    have hc : d ≠ c := fun e => h ⟨rfl, e⟩
    simp only [State.core, State.modCore, State.tile_modTile_self]
    exact Tile.modCore_cores_ne _ _ hc
  · simp only [State.core, State.modCore, State.tile_modTile_ne s _ ht]

/-- An update of one thread leaves every other thread. -/
theorem State.thread_modThread_ne (s : State) {r q : ThreadRef} (f : Thread → Thread) (h : q ≠ r) :
    (s.modThread r f).thread q = s.thread q := by
  obtain ⟨t, c, n⟩ := r
  obtain ⟨t', c', n'⟩ := q
  show ((s.modCore t c fun x => x.modThread n f).core t' c').threads[n'] = (s.core t' c').threads[n']
  by_cases hc : t' = t ∧ c' = c
  · obtain ⟨rfl, rfl⟩ := hc
    have hn : n' ≠ n := fun e => h (by rw [e])
    rw [State.core_modCore_self]
    exact Core.modThread_threads_ne _ f hn
  · rw [State.core_modCore_ne s _ hc]

@[simp] theorem State.modThread_modThread (s : State) (r : ThreadRef) (f g : Thread → Thread) :
    (s.modThread r f).modThread r g = s.modThread r fun y => g (f y) := by
  simp only [State.modThread, State.modCore_modCore, Core.modThread_modThread]

@[simp] theorem State.th_modTh (s : State) (f : Thread → Thread) : (s.modTh f).th = f s.th := by
  simp only [State.th, State.modTh_cur]
  exact State.thread_modThread_self s s.cur f

@[simp] theorem State.modTh_modTh (s : State) (f g : Thread → Thread) : (s.modTh f).modTh g = s.modTh fun t => g (f t) := by
  simp only [State.modTh, State.modThread_cur, State.modThread_modThread]

/-- An update of the current thread depends on what it makes of that thread only. -/
theorem State.modTh_congr (s : State) {f g : Thread → Thread} (h : f s.th = g s.th) : s.modTh f = s.modTh g := by
  have hf : ∀ k : Thread → Thread, s.modTh k = s.modTh fun _ => k s.th := fun _ => rfl
  rw [hf f, hf g, h]

/-- The current thread's update leaves every other thread. -/
theorem State.thread_modTh_ne (s : State) {q : ThreadRef} (f : Thread → Thread) (h : q ≠ s.cur) :
    (s.modTh f).thread q = s.thread q := State.thread_modThread_ne s f h

@[simp] theorem State.launch_modTh (s : State) (f : Thread → Thread) (t : Nat) : (s.modTh f).launch t = s.launch t := by
  by_cases h : t = s.cur.tile
  · subst h
    simp [State.launch, State.modTh, State.modThread, State.modCore]
  · simp [State.launch, State.modTh, State.modThread, State.modCore, State.tile_modTile_ne _ _ h]

@[simp] theorem State.now_modTile (s : State) (t u : Nat) (f : Tile → Tile) : (s.modTile t f).now u = s.now u := rfl
@[simp] theorem State.now_modTh (s : State) (u : Nat) (f : Thread → Thread) : (s.modTh f).now u = s.now u := rfl

/-- Of a core, an update of the current thread changes the threads only. -/
theorem State.core_modTh (s : State) (f : Thread → Thread) (t : Nat) (c : Fin 8) :
    (s.modTh f).core t c = if t = s.cur.tile ∧ c = s.cur.core then (s.core t c).modThread s.cur.thr f else s.core t c := by
  split
  · next h => obtain ⟨rfl, rfl⟩ := h; exact State.core_modCore_self s _ _ _
  · next h => exact State.core_modCore_ne s _ h

/-- Local memory of every core is unchanged by an update of the current thread. -/
@[simp] theorem State.modTh_lm (s : State) (f : Thread → Thread) (t : Nat) (c : Fin 8) :
    ((s.modTh f).core t c).lm = (s.core t c).lm := by
  rw [State.core_modTh]; split <;> rfl

/-! ## Registers (R21) -/

@[simp] theorem Thread.getS_zero (t : Thread) : t.getS 0#5 = 0#64 := rfl
@[simp] theorem Thread.getP_zero (t : Thread) : t.getP 0#3 = true := rfl
@[simp] theorem Thread.setS_zero (t : Thread) (x : Word) : t.setS 0#5 x = t := rfl
@[simp] theorem Thread.setP_zero (t : Thread) (x : Bool) : t.setP 0#3 x = t := rfl

theorem Thread.getS_setS_self (t : Thread) (r : SReg) (x : Word) : (t.setS r x).getS r = if r = 0#5 then 0#64 else x := by
  by_cases h : r = 0#5
  · subst h; rfl
  · simp [Thread.getS, Thread.setS, h]

theorem Thread.getS_setS_ne (t : Thread) {r q : SReg} (x : Word) (h : q ≠ r) : (t.setS r x).getS q = t.getS q := by
  by_cases h0 : r = 0#5
  · subst h0; rfl
  · have : ¬ r.toNat = q.toNat := fun e => h (BitVec.eq_of_toNat_eq e.symm)
    simp [Thread.getS, Thread.setS, h0, this]

@[simp] theorem Thread.getV_setV_self (t : Thread) (r : VReg) (x : V256) : (t.setV r x).getV r = x := by
  simp [Thread.getV, Thread.setV]

theorem Thread.getV_setV_ne (t : Thread) {r q : VReg} (x : V256) (h : q ≠ r) : (t.setV r x).getV q = t.getV q := by
  have : ¬ r.toNat = q.toNat := fun e => h (BitVec.eq_of_toNat_eq e.symm)
  simp [Thread.getV, Thread.setV, this]

theorem Thread.getP_setP_self (t : Thread) (r : PReg) (x : Bool) : (t.setP r x).getP r = if r = 0#3 then true else x := by
  by_cases h : r = 0#3
  · subst h; rfl
  · simp [Thread.getP, Thread.setP, h]

theorem Thread.getP_setP_ne (t : Thread) {r q : PReg} (x : Bool) (h : q ≠ r) : (t.setP r x).getP q = t.getP q := by
  by_cases h0 : r = 0#3
  · subst h0; rfl
  · have : ¬ r.toNat = q.toNat := fun e => h (BitVec.eq_of_toNat_eq e.symm)
    simp [Thread.getP, Thread.setP, h0, this]

@[simp] theorem Thread.getS_setV (t : Thread) (r : VReg) (x : V256) (q : SReg) : (t.setV r x).getS q = t.getS q := rfl
@[simp] theorem Thread.getV_setS (t : Thread) (r : SReg) (x : Word) (q : VReg) : (t.setS r x).getV q = t.getV q := by
  simp [Thread.getV]
@[simp] theorem Thread.getP_setS (t : Thread) (r : SReg) (x : Word) (q : PReg) : (t.setS r x).getP q = t.getP q := by
  simp [Thread.getP]
@[simp] theorem Thread.getS_setP (t : Thread) (r : PReg) (x : Bool) (q : SReg) : (t.setP r x).getS q = t.getS q := by
  simp [Thread.getS]
@[simp] theorem Thread.getV_setP (t : Thread) (r : PReg) (x : Bool) (q : VReg) : (t.setP r x).getV q = t.getV q := by
  simp [Thread.getV]
@[simp] theorem Thread.getP_setV (t : Thread) (r : VReg) (x : V256) (q : PReg) : (t.setV r x).getP q = t.getP q := rfl

end Sys2Proof.Machine
end

