-- ==== Sys2Proof/Laws/Ops.lean ====
section
/-!
SUPPORT. One law per shared operation of issuing: what countIssue, the stream operands and issue do when the instruction is
clear, what a trap leaves, and the frame of an advance.
-/
namespace Sys2Proof.Machine

/-! ## Counting an issue -/

/-- Counting an issue changes the current thread, and the agenda when the clean-up budget ends (R15, R119, R183). -/
theorem State.countIssue_eq (s : State) (long : Bool) :
    ∃ ag, s.countIssue long = { s.modTh (fun t => t.counted long) with agenda := ag } := by
  unfold State.countIssue
  split
  · exact ⟨(State.atTile _ _ _ _ _).agenda, rfl⟩
  · exact ⟨s.agenda, rfl⟩

@[simp] theorem State.countIssue_cur (s : State) (b : Bool) : (s.countIssue b).cur = s.cur := by
  unfold State.countIssue; split <;> rfl

theorem State.countIssue_th (s : State) (b : Bool) : (s.countIssue b).th = s.th.counted b := by
  have h : ((s.modTh fun t => t.counted b)).th = s.th.counted b := State.th_modTh s _
  unfold State.countIssue
  split
  · exact h
  · exact h

@[simp] theorem Thread.counted_getS (t : Thread) (b : Bool) (r : SReg) : (t.counted b).getS r = t.getS r := rfl
@[simp] theorem Thread.counted_getV (t : Thread) (b : Bool) (r : VReg) : (t.counted b).getV r = t.getV r := rfl
@[simp] theorem Thread.counted_getP (t : Thread) (b : Bool) (r : PReg) : (t.counted b).getP r = t.getP r := rfl
@[simp] theorem Thread.counted_binds (t : Thread) (b : Bool) : (t.counted b).binds = t.binds := rfl
@[simp] theorem Thread.counted_outst (t : Thread) (b : Bool) : (t.counted b).outst = t.outst := rfl
@[simp] theorem Thread.counted_pc (t : Thread) (b : Bool) : (t.counted b).pc = t.pc := rfl

@[simp] theorem State.countIssue_getS (s : State) (b : Bool) (r : SReg) : (s.countIssue b).th.getS r = s.th.getS r := by
  rw [State.countIssue_th]; rfl
@[simp] theorem State.countIssue_getV (s : State) (b : Bool) (r : VReg) : (s.countIssue b).th.getV r = s.th.getV r := by
  rw [State.countIssue_th]; rfl
@[simp] theorem State.countIssue_getP (s : State) (b : Bool) (r : PReg) : (s.countIssue b).th.getP r = s.th.getP r := by
  rw [State.countIssue_th]; rfl
@[simp] theorem State.countIssue_pc (s : State) (b : Bool) : (s.countIssue b).th.pc = s.th.pc := by
  rw [State.countIssue_th]; rfl
@[simp] theorem State.countIssue_frm (s : State) (b : Bool) : (s.countIssue b).th.frm = s.th.frm := by
  rw [State.countIssue_th]; rfl
@[simp] theorem State.countIssue_binds (s : State) (b : Bool) : (s.countIssue b).th.binds = s.th.binds := by
  rw [State.countIssue_th]; rfl
@[simp] theorem State.countIssue_outst (s : State) (b : Bool) : (s.countIssue b).th.outst = s.th.outst := by
  rw [State.countIssue_th]; rfl
@[simp] theorem State.countIssue_ih (s : State) (b : Bool) : (s.countIssue b).th.ih = s.th.ih := by
  rw [State.countIssue_th]; rfl

/-- Counting an issue, then an update of the current thread: the update composes with the count's. -/
theorem State.countIssue_modTh_id (s : State) (b : Bool) : (s.countIssue b).modTh (fun t => t) = s.countIssue b := by
  obtain ⟨ag, e⟩ := s.countIssue_eq b
  rw [e]
  show ({ (s.modTh fun t => t.counted b).modTh (fun t => t) with agenda := ag } : State) = _
  rw [State.modTh_modTh]

@[simp] theorem State.countIssue_launch (s : State) (b : Bool) (t : Nat) : (s.countIssue b).launch t = s.launch t := by
  obtain ⟨ag, e⟩ := s.countIssue_eq b
  rw [e]
  exact State.launch_modTh s _ t

@[simp] theorem State.countIssue_lm (s : State) (b : Bool) (t : Nat) (c : Fin 8) :
    ((s.countIssue b).core t c).lm = (s.core t c).lm := by
  obtain ⟨ag, e⟩ := s.countIssue_eq b
  rw [e]
  exact State.modTh_lm s _ t c

/-! ## Stream operands of a clear instruction -/

theorem Thread.strmGate_clear {t : Thread} {u : RegUse} (hr : t.bound u.reads = []) (hw : t.bound u.writes = []) :
    t.strmGate u = .ready := by
  simp [Thread.strmGate, hr, hw]

theorem Thread.consume_clear {t : Thread} {u : RegUse} (hr : t.bound u.reads = []) : t.consume u = (t, []) := by
  simp [Thread.consume, hr]

theorem Thread.bound_congr {t t' : Thread} (h : t'.binds = t.binds) (rs : List RegRef) : t'.bound rs = t.bound rs := by
  simp only [Thread.bound, h]

theorem Thread.append_clear {t : Thread} {u : RegUse} (c : Core) (hw : t.bound u.writes = []) : t.append c u = t := by
  simp [Thread.append, hw]

/-! ## Issue -/

/-- A clear instruction issues: it is counted and has its own effect (R15 to R17, R77). -/
theorem State.issue_clear {s : State} {i : Instr} (h : s.clear i) (long : Bool) (eff : State → Eff) :
    s.issue i long eff = s.finish (regUse i) long (eff (s.countIssue long)) := by
  obtain ⟨h1, h2, h3, h4⟩ := h
  unfold State.issue
  simp only [h1, h2, Thread.strmGate_clear h3 h4, Thread.consume_clear h3, Bool.false_eq_true, if_false]
  have hc : ((s.countIssue long).modTh fun t => (t.consume (regUse i)).1) = s.countIssue long := by
    have hid : (s.countIssue long).th.consume (regUse i) = ((s.countIssue long).th, []) :=
      Thread.consume_clear (by rw [Thread.bound_congr (State.countIssue_binds s long)]; exact h3)
    rw [State.modTh_congr (g := fun t => t) _ (by rw [hid]), State.countIssue_modTh_id]
  rw [hc]
  simp [Eff.withConsumed]

/-- A clear instruction that changes the thread's registers alone retires (R107). -/
theorem State.issue_onRegs {s : State} {i : Instr} (h : s.clear i) {f : Thread → Thread}
    (hf : ∀ t, (f t).binds = t.binds) : s.issue i false (onRegs f) = s.retired f := by
  rw [State.issue_clear h]
  have hb : ((f (s.countIssue false).th).append (s.core s.cur.tile s.cur.core) (regUse i)) = f (s.countIssue false).th :=
    Thread.append_clear _ (by
      rw [Thread.bound_congr (hf _), Thread.bound_congr (State.countIssue_binds s false)]; exact h.2.2.2)
  simp only [onRegs, State.finish, State.retired, State.modTh_modTh, Bool.false_eq_true, if_false]
  exact State.modTh_congr _ (by rw [hb])

/-- A clear long-latency instruction whose result is known is outstanding (R15). -/
theorem State.issue_long {s : State} {i : Instr} (h : s.clear i) (la : BitVec 4) (ds : List RegRef) (lat : Nat)
    (w : State → Writes) :
    s.issue i true (fun s => .next (s.deferRes la ds lat (w s))) = s.issuedLong la ds lat (w (s.countIssue true)) := by
  rw [State.issue_clear h]
  simp [State.finish, State.issuedLong]

end Sys2Proof.Machine
end

