-- ==== Sys2Proof/Laws/Inv.lean ====
section
/-!
SUPPORT. The invariant of Sys2Proof/Safety.lean through the named updates: an update of a part of the machine keeps it when the
new part is well-formed, and so do the shared operations that most meanings are built from.
-/
namespace Sys2Proof.Machine

/-! ## Default parts -/

theorem Thread.numbered_default : ({} : Thread).numbered := ⟨by simp, by simp⟩

theorem Core.wf_default : ({} : Core).wf := by
  refine ⟨rfl, List.Pairwise.nil, List.Pairwise.nil, fun h => ?_, fun e he => by cases he⟩
  have : ({} : Core).threads[h] = ({} : Thread) := by simp
  rw [this]; exact Thread.numbered_default

theorem Tile.wf_default : ({} : Tile).wf := by
  refine ⟨fun k => ?_, rfl⟩
  have : ({} : Tile).cores[k] = ({} : Core) := by simp
  rw [this]; exact Core.wf_default

/-! ## What the invariant says of a part -/

theorem KMap.mem_of_get? {α : Type} {m : KMap α} {i : Nat} {x : α} (h : KMap.get? m i = some x) : (i, x) ∈ m := by
  induction m with
  | nil => simp at h
  | cons p m ih =>
    obtain ⟨k, v⟩ := p
    simp only [KMap.get?] at h
    split at h
    · rename_i e; cases h; subst e; exact List.mem_cons_self
    · split at h
      · cases h
      · exact List.mem_cons_of_mem _ (ih h)

theorem State.Inv.tile {s : State} (h : s.Inv) (t : Nat) : (s.tile t).wf := by
  unfold State.tile KMap.getD
  cases e : KMap.get? s.tiles t with
  | none => exact Tile.wf_default
  | some x => exact h.1 _ (KMap.mem_of_get? e)

theorem State.Inv.core {s : State} (h : s.Inv) (t : Nat) (c : Fin 8) : (s.core t c).wf := (h.tile t).1 c

theorem State.Inv.thread {s : State} (h : s.Inv) (r : ThreadRef) : (s.thread r).numbered := (h.core r.tile r.core).2.2.2.1 r.thr

theorem State.Inv.part {s : State} (h : s.Inv) (p : Nat) : (s.part p).wf := by
  unfold State.part KMap.getD
  cases e : KMap.get? s.parts p with
  | none => exact ⟨rfl, fun x hx => by cases hx⟩
  | some x => exact h.2.1 _ (KMap.mem_of_get? e)

/-! ## Updates -/

/-- The invariant speaks of the tiles, the partitions, host memory and the management buffer alone. -/
theorem State.Inv.congr {s s' : State} (h : s.Inv) (ht : s'.tiles = s.tiles) (hp : s'.parts = s.parts) (hh : s'.host = s.host)
    (hm : s'.md.buffer = s.md.buffer) : s'.Inv := by
  unfold State.Inv; rw [ht, hp, hh, hm]; exact h

theorem State.Inv.modTile {s : State} (h : s.Inv) (t : Nat) {f : Tile → Tile} (hf : (f (s.tile t)).wf) : (s.modTile t f).Inv := by
  refine ⟨fun e he => ?_, h.2⟩
  rcases KMap.mem_set he with rfl | he
  · exact hf
  · exact h.1 e he

theorem Tile.wf.modCore {x : Tile} (h : x.wf) (c : Fin 8) {f : Core → Core} (hf : (f x.cores[c]).wf) : (x.modCore c f).wf := by
  refine ⟨fun k => ?_, h.2⟩
  show ((x.cores.set c (f x.cores[c]))[k]).wf
  by_cases e : c = k
  · subst e; simp only [Fin.getElem_fin, Vector.getElem_set_self]; exact hf
  · have : c.val ≠ k.val := fun h => e (Fin.ext h)
    simp only [Fin.getElem_fin, Vector.getElem_set_ne _ _ this]; exact h.1 k

theorem State.Inv.modCore {s : State} (h : s.Inv) (t : Nat) (c : Fin 8) {f : Core → Core} (hf : (f (s.core t c)).wf) :
    (s.modCore t c f).Inv := h.modTile t ((h.tile t).modCore c hf)

theorem Core.wf.modThread {x : Core} (h : x.wf) (k : Fin 16) {f : Thread → Thread} (hf : (f x.threads[k]).numbered) :
    (x.modThread k f).wf := by
  refine ⟨h.1, h.2.1, h.2.2.1, fun j => ?_, h.2.2.2.2⟩
  show ((x.threads.set k (f x.threads[k]))[j]).numbered
  by_cases e : k = j
  · subst e; simp only [Fin.getElem_fin, Vector.getElem_set_self]; exact hf
  · have : k.val ≠ j.val := fun h => e (Fin.ext h)
    simp only [Fin.getElem_fin, Vector.getElem_set_ne _ _ this]; exact h.2.2.2.1 j

theorem State.Inv.modThread {s : State} (h : s.Inv) (r : ThreadRef) {f : Thread → Thread} (hf : (f (s.thread r)).numbered) :
    (s.modThread r f).Inv := h.modCore r.tile r.core ((h.core r.tile r.core).modThread r.thr hf)

theorem State.Inv.modTh {s : State} (h : s.Inv) {f : Thread → Thread} (hf : (f s.th).numbered) : (s.modTh f).Inv :=
  h.modThread s.cur hf

theorem State.Inv.modPart {s : State} (h : s.Inv) (p : Nat) {f : Part → Part} (hf : (f (s.part p)).wf) : (s.modPart p f).Inv := by
  refine ⟨h.1, fun e he => ?_, h.2.2⟩
  rcases KMap.mem_set he with rfl | he
  · exact hf
  · exact h.2.1 e he

theorem State.Inv.atTile {s : State} (h : s.Inv) (t d : Nat) (i : Instr) (r : ThreadRef) (a : Args) (b : Bool) :
    (s.atTile t d i r a b).Inv := h

theorem State.Inv.atRef {s : State} (h : s.Inv) (d : Nat) (i : Instr) (r : ThreadRef) (a : Args) : (s.atRef d i r a).Inv := h

theorem State.Inv.takeFresh {s : State} (h : s.Inv) : s.takeFresh.2.Inv := h

/-! ## Numbering through the thread operations -/

/-- A thread whose outstanding instructions are among another's, and whose next number is not lower. -/
theorem Thread.numbered.mono {t t' : Thread} (h : t.numbered) (hn : t.nextOp ≤ t'.nextOp)
    (ho : ∀ o ∈ t'.outst, ∃ p ∈ t.outst, p.id = o.id) (hl : ∀ x ∈ t'.laidOff, x ∈ t.laidOff) : t'.numbered := by
  refine ⟨fun o hm => ?_, fun x hx => Nat.lt_of_lt_of_le (h.2 x (hl x hx)) hn⟩
  obtain ⟨p, hp, e⟩ := ho o hm
  have := h.1 p hp
  omega

theorem Thread.numbered.counted {t : Thread} (h : t.numbered) (b : Bool) : (t.counted b).numbered := h

theorem Thread.numbered.addOutst {t : Thread} (h : t.numbered) (ds : List RegRef) (la : Option (BitVec 4)) (c : Cond) (a b : Nat) :
    (t.addOutst ds la c a b).numbered := by
  refine ⟨fun o hm => ?_, fun x hx => Nat.lt_succ_of_lt (h.2 x hx)⟩
  simp only [Thread.addOutst, List.mem_append, List.mem_singleton] at hm
  show o.id < t.nextOp + 1
  rcases hm with hm | rfl
  · have := h.1 o hm; omega
  · show t.nextOp < t.nextOp + 1; omega

theorem Thread.numbered.setCond {t : Thread} (h : t.numbered) (op : Nat) (c : Cond) : (t.setCond op c).numbered := by
  refine h.mono (Nat.le_refl _) (fun o hm => ?_) fun x hx => hx
  simp only [Thread.setCond, List.mem_map] at hm
  obtain ⟨p, hp, rfl⟩ := hm
  exact ⟨p, hp, by split <;> rfl⟩

theorem State.Inv.countIssue {s : State} (h : s.Inv) (b : Bool) : (s.countIssue b).Inv := by
  obtain ⟨ag, e⟩ := s.countIssue_eq b
  rw [e]
  exact (h.modTh (f := fun t => t.counted b) ((h.thread s.cur).counted b)).congr rfl rfl rfl rfl

theorem State.Inv.deferRes {s : State} (h : s.Inv) (la : BitVec 4) (ds : List RegRef) (lat : Nat) (w : Writes) :
    (s.deferRes la ds lat w).Inv :=
  (h.modTh (f := fun t => t.addOutst ds (some la) (.ready w)) (Thread.numbered.addOutst (h.thread s.cur) ds (some la) (.ready w) 0 0)).congr rfl rfl rfl rfl

theorem State.Inv.resolveIn {s : State} (h : s.Inv) (r : ThreadRef) (op lag : Nat) (w : Writes) : (s.resolveIn r op lag w).Inv :=
  (h.modThread r (f := fun t => t.setCond op (.ready w)) ((h.thread r).setCond op _)).congr rfl rfl rfl rfl

theorem State.Inv.failOp {s : State} (h : s.Inv) (r : ThreadRef) (op lag : Nat) (c : Cause) (v : Word) : (s.failOp r op lag c v).Inv :=
  (h.modThread r (f := fun t => t.setCond op (.faulted c v)) ((h.thread r).setCond op _)).congr rfl rfl rfl rfl

/-! ## HBM and slices -/

theorem State.Inv.hbmWrite {s : State} (h : s.Inv) (p c pl : Nat) (x : BitVec 512) : (s.hbmWrite p c pl x).Inv :=
  h.modPart p ⟨Memory.writeBytes_wf (h.part p).1 _ _, (h.part p).2⟩

theorem State.Inv.modSlice {s : State} (h : s.Inv) (t : Nat) {f : Tile → Tile} (hc : ∀ x, (f x).cores = x.cores) (hm : ∀ x, (f x).mx = x.mx) :
    (s.modTile t f).Inv :=
  h.modTile t ⟨fun k => by rw [hc]; exact (h.tile t).1 k, by rw [hm]; exact (h.tile t).2⟩

theorem State.Inv.sliceClean {s : State} (h : s.Inv) (home p : Nat) (l : SLine) : (s.sliceClean home p l).Inv := by
  unfold State.sliceClean
  split
  · exact (h.hbmWrite ..).modSlice home (fun _ => rfl) (fun _ => rfl)
  · exact h

theorem State.Inv.sliceEvict {s : State} (h : s.Inv) (home p pl : Nat) : (s.sliceEvict home p pl).Inv := by
  unfold State.sliceEvict
  split
  · exact h
  · exact (h.sliceClean ..).modSlice home (fun _ => rfl) (fun _ => rfl)

theorem State.Inv.sliceFillIn {s : State} (h : s.Inv) (home p c pl : Nat) (rule : FillRule) :
    (s.sliceFillIn home p c pl rule).1.Inv := by
  have key : ∀ s1 : State, s1.Inv → ((match (s1.tile home).sliceGet? pl with
      | some l => (s1.modTile home fun t => t.slicePut l, l.data)
      | none =>
        match (s1.tile home).wayFor pl rule.mask with
        | none => (s1, s1.hbmReadBy p rule.key pl)
        | some (w, victim) =>
          ((match victim with
            | some v => s1.sliceEvict home p v
            | none => s1).modTile home fun t => t.slicePut { pl := pl, way := w, ctx := c, data := s1.hbmReadBy p rule.key pl },
            s1.hbmReadBy p rule.key pl) : State × BitVec 512)).1.Inv := by
    intro s1 h1
    split
    · exact h1.modSlice home (fun _ => rfl) (fun _ => rfl)
    · split
      · exact h1
      · rename_i w victim _
        cases victim with
        | none => exact h1.modSlice home (fun _ => rfl) (fun _ => rfl)
        | some v => exact (h1.sliceEvict home p v).modSlice home (fun _ => rfl) (fun _ => rfl)
  refine key _ ?_
  split
  · split
    · exact h
    · exact h.sliceEvict ..
  · exact h

theorem State.Inv.sliceFill {s : State} (h : s.Inv) (home p c pl : Nat) : (s.sliceFill home p c pl).1.Inv :=
  h.sliceFillIn ..

theorem State.Inv.sliceWrite {s : State} (h : s.Inv) (home p c pl o n v : Nat) (sys : Bool := false) :
    (s.sliceWrite home p c pl o n v sys).Inv := by
  unfold State.sliceWrite
  simp only
  split
  · split
    · exact ((h.sliceFill ..).hbmWrite ..).modSlice home (fun _ => rfl) (fun _ => rfl)
    · exact (h.sliceFill ..).modSlice home (fun _ => rfl) (fun _ => rfl)
  · exact (h.sliceFill ..).hbmWrite ..

theorem State.Inv.physWrite {s : State} (h : s.Inv) (p c pa : Nat) (bs : List Byte) : (s.physWrite p c pa bs).Inv := by
  unfold State.physWrite
  generalize bs.zipIdx = l
  induction l generalizing s with
  | nil => exact h
  | cons x l ih =>
    exact ih (h.sliceWrite ((s.part p).homeTile ((pa + x.2) / 64)) p c ((pa + x.2) / 64) ((pa + x.2) % 64) 1 x.1.toNat true)

/-! ## Walks (R391) -/

theorem State.Inv.tableLine {s : State} (h : s.Inv) (p c pa : Nat) : (s.tableLine p c pa).Inv := by
  unfold State.tableLine
  split
  · exact h.sliceFill ..
  · exact h

theorem State.Inv.keepEntry {s : State} (h : s.Inv) (d : Fin 8) (x : NonLeaf) : (s.keepEntry d x).Inv := h

theorem State.Inv.walkFill {s : State} (h : s.Inv) (d : Fin 8) (p c asid va k lvl table : Nat) :
    (s.walkFill d p c asid va k lvl table).Inv := by
  induction k generalizing s lvl table with
  | zero => exact h
  | succ k ih =>
    unfold State.walkFill
    simp only
    split
    · exact ih h _ _
    · split
      · exact ih ((h.tableLine ..).keepEntry ..) _ _
      · exact h.tableLine ..

theorem State.Inv.walked {s : State} (h : s.Inv) (d : Fin 8) (p c : Nat) (va : Word) : (s.walked d p c va).Inv := by
  unfold State.walked
  dsimp only
  split
  · exact h
  · exact h.walkFill ..

theorem State.Inv.beginWalk {s : State} (h : s.Inv) (w : Walk) : (s.beginWalk w).Inv := h

/-- A walk is asked for: memory stays, and so do the tiles. -/
theorem State.Inv.askWalk {s : State} (h : s.Inv) (t : Nat) (va : Word) : (s.askWalk t va).Inv := by
  unfold State.askWalk
  simp only
  split
  · exact h
  · split <;> exact h

theorem State.Inv.endWalk {s : State} (h : s.Inv) (d : Fin 8) (p c : Nat) (va : Word) : (s.endWalk d p c va).Inv := by
  unfold State.endWalk
  simp only
  split
  · split <;> exact h
  · exact h

end Sys2Proof.Machine
end

