-- ==== Sys2Proof/Laws/LocalMem.lean ====
section
/-!
SUPPORT. What a write to local memory can do: it changes the bytes it stores to and no other byte of any core, and keeps the
invariant.
-/
namespace Sys2Proof.Machine

/-! ## Bytes and entries -/

theorem natToBytes_length (n x : Nat) : (natToBytes n x).length = n := by
  induction n generalizing x with
  | zero => rfl
  | succ n ih => simp [natToBytes, ih]

/-- The words of an entry's record, written to its place in the spill region. -/
theorem Memory.foldWords_wf {m : Memory} (h : m.wf = true) (b : Nat) (w : Vector W32 16) (ks : List (Fin 16)) :
    (ks.foldl (fun m k => m.writeNat (b + 4 * k.val) 4 (w[k]).toNat) m).wf = true := by
  induction ks generalizing m with
  | nil => exact h
  | cons k ks ih => exact ih (Memory.writeNat_wf h ..)

theorem Memory.foldWords_outside {m : Memory} (h : m.wf = true) (b : Nat) (w : Vector W32 16) (ks : List (Fin 16)) {a : Nat}
    (ha : ¬ (b ≤ a ∧ a < b + 64)) :
    (ks.foldl (fun m k => m.writeNat (b + 4 * k.val) 4 (w[k]).toNat) m).readByte a = m.readByte a := by
  induction ks generalizing m with
  | nil => rfl
  | cons k ks ih =>
    rw [List.foldl_cons, ih (Memory.writeNat_wf h ..)]
    refine Memory.readByte_writeBytes_outside h _ _ _ ?_
    rw [natToBytes_length]
    have := k.isLt
    omega

/-! ## What waking on a written word can do to a core -/

/-- What waking keeps: the spill region's place, the frames with their watch registers, and no new parked record. -/
def Core.woke (c c' : Core) : Prop :=
  c'.area = c.area ∧ (∀ f ∈ c'.frames, ∃ g ∈ c.frames, g.1 = f.1 ∧ g.2.watch = f.2.watch) ∧ ∀ e ∈ c'.park, e ∈ c.park

theorem Core.woke.refl (c : Core) : c.woke c := ⟨rfl, fun f hf => ⟨f, hf, rfl, rfl⟩, fun _ he => he⟩

theorem Core.woke.trans {a b c : Core} (h : a.woke b) (k : b.woke c) : a.woke c := by
  refine ⟨k.1.trans h.1, fun f hf => ?_, fun e he => h.2.2 e (k.2.2 e he)⟩
  obtain ⟨g, hg, e1, e2⟩ := k.2.1 f hf
  obtain ⟨g', hg', e3, e4⟩ := h.2.1 g hg
  exact ⟨g', hg', e3.trans e1, e4.trans e2⟩

theorem Core.wokenByte.mono {c c' : Core} (h : c.woke c') {l : Launch} {w a : Nat} (hb : c'.wokenByte l w a) : c.wokenByte l w a := by
  rcases hb with ⟨f, hf, e1, e2⟩ | ⟨⟨e, he, hw⟩, h1, h2⟩
  · obtain ⟨g, hg, e3, e4⟩ := h.2.1 f hf
    exact .inl ⟨g, hg, e4.trans e1, by rw [e3]; exact e2⟩
  · rw [h.1] at h1 h2
    exact .inr ⟨⟨e, h.2.2 e he, hw⟩, h1, h2⟩

/-- One entry admitted: it writes inside the spill region alone and keeps the core well-formed. -/
theorem Core.pushBottom_spec {c : Core} (h : c.wf) (e : Entry) :
    (c.pushBottom e).wf ∧ (c.pushBottom e).area = c.area ∧ (c.pushBottom e).frames = c.frames ∧ (c.pushBottom e).park = c.park ∧
      ∀ a, ¬ (c.area ≤ a ∧ a < c.area + 64 * 512) → (c.pushBottom e).lm.readByte a = c.lm.readByte a := by
  unfold Core.pushBottom Core.takeEntry
  simp only
  split
  · exact ⟨h, rfl, rfl, rfl, fun _ _ => rfl⟩
  · split
    · exact ⟨h, rfl, rfl, rfl, fun _ _ => rfl⟩
    · rename_i i hi
      have hi := List.mem_range.1 (List.mem_of_find?_eq_some hi)
      refine ⟨⟨Memory.foldWords_wf h.1 _ _ _, h.2⟩, rfl, rfl, rfl, fun a ha => ?_⟩
      exact Memory.foldWords_outside h.1 _ _ _ (by
        show ¬ (c.area + 64 * i ≤ a ∧ a < c.area + 64 * i + 64)
        omega)

theorem Core.pushAll_spec (es : List Entry) {c : Core} (h : c.wf) :
    (es.foldl Core.pushBottom c).wf ∧ (es.foldl Core.pushBottom c).area = c.area ∧
      (es.foldl Core.pushBottom c).frames = c.frames ∧ (es.foldl Core.pushBottom c).park = c.park ∧
      ∀ a, ¬ (es ≠ [] ∧ c.area ≤ a ∧ a < c.area + 64 * 512) → (es.foldl Core.pushBottom c).lm.readByte a = c.lm.readByte a := by
  induction es generalizing c with
  | nil => exact ⟨h, rfl, rfl, rfl, fun _ _ => rfl⟩
  | cons e es ih =>
    obtain ⟨h1, h2, h3, h4, h5⟩ := Core.pushBottom_spec h e
    obtain ⟨k1, k2, k3, k4, k5⟩ := ih h1
    refine ⟨k1, k2.trans h2, k3.trans h3, k4.trans h4, fun a ha => ?_⟩
    have ha' : ¬ (c.area ≤ a ∧ a < c.area + 64 * 512) := fun x => ha ⟨by simp, x⟩
    rw [List.foldl_cons, k5 a fun x => ha' (by rw [h2] at x; exact x.2), h5 a ha']

theorem Core.wakeParked_spec {c : Core} (h : c.wf) (l : Launch) (w : Nat) :
    (c.wakeParked w).wf ∧ c.woke (c.wakeParked w) ∧
      ∀ a, ¬ c.wokenByte l w a → (c.wakeParked w).lm.readByte a = c.lm.readByte a := by
  obtain ⟨h1, h2, h3, h4, h5⟩ := Core.pushAll_spec (((c.park.filter fun e => match e.1 with
      | .word x => x == w
      | .waitw x _ => x == w
      | .counter _ => false).map fun e => match e.1 with
      | .waitw _ _ => { e.2 with waitOut := some false }
      | _ => e.2))
    (c := { c with park := c.park.filter fun e => !(match e.1 with
      | .word x => x == w
      | .waitw x _ => x == w
      | .counter _ => false) }) h
  refine ⟨h1, ⟨h2, fun f hf => ⟨f, by rw [show (c.wakeParked w).frames = c.frames from h3] at hf; exact hf, rfl, rfl⟩, fun e he => ?_⟩,
    fun a ha => h5 a fun x => ha (.inr ?_)⟩
  · rw [show (c.wakeParked w).park = _ from h4] at he
    exact (List.mem_filter.1 he).1
  · obtain ⟨e, he⟩ := List.exists_mem_of_ne_nil _ x.1
    obtain ⟨y, hy, -⟩ := List.mem_map.1 he
    exact ⟨⟨y, (List.mem_filter.1 hy).1, (List.mem_filter.1 hy).2⟩, x.2⟩

theorem Core.wf.wakeWatchers {c : Core} (h : c.wf) (w : Nat) : (c.wakeWatchers w).wf := by
  refine ⟨h.1, h.2.1, h.2.2.1, fun k => ?_, h.2.2.2.2⟩
  have : (c.wakeWatchers w).threads[k] = if c.threads[k].watch = some w then { c.threads[k] with ready := true } else c.threads[k] := by
    simp [Core.wakeWatchers]
  rw [this]
  split
  · exact h.2.2.2.1 k
  · exact h.2.2.2.1 k

theorem Core.wakeFrames_spec {c : Core} (h : c.wf) (l : Launch) (w : Nat) :
    (c.wakeFrames l w).wf ∧ c.woke (c.wakeFrames l w) ∧
      ∀ a, ¬ c.wokenByte l w a → (c.wakeFrames l w).lm.readByte a = c.lm.readByte a := by
  unfold Core.wakeFrames
  have key : ∀ (fs : List (Nat × Thread)) (d : Core), (∀ f ∈ fs, f ∈ c.frames) → d.wf → c.woke d →
      (∀ a, ¬ c.wokenByte l w a → d.lm.readByte a = c.lm.readByte a) →
      let r := fs.foldl (fun c f =>
        if f.2.watch = some w then
          let o := frameOff l f.1 + 0x301
          { c with lm := c.lm.writeByte o (BitVec.ofNat 8 (c.lm.readNat o 1) ||| 1),
                   frames := c.frames.set f.1 { f.2 with ready := true } }
        else c) d
      r.wf ∧ c.woke r ∧ ∀ a, ¬ c.wokenByte l w a → r.lm.readByte a = c.lm.readByte a := by
    intro fs
    induction fs with
    | nil => exact fun d _ h1 h2 h3 => ⟨h1, h2, h3⟩
    | cons f fs ih =>
      intro d hs h1 h2 h3
      rw [List.foldl_cons]
      have hf : f ∈ c.frames := hs f List.mem_cons_self
      refine ih _ (fun g hg => hs g (List.mem_cons_of_mem _ hg)) ?_ ?_ ?_
      · split
        · refine ⟨Memory.writeByte_wf h1.1 _ _, h1.2.1, h1.2.2.1, h1.2.2.2.1, fun e he => ?_⟩
          rcases KMap.mem_set he with rfl | he
          · exact h.2.2.2.2 f hf
          · exact h1.2.2.2.2 e he
        · exact h1
      · split
        · refine ⟨h2.1, fun e he => ?_, h2.2.2⟩
          rcases KMap.mem_set he with rfl | he
          · exact ⟨f, hf, rfl, rfl⟩
          · exact h2.2.1 e he
        · exact h2
      · intro a ha
        split
        · rename_i e
          exact (Memory.readByte_writeByte_ne h1.1 (fun x => ha (.inl ⟨f, hf, e, x⟩)) _).trans (h3 a ha)
        · exact h3 a ha
  exact key c.frames c (fun _ h => h) h (Core.woke.refl c) fun _ _ => rfl

/-- Waking on one word: watchers, displaced frames, parked records. -/
theorem Core.wake_spec {c : Core} (h : c.wf) (l : Launch) (w : Nat) :
    let c' := ((c.wakeWatchers w).wakeFrames l w).wakeParked w
    c'.wf ∧ c.woke c' ∧ ∀ a, ¬ c.wokenByte l w a → c'.lm.readByte a = c.lm.readByte a := by
  have hw : c.woke (c.wakeWatchers w) := Core.woke.refl c
  obtain ⟨h1, h2, h3⟩ := Core.wakeFrames_spec (h.wakeWatchers w) l w
  obtain ⟨k1, k2, k3⟩ := Core.wakeParked_spec h1 l w
  have h2 := hw.trans h2
  refine ⟨k1, h2.trans k2, fun a ha => ?_⟩
  rw [k3 a fun x => ha (x.mono h2), h3 a fun x => ha (x.mono hw)]
  rfl

/-- Waking on the words written. -/
theorem Core.wakeAll_spec (l : Launch) (b : Nat → Bool) (ws : List Nat) {c : Core} (h : c.wf) :
    let c' := ws.foldl (fun c w => if b w then c else ((c.wakeWatchers w).wakeFrames l w).wakeParked w) c
    c'.wf ∧ c.woke c' ∧ ∀ a, (∀ w ∈ ws, ¬ c.wokenByte l w a) → c'.lm.readByte a = c.lm.readByte a := by
  induction ws generalizing c with
  | nil => exact ⟨h, Core.woke.refl c, fun _ _ => rfl⟩
  | cons w ws ih =>
    simp only [List.foldl_cons]
    by_cases hb : b w
    · simp only [hb, if_true]
      obtain ⟨h1, h2, h3⟩ := ih h
      exact ⟨h1, h2, fun a ha => h3 a fun x hx => ha x (List.mem_cons_of_mem _ hx)⟩
    · simp only [hb, Bool.false_eq_true, if_false]
      obtain ⟨h1, h2, h3⟩ := Core.wake_spec h l w
      obtain ⟨k1, k2, k3⟩ := ih h1
      refine ⟨k1, h2.trans k2, fun a ha => ?_⟩
      rw [k3 a fun x hx y => ha x (List.mem_cons_of_mem _ hx) (y.mono h2), h3 a (ha w List.mem_cons_self)]

/-! ## Reservations -/

theorem Tile.breakResv_lm (t : Tile) (src : Option ThreadRef) (hit : Resv → Bool) (c : Fin 8) :
    (t.breakResv src hit).cores[c].lm = t.cores[c].lm := by simp [Tile.breakResv]

theorem Tile.wf.breakResv {t : Tile} (h : t.wf) (src : Option ThreadRef) (hit : Resv → Bool) : (t.breakResv src hit).wf := by
  refine ⟨fun k => ?_, h.2⟩
  have hk := h.1 k
  have e : (t.breakResv src hit).cores[k].lm = t.cores[k].lm := t.breakResv_lm src hit k
  have e2 : (t.breakResv src hit).cores[k].full = t.cores[k].full := by simp [Tile.breakResv]
  have e3 : (t.breakResv src hit).cores[k].lines = t.cores[k].lines := by simp [Tile.breakResv]
  have e5 : (t.breakResv src hit).cores[k].frames = t.cores[k].frames := by simp [Tile.breakResv]
  refine ⟨e ▸ hk.1, e2 ▸ hk.2.1, e3 ▸ hk.2.2.1, fun j => ?_, e5 ▸ hk.2.2.2.2⟩
  have hj := hk.2.2.2.1 j
  have : (t.breakResv src hit).cores[k].threads[j].outst = t.cores[k].threads[j].outst ∧
      (t.breakResv src hit).cores[k].threads[j].laidOff = t.cores[k].threads[j].laidOff ∧
      (t.breakResv src hit).cores[k].threads[j].nextOp = t.cores[k].threads[j].nextOp := by
    simp only [Tile.breakResv, Fin.getElem_fin, Vector.getElem_mapIdx]
    repeat' split
    all_goals exact ⟨rfl, rfl, rfl⟩
  unfold Thread.numbered
  rw [this.1, this.2.1, this.2.2]
  exact hj

/-! ## Ports -/

theorem State.core_modTile_same (s : State) (tile : Nat) {f : Tile → Tile} (hf : ∀ y, (f y).cores = y.cores) (t : Nat) (c : Fin 8) :
    (s.modTile tile f).core t c = s.core t c := by
  unfold State.core
  by_cases e : t = tile
  · subst e; rw [State.tile_modTile_self, hf]
  · rw [State.tile_modTile_ne _ _ e]

theorem State.countDiverge_core (s : State) (tile p : Nat) (src : StoreSrc) (t : Nat) (c : Fin 8) :
    (s.countDiverge tile p src).core t c = s.core t c := by
  simp only [State.countDiverge, apply_ite (fun x : State => x.core t c)]
  exact ite_self _

theorem State.Inv.countDiverge {s : State} (h : s.Inv) (tile p : Nat) (src : StoreSrc) : (s.countDiverge tile p src).Inv := by
  have h1 := h.modPart p (f := fun x => { x with diverged := (s.part p).diverged + 1 }) (State.Inv.part h p)
  simp only [State.countDiverge]
  split
  · exact h1.congr rfl rfl rfl rfl
  · exact h1

/-- Writing a port's account, and counting a divergence where there is one. -/
theorem State.setPort_core (s : State) (tile p : Nat) (src : StoreSrc) {f : Tile → Tile} (hf : ∀ y, (f y).cores = y.cores) (out : Bool) (t : Nat)
    (c : Fin 8) : (if out then (s.modTile tile f).countDiverge tile p src else s.modTile tile f).core t c = s.core t c := by
  cases out
  · exact State.core_modTile_same _ _ hf _ _
  · exact (State.countDiverge_core (s.modTile tile f) tile p src t c).trans (State.core_modTile_same _ _ hf _ _)

theorem State.Inv.setPort {s : State} (h : s.Inv) (tile p : Nat) (src : StoreSrc) {f : Tile → Tile} (hf : ∀ y, (f y).cores = y.cores)
    (hm : ∀ y, (f y).mx = y.mx) (out : Bool) :
    (if out then (s.modTile tile f).countDiverge tile p src else s.modTile tile f).Inv := by
  cases out
  · exact h.modSlice tile hf hm
  · exact State.Inv.countDiverge (h.modSlice tile hf hm) tile p src

/-- The account a port keeps of a write. -/
theorem State.notePort_eq (s : State) (tile p : Nat) (src : StoreSrc) (x : Nat × Nat) : ∃ (a : TracePort) (out : Bool),
    s.notePort tile p src x = if out then (s.modTile tile fun t => { t with ports := t.ports.set x.1 a }).countDiverge tile p src
      else s.modTile tile fun t => { t with ports := t.ports.set x.1 a } := ⟨_, _, rfl⟩

theorem State.notePort_core (s : State) (tile p : Nat) (src : StoreSrc) (x : Nat × Nat) (t : Nat) (c : Fin 8) :
    (s.notePort tile p src x).core t c = s.core t c := by
  obtain ⟨a, out, e⟩ := s.notePort_eq tile p src x
  rw [e]
  exact State.setPort_core s tile p src (f := fun t => { t with ports := t.ports.set x.1 a }) (fun _ => rfl) out t c

theorem State.Inv.notePort {s : State} (h : s.Inv) (tile p : Nat) (src : StoreSrc) (x : Nat × Nat) : (s.notePort tile p src x).Inv := by
  obtain ⟨a, out, e⟩ := s.notePort_eq tile p src x
  rw [e]
  exact h.setPort tile p src (f := fun t => { t with ports := t.ports.set x.1 a }) (fun _ => rfl) (fun _ => rfl) out

theorem State.notePorts_core (tile p : Nat) (src : StoreSrc) (t : Nat) (c : Fin 8) (ws : List (Nat × Nat)) (s : State) :
    (ws.foldl (fun s x => s.notePort tile p src x) s).core t c = s.core t c := by
  induction ws generalizing s with
  | nil => rfl
  | cons x ws ih => rw [List.foldl_cons, ih, State.notePort_core]

theorem State.Inv.notePorts {s : State} (h : s.Inv) (tile p : Nat) (src : StoreSrc) (ws : List (Nat × Nat)) :
    (ws.foldl (fun s x => s.notePort tile p src x) s).Inv := by
  induction ws generalizing s with
  | nil => exact h
  | cons x ws ih => exact ih (h.notePort ..)

theorem State.noteWrite_core (s : State) (tile p : Nat) (src : StoreSrc) (ws : List (Nat × Nat)) (t : Nat) (c : Fin 8) :
    (s.noteWrite tile p src ws).core t c = s.core t c := State.notePorts_core ..

theorem State.Inv.noteWrite {s : State} (h : s.Inv) (tile p : Nat) (src : StoreSrc) (ws : List (Nat × Nat)) :
    (s.noteWrite tile p src ws).Inv := h.notePorts ..

/-! ## The write -/

/-- The bytes of a write, those of a word in error that is covered in part left out. -/
theorem Memory.foldWrite_wf {m : Memory} (h : m.wf = true) (bs : List (Byte × Nat)) (off : Nat) (skip : Nat → Bool) :
    (bs.foldl (fun m x => if skip x.2 then m else m.writeByte (off + x.2) x.1) m).wf = true := by
  induction bs generalizing m with
  | nil => exact h
  | cons x bs ih =>
    rw [List.foldl_cons]
    refine ih ?_
    split
    · exact h
    · exact Memory.writeByte_wf h _ _

theorem Memory.foldWrite_outside {m : Memory} (h : m.wf = true) (bs : List (Byte × Nat)) (off : Nat) (skip : Nat → Bool) (a : Nat)
    (ha : ∀ x ∈ bs, a ≠ off + x.2) :
    (bs.foldl (fun m x => if skip x.2 then m else m.writeByte (off + x.2) x.1) m).readByte a = m.readByte a := by
  induction bs generalizing m with
  | nil => rfl
  | cons x bs ih =>
    rw [List.foldl_cons]
    have hx := ha x List.mem_cons_self
    have hs : ∀ y ∈ bs, a ≠ off + y.2 := fun y hy => ha y (List.mem_cons_of_mem _ hy)
    split
    · exact ih h hs
    · rw [ih (Memory.writeByte_wf h _ _) hs, Memory.readByte_writeByte_ne h hx]

theorem KMap.rising_foldSet {m : KMap Unit} (h : m.Rising) (ws : List Nat) (b : Nat → Bool) :
    (ws.foldl (fun u w => if b w then u else u.set w ()) m).Rising := by
  induction ws generalizing m with
  | nil => exact h
  | cons w ws ih =>
    rw [List.foldl_cons]
    refine ih ?_
    split
    · exact h
    · exact KMap.set_sorted h _ _

/-- A word in error that a write covers only in part. -/
def lmBlocked (c : Core) (off n w : Nat) : Bool := c.lmUE.has w && !covers off n w

/-- The core of a write before what waits on its words is woken: its bytes are stored and its words are full. -/
theorem Core.wf.stored {c : Core} (h : c.wf) (off n v : Nat) (full : Bool) (skip : Nat → Bool) (b : Nat → Bool) (ue : KMap Unit) :
    Core.wf { c with
      lm := (natToBytes n v).zipIdx.foldl (fun m x => if skip x.2 then m else m.writeByte (off + x.2) x.1) c.lm
      lmUE := ue
      full := if full then (wordsOf off n).foldl (fun u w => if b w then u else u.set w ()) c.full else c.full } := by
  refine ⟨Memory.foldWrite_wf h.1 _ _ _, ?_, h.2.2⟩
  dsimp only
  split
  · exact KMap.rising_foldSet h.2.1 _ _
  · exact h.2.1

/-- A write to local memory keeps the invariant. -/
theorem State.Inv.lmWrite {s : State} (h : s.Inv) (tile : Nat) (core : Fin 8) (off n v : Nat) (src : Option ThreadRef) (full : Bool)
    (by_ : Option StoreSrc) : (s.lmWrite tile core off n v src full by_).Inv := by
  unfold State.lmWrite
  dsimp only
  generalize hs : s.noteWrite tile (s.launch tile).part (by_.getD (storeSrc tile src)) (lmPorts core off n) = s1
  have h1 : s1.Inv := hs ▸ h.noteWrite ..
  have hw := fun ue => (Core.wakeAll_spec (s.launch tile) (lmBlocked (s1.core tile core) off n) (wordsOf off n)
    (Core.wf.stored (h1.core tile core) off n v full (fun i => lmBlocked (s1.core tile core) off n ((off + i) / 4))
      (lmBlocked (s1.core tile core) off n) ue)).1
  refine State.Inv.modTile ?_ tile (Tile.wf.breakResv (State.Inv.tile ?_ tile) _ _) <;>
    exact h1.modCore tile core (hw _)

/-- A write to local memory changes the bytes it stores to and what waking on its words writes, and no other byte of any core
(R14, R169, R336). -/
theorem State.lmWrite_outside {s : State} (h : s.Inv) (tile : Nat) (core : Fin 8) (off n v : Nat) (src : Option ThreadRef) (full : Bool)
    (by_ : Option StoreSrc) (t : Nat) (k : Fin 8) (a : Nat) (ha : ¬ (t = tile ∧ k = core ∧ off ≤ a ∧ a < off + n))
    (hw : t = tile → k = core → ∀ w ∈ wordsOf off n, ¬ (s.core tile core).wokenByte (s.launch tile) w a) :
    ((s.lmWrite tile core off n v src full by_).core t k).lm.readByte a = (s.core t k).lm.readByte a := by
  unfold State.lmWrite
  dsimp only
  have hc : ∀ t k, (s.noteWrite tile (s.launch tile).part (by_.getD (storeSrc tile src)) (lmPorts core off n)).core t k = s.core t k :=
    fun t k => State.noteWrite_core ..
  have h1 := h.noteWrite tile (s.launch tile).part (by_.getD (storeSrc tile src)) (lmPorts core off n)
  rw [← hc t k]
  simp only [← hc tile core] at hw
  generalize s.noteWrite tile (s.launch tile).part (by_.getD (storeSrc tile src)) (lmPorts core off n) = s1 at h1 hw ⊢
  by_cases et : t = tile
  · subst et
    unfold State.core
    rw [State.tile_modTile_self, Tile.breakResv_lm]
    by_cases ek : k = core
    · subst ek
      show ((s1.modCore _ _ _).core _ _).lm.readByte a = (s1.core _ _).lm.readByte a
      rw [State.core_modCore_self]
      refine ((Core.wakeAll_spec (s.launch t) (lmBlocked (s1.core t k) off n) (wordsOf off n) (Core.wf.stored (h1.core t k) off n v full
        (fun i => lmBlocked (s1.core t k) off n ((off + i) / 4)) (lmBlocked (s1.core t k) off n) _)).2.2 a
        fun w hw' => hw rfl rfl w hw').trans ?_
      refine Memory.foldWrite_outside (h1.core t k).1 _ off (fun i => lmBlocked (s1.core t k) off n ((off + i) / 4)) _
        fun x hx e => ha ⟨rfl, rfl, ?_⟩
      have := List.mem_zipIdx hx
      rw [natToBytes_length] at this
      omega
    · show ((s1.modCore _ _ _).core _ _).lm.readByte a = (s1.core _ _).lm.readByte a
      rw [State.core_modCore_ne _ _ fun e => ek e.2]
  · show (((State.modTile _ _ _).tile t).cores[k]).lm.readByte a = _
    rw [State.tile_modTile_ne _ _ et]
    show ((s1.modCore _ _ _).core _ _).lm.readByte a = _
    rw [State.core_modCore_ne _ _ fun e => et e.1]

end Sys2Proof.Machine
end

