-- ==== Sys2Proof/Laws/Access.lean ====
section
/-!
SUPPORT. Host memory with the ranges that fences left undefined: what one write does to every byte (R270, R419, log 3).
-/
namespace Sys2Proof.Machine

/-- The range covers an address. -/
def fogAt (x : Nat) (f : Nat × Nat × Nat) : Bool := f.1 ≤ x && x < f.2.1

/-- A written byte is left undefined by no range any more. -/
theorem carve_inside {a n x : Nat} (h : a ≤ x ∧ x < a + n) (fog : List (Nat × Nat × Nat)) :
    ∀ f ∈ carve a n fog, fogAt x f = false := by
  intro f hf
  simp only [carve, List.mem_filter, List.mem_flatMap, List.mem_cons, List.not_mem_nil, or_false] at hf
  obtain ⟨⟨g, -, rfl | rfl⟩, -⟩ := hf <;> simp [fogAt] <;> omega

/-- The pieces that a write leaves of one range cover another byte with the same free value, or not, as the range does. -/
theorem carve_piece {a n x : Nat} (h : x < a ∨ a + n ≤ x) (g : Nat × Nat × Nat) :
    ((carve a n [g]).reverse.find? (fogAt x)).map (·.2.2) = ([g].find? (fogAt x)).map (·.2.2) := by
  obtain ⟨lo, hi, k⟩ := g
  have key : ∀ l m : Nat, fogAt x (l, m, k) = decide (l ≤ x ∧ x < m) := fun l m => by simp [fogAt]
  simp only [carve, List.flatMap_cons, List.flatMap_nil, List.append_nil, List.filter_cons, List.filter_nil, decide_eq_true_eq]
  by_cases h1 : lo < min hi a <;> by_cases h2 : max lo (a + n) < hi <;>
    cases h3 : decide (lo ≤ x ∧ x < hi) <;> cases h4 : decide (lo ≤ x ∧ x < min hi a) <;>
      cases h5 : decide (max lo (a + n) ≤ x ∧ x < hi) <;>
        first
        | (simp only [decide_eq_true_eq, decide_eq_false_iff_not] at h3 h4 h5; exfalso; omega)
        | simp only [h1, h2, h3, h4, h5, key, if_true, if_false, List.reverse_cons, List.reverse_nil, List.nil_append, List.cons_append,
            List.find?_cons, List.find?_nil, Option.map_some, Option.map_none]

/-- A byte that is not written is left undefined by the same fence, or by none. -/
theorem carve_outside {a n x : Nat} (h : x < a ∨ a + n ≤ x) (fog : List (Nat × Nat × Nat)) :
    ((carve a n fog).reverse.find? (fogAt x)).map (·.2.2) = (fog.reverse.find? (fogAt x)).map (·.2.2) := by
  induction fog with
  | nil => rfl
  | cons g fs ih =>
    have e : carve a n (g :: fs) = carve a n [g] ++ carve a n fs := by
      simp only [carve, List.flatMap_cons, List.flatMap_nil, List.append_nil, List.filter_append]
    have p := carve_piece h g
    rw [e, List.reverse_append, List.reverse_cons, List.find?_append, List.find?_append]
    cases u : (carve a n fs).reverse.find? (fogAt x) with
    | some f =>
      cases v : fs.reverse.find? (fogAt x) with
      | some f' => simpa [u, v] using ih
      | none => simp [u, v] at ih
    | none =>
      cases v : fs.reverse.find? (fogAt x) with
      | some f' => simp [u, v] at ih
      | none => simpa using p

/-- A byte as its fence, if any, and memory give it. -/
theorem State.hostByte_eq (s : State) (x : Nat) : s.hostByte x =
    match (s.hostFog.reverse.find? (fogAt x)).map (·.2.2) with
    | none => s.host.readByte x
    | some k => Config.freeByte k x := by
  have : (fun f : Nat × Nat × Nat => decide (f.1 ≤ x) && decide (x < f.2.1)) = fogAt x := rfl
  simp only [State.hostByte, this]
  cases s.hostFog.reverse.find? (fogAt x) <;> rfl

/-- A write of host memory leaves every other byte alone. -/
theorem State.hostByte_hostWrite_outside {s : State} (hw : s.host.wf = true) (a n v : Nat) {x : Nat} (h : x < a ∨ a + n ≤ x) :
    (s.hostWrite a n v).hostByte x = s.hostByte x := by
  rw [State.hostByte_eq, State.hostByte_eq]
  have : (s.hostWrite a n v).host.readByte x = s.host.readByte x :=
    Memory.readByte_writeBytes_outside hw a x _ (by simpa [natToBytes_length] using h)
  simp only [State.hostWrite] at this ⊢
  rw [carve_outside h, this]

/-- A written byte of host memory reads what was written. -/
theorem State.hostByte_hostWrite_inside (s : State) (a n v : Nat) {x : Nat} (h : a ≤ x ∧ x < a + n) :
    (s.hostWrite a n v).hostByte x = (s.host.writeNat a n v).readByte x := by
  rw [State.hostByte_eq]
  have : (carve a n s.hostFog).reverse.find? (fogAt x) = none := by
    rw [List.find?_eq_none]
    intro f hf
    simp [carve_inside h _ f (List.mem_reverse.1 hf)]
  simp [State.hostWrite, this]

end Sys2Proof.Machine
end

