-- ==== Sys2Proof/Laws/Encode.lean ====
section
/-!
SUPPORT. Laws of the encoding: the fields of a packed S-word, format by format, and the operand classes of R73.
-/
namespace Sys2Proof

/-- The fields of a packed word of format R stand at the bits of R70. -/
theorem Raw.fields_fR {maj : BitVec 6} {d a b : BitVec 5} {fn : BitVec 7} {la : BitVec 4} :
    (Raw.pack (.fR maj d a b fn la)).extractLsb' 26 6 = maj ∧ (Raw.pack (.fR maj d a b fn la)).extractLsb' 21 5 = d ∧ (Raw.pack (.fR maj d a b fn la)).extractLsb' 16 5 = a ∧ (Raw.pack (.fR maj d a b fn la)).extractLsb' 11 5 = b ∧ (Raw.pack (.fR maj d a b fn la)).extractLsb' 4 7 = fn ∧ (Raw.pack (.fR maj d a b fn la)).extractLsb' 0 4 = la := by
  refine ⟨?_, ?_, ?_, ?_, ?_, ?_⟩ <;> apply BitVec.eq_of_getLsbD_eq <;> intro i hi <;>
    rw [BitVec.getLsbD_extractLsb'] <;> simp only [Raw.pack, hi, decide_true, Bool.true_and] <;> repeat rw [BitVec.getLsbD_append]
  all_goals grind

/-- A packed word of format R is cut into the fields it was packed from. -/
theorem Raw.unpack_fR {maj : BitVec 6} {d a b : BitVec 5} {fn : BitVec 7} {la : BitVec 4} (h : fmtOf maj = some .r) (hz : Raw.pack (.fR maj d a b fn la) ≠ 0) :
    Raw.unpack (Raw.pack (.fR maj d a b fn la)) = .ok (.fR maj d a b fn la) := by
  obtain ⟨e0, e1, e2, e3, e4, e5⟩ := @Raw.fields_fR maj d a b fn la
  unfold Raw.unpack
  rw [if_neg hz]
  simp only [e0, e1, e2, e3, e4, e5, h]

/-- The fields of a packed word of format I stand at the bits of R70. -/
theorem Raw.fields_fI {maj : BitVec 6} {d a : BitVec 5} {fn : BitVec 3} {imm : BitVec 13} :
    (Raw.pack (.fI maj d a fn imm)).extractLsb' 26 6 = maj ∧ (Raw.pack (.fI maj d a fn imm)).extractLsb' 21 5 = d ∧ (Raw.pack (.fI maj d a fn imm)).extractLsb' 16 5 = a ∧ (Raw.pack (.fI maj d a fn imm)).extractLsb' 13 3 = fn ∧ (Raw.pack (.fI maj d a fn imm)).extractLsb' 0 13 = imm := by
  refine ⟨?_, ?_, ?_, ?_, ?_⟩ <;> apply BitVec.eq_of_getLsbD_eq <;> intro i hi <;>
    rw [BitVec.getLsbD_extractLsb'] <;> simp only [Raw.pack, hi, decide_true, Bool.true_and] <;> repeat rw [BitVec.getLsbD_append]
  all_goals grind

/-- A packed word of format I is cut into the fields it was packed from. -/
theorem Raw.unpack_fI {maj : BitVec 6} {d a : BitVec 5} {fn : BitVec 3} {imm : BitVec 13} (h : fmtOf maj = some .i) (hz : Raw.pack (.fI maj d a fn imm) ≠ 0) :
    Raw.unpack (Raw.pack (.fI maj d a fn imm)) = .ok (.fI maj d a fn imm) := by
  obtain ⟨e0, e1, e2, e3, e4⟩ := @Raw.fields_fI maj d a fn imm
  unfold Raw.unpack
  rw [if_neg hz]
  simp only [e0, e1, e2, e3, e4, h]

/-- The fields of a packed word of format M stand at the bits of R70. -/
theorem Raw.fields_fM {maj : BitVec 6} {d a : BitVec 5} {fn : BitVec 3} {off : BitVec 9} {la : BitVec 4} :
    (Raw.pack (.fM maj d a fn off la)).extractLsb' 26 6 = maj ∧ (Raw.pack (.fM maj d a fn off la)).extractLsb' 21 5 = d ∧ (Raw.pack (.fM maj d a fn off la)).extractLsb' 16 5 = a ∧ (Raw.pack (.fM maj d a fn off la)).extractLsb' 13 3 = fn ∧ (Raw.pack (.fM maj d a fn off la)).extractLsb' 4 9 = off ∧ (Raw.pack (.fM maj d a fn off la)).extractLsb' 0 4 = la := by
  refine ⟨?_, ?_, ?_, ?_, ?_, ?_⟩ <;> apply BitVec.eq_of_getLsbD_eq <;> intro i hi <;>
    rw [BitVec.getLsbD_extractLsb'] <;> simp only [Raw.pack, hi, decide_true, Bool.true_and] <;> repeat rw [BitVec.getLsbD_append]
  all_goals grind

/-- A packed word of format M is cut into the fields it was packed from. -/
theorem Raw.unpack_fM {maj : BitVec 6} {d a : BitVec 5} {fn : BitVec 3} {off : BitVec 9} {la : BitVec 4} (h : fmtOf maj = some .m) (hz : Raw.pack (.fM maj d a fn off la) ≠ 0) :
    Raw.unpack (Raw.pack (.fM maj d a fn off la)) = .ok (.fM maj d a fn off la) := by
  obtain ⟨e0, e1, e2, e3, e4, e5⟩ := @Raw.fields_fM maj d a fn off la
  unfold Raw.unpack
  rw [if_neg hz]
  simp only [e0, e1, e2, e3, e4, e5, h]

/-- The fields of a packed word of format B stand at the bits of R70. -/
theorem Raw.fields_fB {maj : BitVec 6} {fn : BitVec 2} {p : BitVec 3} {a : BitVec 5} {off : BitVec 16} :
    (Raw.pack (.fB maj fn p a off)).extractLsb' 26 6 = maj ∧ (Raw.pack (.fB maj fn p a off)).extractLsb' 24 2 = fn ∧ (Raw.pack (.fB maj fn p a off)).extractLsb' 21 3 = p ∧ (Raw.pack (.fB maj fn p a off)).extractLsb' 16 5 = a ∧ (Raw.pack (.fB maj fn p a off)).extractLsb' 0 16 = off := by
  refine ⟨?_, ?_, ?_, ?_, ?_⟩ <;> apply BitVec.eq_of_getLsbD_eq <;> intro i hi <;>
    rw [BitVec.getLsbD_extractLsb'] <;> simp only [Raw.pack, hi, decide_true, Bool.true_and] <;> repeat rw [BitVec.getLsbD_append]
  all_goals grind

/-- A packed word of format B is cut into the fields it was packed from. -/
theorem Raw.unpack_fB {maj : BitVec 6} {fn : BitVec 2} {p : BitVec 3} {a : BitVec 5} {off : BitVec 16} (h : fmtOf maj = some .b) (hz : Raw.pack (.fB maj fn p a off) ≠ 0) :
    Raw.unpack (Raw.pack (.fB maj fn p a off)) = .ok (.fB maj fn p a off) := by
  obtain ⟨e0, e1, e2, e3, e4⟩ := @Raw.fields_fB maj fn p a off
  unfold Raw.unpack
  rw [if_neg hz]
  simp only [e0, e1, e2, e3, e4, h]

/-- The fields of a packed word of format J stand at the bits of R70. -/
theorem Raw.fields_fJ {maj : BitVec 6} {off : BitVec 26} :
    (Raw.pack (.fJ maj off)).extractLsb' 26 6 = maj ∧ (Raw.pack (.fJ maj off)).extractLsb' 0 26 = off := by
  refine ⟨?_, ?_⟩ <;> apply BitVec.eq_of_getLsbD_eq <;> intro i hi <;>
    rw [BitVec.getLsbD_extractLsb'] <;> simp only [Raw.pack, hi, decide_true, Bool.true_and] <;> repeat rw [BitVec.getLsbD_append]
  all_goals grind

/-- A packed word of format J is cut into the fields it was packed from. -/
theorem Raw.unpack_fJ {maj : BitVec 6} {off : BitVec 26} (h : fmtOf maj = some .j) (hz : Raw.pack (.fJ maj off) ≠ 0) :
    Raw.unpack (Raw.pack (.fJ maj off)) = .ok (.fJ maj off) := by
  obtain ⟨e0, e1⟩ := @Raw.fields_fJ maj off
  unfold Raw.unpack
  rw [if_neg hz]
  simp only [e0, e1, h]

/-- The fields of a packed word of format U stand at the bits of R70. -/
theorem Raw.fields_fU {maj : BitVec 6} {d : BitVec 5} {imm : BitVec 21} :
    (Raw.pack (.fU maj d imm)).extractLsb' 26 6 = maj ∧ (Raw.pack (.fU maj d imm)).extractLsb' 21 5 = d ∧ (Raw.pack (.fU maj d imm)).extractLsb' 0 21 = imm := by
  refine ⟨?_, ?_, ?_⟩ <;> apply BitVec.eq_of_getLsbD_eq <;> intro i hi <;>
    rw [BitVec.getLsbD_extractLsb'] <;> simp only [Raw.pack, hi, decide_true, Bool.true_and] <;> repeat rw [BitVec.getLsbD_append]
  all_goals grind

/-- A packed word of format U is cut into the fields it was packed from. -/
theorem Raw.unpack_fU {maj : BitVec 6} {d : BitVec 5} {imm : BitVec 21} (h : fmtOf maj = some .u) (hz : Raw.pack (.fU maj d imm) ≠ 0) :
    Raw.unpack (Raw.pack (.fU maj d imm)) = .ok (.fU maj d imm) := by
  obtain ⟨e0, e1, e2⟩ := @Raw.fields_fU maj d imm
  unfold Raw.unpack
  rw [if_neg hz]
  simp only [e0, e1, e2, h]

theorem vec_append (d : VReg) : vec (0#1 ++ d) = .ok d := by
  have h1 : (0#1 ++ d).extractLsb' 4 1 = 0 := by
    apply BitVec.eq_of_getLsbD_eq; intro i hi; rw [BitVec.getLsbD_extractLsb', BitVec.getLsbD_append]; grind
  have h2 : (0#1 ++ d).extractLsb' 0 4 = d := by
    apply BitVec.eq_of_getLsbD_eq; intro i hi; rw [BitVec.getLsbD_extractLsb', BitVec.getLsbD_append]; grind
  unfold vec; rw [if_pos h1, h2]

theorem prd_append (d : PReg) : prd (0#2 ++ d) = .ok d := by
  have h1 : (0#2 ++ d).extractLsb' 3 2 = 0 := by
    apply BitVec.eq_of_getLsbD_eq; intro i hi; rw [BitVec.getLsbD_extractLsb', BitVec.getLsbD_append]; grind
  have h2 : (0#2 ++ d).extractLsb' 0 3 = d := by
    apply BitVec.eq_of_getLsbD_eq; intro i hi; rw [BitVec.getLsbD_extractLsb', BitVec.getLsbD_append]; grind
  unfold prd; rw [if_pos h1, h2]

@[simp] theorem unused_zero (n : Nat) : unused (0#n) = .ok () := rfl

end Sys2Proof
end

