-- ==== Sys2Proof/Tests/Slice0.lean ====
section
/-!
SUPPORT. Tests: words of spec/ that decode to the instructions beside them there, ill-formed terms that the well-formedness
check refuses, single steps with results worked out from the rules, and, for each statement, states and operands that meet
its hypotheses.
-/
set_option Elab.async false
namespace Sys2Proof.Tests
open Sys2Proof Sys2Proof.Machine

/-! ## Decoding: words written out in the examples of spec/ -/

theorem test_decode_alu : decodeWord 0x04632020 = .ok (.aluAdd 3 3 4 .d) := rfl
theorem test_decode_alui : decodeWord 0x094A8022 = .ok (.aluiShl 10 10 34) := rfl
theorem test_decode_lui : decodeWord 0x0CBE0000 = .ok (.lui 5 0x1E0000) := rfl
theorem test_decode_cmp : decodeWord 0x14328820 = .ok (.cmpEq 1 18 17 .d) := rfl
theorem test_decode_cmpi : decodeWord 0x18236008 = .ok (.cmpiGe 1 3 8) := rfl
theorem test_decode_brF : decodeWord 0x1D20FFF6 = .ok (.brF 1 (-10)) := rfl
theorem test_decode_brT : decodeWord 0x1C200001 = .ok (.brT 1 1) := rfl
theorem test_decode_brNz : decodeWord 0x1E070001 = .ok (.brNz 7 1) := rfl
theorem test_decode_jmp : decodeWord 0x23FFFFFC = .ok (.jmp (-4)) := rfl
theorem test_decode_call : decodeWord 0x2400000B = .ok (.call 11) := rfl
theorem test_decode_loop : decodeWord 0x28020003 = .ok (.loopIn 2 3) := rfl
theorem test_decode_memLdH : decodeWord 0x322C2000 = .ok (.memLdH 17 12 0 0) := rfl
theorem test_decode_memLdD : decodeWord 0x30C16000 = .ok (.memLdD 6 1 0 0) := rfl
theorem test_decode_memStD : decodeWord 0x35226000 = .ok (.memStD 9 2 0) := rfl
theorem test_decode_atom : decodeWord 0x39264080 = .ok (.atomFaa 9 6 8 .i32 0) := rfl
theorem test_decode_drop : decodeWord 0x38000580 = .ok .atomDrop := rfl
theorem test_decode_ldfe : decodeWord 0x3C410430 = .ok (.syncLdfe 2 1 0 3 0) := rfl
theorem test_decode_fence : decodeWord 0x3C000100 = .ok .syncFenceTile := rfl
theorem test_decode_smpSample : decodeWord 0x44460100 = .ok (.smpSample 2 6 0 0 0) := rfl
theorem test_decode_smpBar : decodeWord 0x47C0D2B0 = .ok (.smpBar 30 26 3 0) := rfl
theorem test_decode_task : decodeWord 0x48000050 = .ok (.taskRetire 0) := rfl
theorem test_decode_engPush : decodeWord 0x4CE310D0 = .ok (.engPush 7 3 2 5) := rfl
theorem test_decode_kreg : decodeWord 0x54C00060 = .ok (.kregRd 6 .loopcnt) := rfl
theorem test_decode_vmemLd : decodeWord 0x58220021 = .ok (.vmemLdV 1 2 2 1) := rfl
theorem test_decode_vmemSt : decodeWord 0x5CE33FF0 = .ok (.vmemStW 7 3 (-1)) := rfl
theorem test_decode_valu : decodeWord 0x602218A0 = .ok (.valuAdd 1 2 3 .i .w) := rfl
theorem test_decode_vflt : decodeWord 0x64853342 = .ok (.vfltDiv 4 5 6 .dyn 2) := rfl
theorem test_decode_vcvt : decodeWord 0x68C60180 = .ok (.vcvtFri 6 6 .rne) := rfl
theorem test_decode_vred : decodeWord 0x6F6D0080 = .ok (.vredFadd 27 13 .rne) := rfl
theorem test_decode_vmov : decodeWord 0x72A2B170 = .ok (.vmovExtu 21 2 22 .d) := rfl
theorem test_decode_sys : decodeWord 0x001F0060 = .ok (.sysJr 31) := rfl
theorem test_decode_tret : decodeWord 0x00000040 = .ok .sysTret := rfl
theorem test_decode_zero : decodeWord 0 = .error .reservedMajor := rfl

/-! ## Ill-formed terms: one for each check of `Instr.wf` -/

theorem test_wf_atoms : ([.atomFaa 1 2 3 .n32 0, .atomSwap 1 2 3 .f32 0, .atomCas 1 2 3 .n64 0, .atomFand 1 2 3 .f32 0,
    .atomFor 1 2 3 .n32 0, .atomFxor 1 2 3 .f32 0, .atomFmin 1 2 3 .f32 0, .atomFmax 1 2 3 .f32 0, .atomRsv 1 2 .f32 0,
    .atomRel 1 2 3 .n32 0] : List Instr).all (fun i => !i.wf) = true := by decide
theorem test_wf_copy : ([.copyAff ⟨4, 0, 0, 0⟩ 0, .copyRed ⟨4, 0, 0, 0⟩ 0, .copyPull ⟨1, 0, 0, 0⟩ 0, .copyMcast ⟨1, 0, 0, 0⟩ 0,
    .copyEv ⟨1, 0, 0, 0⟩ 0, .copyBar ⟨1, 0, 0, 0⟩ 0, .copyProbe ⟨1, 0, 0, 0⟩ 0, .copyHatom ⟨16, 0, 0, 0⟩ 0,
    .copyWb ⟨1, 0, 0, 0⟩ 0, .copyInv ⟨1, 0, 0, 0⟩ 0] : List Instr).all (fun i => !i.wf) = true := by decide
theorem test_wf_engines : ([.mxLdw 2 0, .mxSwap 1 0, .mxRun 4 0, .mxAcc 1 0, .mxSt 16 0, .mxZero 1 0, .mxScale 2 0, .evCfg 2 0,
    .evInj 1 0, .evHorizon 1 0, .evRun 2 0, .evRead 2 0] : List Instr).all (fun i => !i.wf) = true := by decide
theorem test_wf_tile : tileIdOk (20 * 32) = false ∧ tileIdOk 0x2000 = false ∧ tileIdOk (7 * 1024 + 19 * 32 + 31) = true := by decide

/-! ## Numbers: the worked examples of spec/02 and spec/05 -/

/-- The T4 table of the example of R48. -/
def t4tab : KMap (BitVec 19) := (List.range 16).filterMap fun c =>
  let mag : Nat := ([0, 0x1F800, 0x1FC00, 0x1FE00, 0x20000, 0x20200, 0x20400, 0x20600] : List Nat).getD (c % 8) 0
  if c = 0 then none else some (c, BitVec.ofNat 19 (mag + (if c < 8 then 0 else 2 ^ 18)))

/-- R48: codes and flags of 2.5, 5.0, -5.0, 1.25, 0.3, 0.25, -0.0, 100.0 and a NaN. -/
theorem test_encode4 : ([0x40200000, 0x40A00000, 0xC0A00000, 0x3FA00000, 0x3E99999A, 0x3E800000, 0x80000000, 0x42C80000,
      0x7FC00000] : List Nat).map (encodeTab t4tab 16 .rne) =
    [(4, flagNX), (6, flagNX), (14, flagNX), (2, flagNX), (1, flagNX), (0, flagNX ||| flagUF), (8, 0), (7, flagOF ||| flagNX),
      (8, flagNV)] := by decide +kernel

/-- R49 to R51: the scales 3, -2 and 40 of the example, and two of its elements. -/
theorem test_scales : scales 3 0 (nibblesOf [0xB3, 0x88, 0x02, 0, 0]) = [3, -2, 40] ∧
    convF f32F .rne (scaledVal 5 0xF6 (-2)) = (0xC0200000, 0) ∧ convF f32F .rne (scaledVal 5 0x7F 40) = (0x56FE0000, 0) := by
  decide +kernel

/-- R53 to R56: the five addends of the example, and its value read back. -/
theorem test_w128 : ([0x3FC00000, 0xBB800000, 0x3A83126F, 0x40466666, 0xBF333333].foldl
      (fun (i : Int) x => (w128Add i (unpackF f32F x) (-8)).1) 0) = 997 ∧
    w128Read f32F .rne 997 (-8) = (0x40794000, 0) := by decide +kernel

/-- R37 to R45: a sum that rounds to even, one that overflows, an invalid one, and a quotient by zero. -/
theorem test_fp : fadd .rne 0x3F800000 0x33800000 = (0x3F800000, flagNX) ∧ fadd .rup 0x3F800000 0x33800000 = (0x3F800001, flagNX) ∧
    fadd .rne 0x7F7FFFFF 0x7F7FFFFF = (0x7F800000, flagOF ||| flagNX) ∧ fsub .rne 0x7F800000 0x7F800000 = (0x7FC00000, flagNV) ∧
    fdiv .rne 0x3F800000 0x80000000 = (0xFF800000, flagDZ) ∧ fsqrt .rne 0x40800000 = (0x40000000, 0) := by decide +kernel

/-! ## One step on small states -/

/-- The state that an outcome answers. -/
def nx : Host.Outcome State Fault Refusal → State
  | .next s => s
  | _ => State.reset

/-- Thread 0 of core 0 of tile 0. -/
def r0 : ThreadRef := ⟨0, 0, 0⟩

/-- A machine in which thread 0 of core 0 of tile 0 runs in a launch of partition 0; what is set beside it. -/
def mk (f : Thread → Thread := id) (g : Core → Core := id) (h : Tile → Tile := id) (l : Launch := { csize := 64 }) (p : Part → Part := id) : State :=
  ((({ parts := [(0, p { sc0 := 0, sr0 := 0, sc1 := 0, sr1 := 0, ctxs := [(0, { state := 2 })] })] } : State).modTile 0
    fun t => h { t with launch := some l }).modCore 0 0 g).modThread r0 fun t => f { t with st := .running }

/-- Scalar registers set by a list. -/
def regs (rs : List (SReg × Word)) (t : Thread) : Thread := rs.foldl (fun t r => t.setS r.1 r.2) t

/-- An address of local memory of core 0 of tile 0. -/
def lma (o : Nat) : Word := amAddr 0 0 0 o

/-- What the ports of tile 0 have done two tile cycles after an instruction issued: an access of the own core performs there. -/
def served (i : Instr) (s : State) : State :=
  (({ nx (exec i s) with decks := Vector.replicate 8 { tcyc := 2 } } : State).servePorts 0 4).1

theorem test_add : (nx (exec (.aluAdd 3 1 2 .d) (mk (regs [(1, 0xFFFFFFFFFFFFFFFF), (2, 2)])))).th.getS 3 = 1 := by decide +kernel
/-- The example of R97. -/
theorem test_minu : (nx (exec (.aluMinu 1 2 3 .w) (mk (regs [(2, 0xFFFFFFFF80000000), (3, 5)])))).th.getS 1 = 5 := by decide +kernel
theorem test_s0 : (nx (exec (.aluAdd 0 1 1 .d) (mk (regs [(1, 7)])))).th.getS 0 = 0 := by decide +kernel
theorem test_lui : (nx (exec (.lui 5 0x1E0000) (mk))).th.getS 5 = 0xF000000000000000 := by decide +kernel
theorem test_cmp : (nx (exec (.cmpLtu 1 1 2 .d) (mk (regs [(1, 1), (2, 0x8000000000000000)])))).th.getP 1 = true := by decide +kernel
theorem test_pc : (nx (exec .sysNop (mk))).th.pc = 4 := by decide +kernel
theorem test_div0 : (nx (exec (.mdvDiv 3 1 2 .d 0) (mk (regs [(1, 7)])))).th.outst.map (·.cond) =
    [.ready { s := [(3, 0xFFFFFFFFFFFFFFFF)] }] := by decide +kernel
/-- The example of R148. -/
theorem test_tree : (nx (exec (.vredFadd 5 1 .rne) (mk fun t => t.setV 1 0x3F8000003380000033800000))).th.getS 5 = 0x3F800001 := by
  decide +kernel
theorem test_valu : (nx (exec (.valuAdds 1 2 3 .i .b) (mk fun t => (t.setV 2 0x7F80).setV 3 0x01FF))).th.getV 1 = 0x7F80 := by
  decide +kernel
theorem test_callr : ((nx (exec (.sysCallr 31) (mk (regs [(31, 16)])))).th.pc, (nx (exec (.sysCallr 31) (mk (regs [(31, 16)])))).th.getS 31) =
    (16, 4) := by decide +kernel
theorem test_loop : let s := nx (exec (.loopIn 2 1) (mk (regs [(2, 2)])))
    (s.th.pc, s.th.loopcnt, s.th.loopstart, s.th.loopend) = (4, 2, 4, 0x9) := by decide +kernel
/-- R107: a target outside the code segment. -/
theorem test_prot : (nx (exec (.jmp 100) (mk))).th.tcause = 5 := by decide +kernel
theorem test_break : let s := nx (exec (.sysBreak 5) (mk (l := { csize := 64, tvec := 32 })))
    (s.th.pc, s.th.tpc, s.th.tval, s.th.tcause, s.th.ih) = (32, 4, 0x00050020, 10, true) := by decide +kernel
theorem test_tret : let s := nx (exec .sysTret (mk fun t => { t with ih := true, tpc := 12 }))
    (s.th.pc, s.th.ih) = (12, false) := by decide +kernel
theorem test_kreg : (nx (exec (.kregRd 1 .tcyc) { mk with decks := Vector.replicate 8 { tcyc := 9 } })).th.getS 1 = 9 := by decide +kernel
theorem test_priv : (nx (exec (.kregWr 1 .tile) (mk))).th.tcause = 2 := by decide +kernel
/-- R14: the bytes of a store, little-endian; R162: it performs two cycles after issue. -/
theorem test_store : let s := mk (regs [(1, 0x1234), (2, lma 6)])
    (((nx (exec (.memStH 1 2 0) s)).core 0 0).lm, ((served (.memStH 1 2 0) s).core 0 0).lm) = ([], [(6, 0x34), (7, 0x12)]) := by
  decide +kernel
theorem test_load : (served (.memLdI8 1 2 0 0) (mk (regs [(2, lma 6)]) fun c => { c with lm := [(6, 0x80)] })).th.outst.map (·.cond) =
    [.ready { s := [(1, 0xFFFFFFFFFFFFFF80)] }] := by decide +kernel
theorem test_align : (nx (exec (.memLdW 1 2 0 0) (mk (regs [(2, lma 6)])))).th.tcause = 3 := by decide +kernel
theorem test_faa : let s := served (.atomFaa 1 2 3 .i32 0) (mk (regs [(2, lma 8), (3, 1)]) fun c => { c with lm := [(8, 0xFF)] })
    ((s.core 0 0).lm, s.th.outst.map (·.cond)) = ([(9, 1)], [.ready { s := [(1, 0xFF)] }]) := by decide +kernel
theorem test_stf : let s := served (.syncStf 1 2) (mk (regs [(1, 5), (2, lma 8)]))
    ((s.core 0 0).full.has 2, (s.core 0 0).lm) = (true, [(8, 5)]) := by decide +kernel
/-- R122: word 1 of a record, and R130: a unit that retires leaves its slot Empty. -/
theorem test_retire : (nx (exec (.taskRetire 0) (mk))).th.st = .empty := by decide +kernel
theorem test_yield : ((nx (exec .taskYield (mk (regs [(3, 9)])))).core 0 0).deque[(0 : Fin 4)].map (fun e => (e.w[0], e.w[6])) = [(4, 9)] := by
  decide +kernel
/-- R71, R78: the word that step fetches is decoded and run. -/
theorem test_fetch : (nx (step (State.reset.withFetchWord 32 0x0CBE0000))).th.getS 5 = 0xF000000000000000 := by decide +kernel

/-- FIPS 180-4: the SHA-384 of "abc" (log 7). -/
theorem test_sha384 : sha384 [0x61, 0x62, 0x63] =
    0xCB00753F45A35E8BB5A03D699AC65007272C32AB0EDED1631A8B605A43FF5BED8086072BA1E7CC2358BAECA134C825A7 := by decide +kernel
/-- FIPS 197: the substitution both ways, and the example of AES-256 of its appendix C.3 (log 6). -/
theorem test_aes_sub : ([0x00, 0x01, 0x53, 0xFF] : List Byte).map aesSub = [0x63, 0x7C, 0xED, 0x16] ∧
    ([0x63, 0x7C, 0xED, 0x16] : List Byte).map aesSubInv = [0x00, 0x01, 0x53, 0xFF] := by decide +kernel
theorem test_aes : aesEnc 0x1F1E1D1C1B1A191817161514131211100F0E0D0C0B0A09080706050403020100
      [0x00, 0x11, 0x22, 0x33, 0x44, 0x55, 0x66, 0x77, 0x88, 0x99, 0xAA, 0xBB, 0xCC, 0xDD, 0xEE, 0xFF] =
    [0x8E, 0xA2, 0xB7, 0xCA, 0x51, 0x67, 0x45, 0xBF, 0xEA, 0xFC, 0x49, 0x90, 0x4B, 0x49, 0x60, 0x89] := by decide +kernel

/-- R419: after a fence left 100 bytes of host memory undefined, a write defines its own four bytes and no other (spec/21). -/
theorem test_host_write_after_fence :
    let s := ({ mk with hostFog := [(0, 100, 5)] } : State).hostWrite 10 4 0x04030201
    s.hostByte 11 = 2 ∧ s.hostRead 10 4 = 0x04030201 ∧ s.hostFog = [(0, 10, 5), (14, 100, 5)] := by decide +kernel

/-- R418: a correctable error is counted in its partition and in the module; an uncorrectable word of local memory is marked. -/
theorem test_storage_errors :
    let s (n : Nat) (l : List Nat) : State := { mk with arg := { n := n, l := l, m := 3 }, parts := [(0, { sc0 := 0, sr0 := 0, sc1 := 0, sr1 := 0 })] }
    (match execRegisterWrite (s 8 [0, 1]) with
    | .next s' => decide ((s'.part 0).ce = 1) && decide (s'.md.ce = 1)
    | _ => false) = true ∧
    (match execRegisterWrite (s 7 []) with
    | .next s' => (s'.core 0 0).lmUE.has 3 && s'.lmBad 0 0 12 4 && !s'.lmBad 0 0 16 4
    | _ => false) = true := by decide +kernel

/-! ## Witnesses: states and operands that meet the hypotheses of the statements -/

/-- A thread with nothing outstanding, no reservation and no binding. -/
def quiet (s : State) : Bool := s.th.outst.isEmpty && s.th.resv.isNone && s.th.binds.isEmpty

theorem clear_quiet {s : State} (h : quiet s = true) (i : Instr) : s.clear i := by
  simp only [quiet, Bool.and_eq_true, List.isEmpty_iff, Option.isNone_iff_eq_none] at h
  obtain ⟨⟨ho, hr⟩, hb⟩ := h
  have e (l : List RegRef) : s.th.bound l = [] := by
    simp only [Thread.bound, hb]
    rw [List.filterMap_eq_nil_iff.mpr]
    · rfl
    · intro r _; cases r <;> rfl
  exact ⟨by simp [Thread.conflict, Thread.pending, ho], by rw [hr]; rfl, e _, e _⟩

/-- A machine whose current thread may issue any instruction: for ScalarResults, MdvResults, CompareResults, ValuResults,
VfltResults, VcvtResults, VredResults, VmovResults, ControlRegisterReads, ControlRegisterWrites, RegisterFrame and the clauses
of the other statements that ask nothing else. -/
theorem witness_clear (i : Instr) : mk.clear i := clear_quiet (by decide) i

/-- Transfers: branches whose condition holds (p0, p1 = 0, s1 = 7, s2 = 0) and does not, a target at the last word of the code
segment, one at its end, one that is no multiple of 4. -/
theorem witness_Transfers :
    let s := mk (regs [(1, 7), (3, 60), (4, 64), (5, 2)])
    quiet s = true ∧ s.targetOk (s.th.pc + 4 + ((14#16).signExtend 64) * 4) ∧ s.targetOk (s.th.pc + 4 + ((14#26).signExtend 64) * 4) ∧
      s.targetOk (s.th.getS 3) ∧ s.th.getP 0 = true ∧ (!s.th.getP 1) = true ∧ decide (s.th.getS 1 ≠ 0) = true ∧
      decide (s.th.getS 2 = 0) = true ∧ s.th.getP 1 = false ∧ (!s.th.getP 0) = false ∧ decide (s.th.getS 2 ≠ 0) = false ∧
      decide (s.th.getS 1 = 0) = false ∧ (s.th.getS 5).toNat % 4 ≠ 0 ∧ (s.th.getS 4).toNat % 4 = 0 ∧
      (s.launch s.cur.tile).csize ≤ (s.th.getS 4).toNat := by
  refine ⟨by decide +kernel, ⟨?_, ?_⟩, ⟨?_, ?_⟩, ⟨?_, ?_⟩, ?_⟩ <;> decide +kernel

/-- HardwareLoops: a loop that ends at the last word of the segment, entered alone and inside an outer one, with counts 1 and 0;
an end past the segment; an outer loop that ends with the inner one, going on and ending; the cases of sys.nop at the end of a
body. -/
theorem witness_HardwareLoops :
    let s := mk (regs [(1, 1)])
    let o (n : Nat) := mk fun t => t.setLoop true ⟨n, 0, 8, true⟩
    let inn (n m : Nat) := mk fun t => { (t.setLoop true ⟨m, 0, 8, true⟩).setLoop false ⟨n, 4, 8, true⟩ with pc := 8 }
    quiet s = true ∧ (s.th.loopLvl false).active = false ∧ (s.th.loopLvl true).active = false ∧
      (s.countIssue false).loopEndOk (0 + 4 + 4 * (14#13).toNat) = true ∧ (s.th.getS 1).toNat % 2 ^ 32 ≠ 0 ∧
      (s.th.getS 2).toNat % 2 ^ 32 = 0 ∧ s.targetOk (BitVec.ofNat 64 (0 + 4 + 4 * (13#13).toNat + 4)) ∧
      (s.countIssue false).loopEndOk (0 + 4 + 4 * (15#13).toNat) = false ∧
      quiet (o 2) = true ∧ ((o 2).th.loopLvl true) = ⟨2, 0, 8, true⟩ ∧ (o 2).th.ih = false ∧ ((o 2).countIssue false).loopEndOk 8 = true ∧
      (o 2).targetOk (BitVec.ofNat 64 (8 + 4)) ∧ ((o 1).th.loopLvl true).cnt = 1 ∧ quiet (inn 2 2) = true ∧
      (inn 2 2).th.loopLvl false = ⟨2, 4, 8, true⟩ ∧ (inn 1 2).th.loopLvl false = ⟨1, 4, 8, true⟩ ∧
      (inn 1 2).th.loopLvl true = ⟨2, 0, 8, true⟩ ∧ (inn 1 1).th.loopLvl true = ⟨1, 0, 8, true⟩ ∧ (inn 1 1).th.pc = 8 := by
  refine ⟨?_, ?_, ?_, ?_, ?_, ?_, ⟨?_, ?_⟩, ?_, ?_, ?_, ?_, ?_, ⟨?_, ?_⟩, ?_, ?_, ?_, ?_, ?_, ?_, ?_⟩ <;> decide +kernel

/-- TrapsAndReturn: a thread with a handler, one without, one in its handler, one whose clean-up of a CANCEL runs. -/
theorem witness_TrapsAndReturn :
    let l : Launch := { csize := 64, tvec := 32 }
    let a := mk (l := l)
    let b := mk (fun t => { t with ih := true, tpc := 60 }) (l := l)
    let c := mk (fun t => { t with ih := true, cxh := true }) (l := l)
    quiet a = true ∧ a.th.ih = false ∧ (a.launch a.cur.tile).tvec &&& ~~~3 ≠ 0 ∧ (mk.launch mk.cur.tile).tvec &&& ~~~3 = 0 ∧
      mk.th.cxh = false ∧ mk.th.hcx = false ∧ Cause.align ≠ Cause.cancel ∧ quiet b = true ∧ b.th.ih = true ∧ b.targetOk b.th.tpc ∧
      b.th.cxh = false ∧ b.th.hcx = false ∧ b.th.heldAsync = [] ∧ quiet c = true ∧ c.th.cxh = true ∧ c.targetOk c.th.tpc := by
  refine ⟨?_, ?_, ?_, ?_, ?_, ?_, ?_, ?_, ?_, ⟨?_, ?_⟩, ?_, ?_, ?_, ?_, ?_, ⟨?_, ?_⟩⟩ <;> decide +kernel

/-- ControlRegisterWrites: loop registers that keep the geometry and that do not, a management thread, a program thread. -/
theorem witness_ControlRegisterWrites :
    let m := mk (l := { csize := 64, mgmt := true })
    quiet m = true ∧ (m.launch m.cur.tile).mgmt = true ∧ (m.tile m.cur.tile).launch.isSome ∧ (mk.launch mk.cur.tile).mgmt = false ∧
      (mk.countIssue false).loopGeomOk { (mk.countIssue false).th with loopcnt := 5 } = true ∧
      (mk.countIssue false).loopGeomOk { (mk.countIssue false).th with loopend := 1, loopstart := 8 } = false := by decide +kernel

/-- TrapsAndReturn: sys.tret with an instruction outstanding in the handler, and one whose k.tpc fails the check of a target. -/
theorem witness_TrapReturn :
    let l : Launch := { csize := 64, tvec := 32 }
    let a := mk (fun t => { t with ih := true, outst := [{ id := 0, addr := 0, dests := [.s 9], cond := .ready {} }], nextOp := 1 }) (l := l)
    let b (x : Word) := mk (fun t => { t with ih := true, tpc := x }) (l := l)
    a.th.conflict (regUse .sysTret) = false ∧ a.th.resv = none ∧ a.th.binds = [] ∧ a.th.ih = true ∧ a.th.outst ≠ [] ∧
      quiet (b 2) = true ∧ (b 2).th.ih = true ∧ targetFault 64 (b 2).th.tpc = some .align ∧ ((b 2).launch 0).csize = 64 ∧
      targetFault 64 (b 64).th.tpc = some .prot ∧
      mk.th.outst = [] ∧ mk.th.laidOff = [] := by
  decide +kernel

/-- Suspensions: nothing in the way; an instruction outstanding; active loops, a bound register; the last word of local memory,
a misaligned address, one of another core; counters. -/
theorem witness_Suspensions :
    let a := mk (regs [(1, lma 0x3_FFFC), (2, 8), (3, 4), (4, lma 2), (5, amAddr 0 1 0 0)])
    let d := mk (fun t => t.setLoop false ⟨1, 0, 4, true⟩)
    let f := mk (fun t => { regs [(1, lma 0x3_FFFC)] t with outst := [{ id := 0, addr := 0, dests := [.s 9], cond := .ready {} }], nextOp := 1 })
    let k := mk (fun t => { t with binds := [(8, { chan := 0, out := false, xid := 1, shape := 0, starve := 0, limit := 0, total := 0, frm := 0 })] })
    quiet a = true ∧ quiet d = true ∧ a.th.outst = [] ∧ a.th.binds = [] ∧ (a.core 0 0).lm.wf = true ∧
      (a.th.loopLvl false).active = false ∧ (a.th.loopLvl true).active = false ∧
      (a.th.getS 1).toNat % 4 = 0 ∧ ownLm (a.launch 0) 0 (a.th.getS 1) 4 = true ∧ amCore (a.th.getS 1) = 0 ∧
      (lmPlace (a.launch 0) (a.th.getS 1)).off / 4 = 0xFFFF ∧ a.th.watch ≠ some 0xFFFF ∧
      a.th.getS 0 = 0 ∧ a.th.getS 2 ≠ 0 ∧ counterOk (a.th.getS 2) = true ∧ counterOk (a.th.getS 3) = false ∧
      (a.th.getS 4).toNat % 4 ≠ 0 ∧ (a.th.getS 5).toNat % 4 = 0 ∧ amCore (a.th.getS 5) ≠ 0 ∧
      ((d.th.loopLvl false).active || (d.th.loopLvl true).active) = true ∧
      f.th.conflict (regUse .taskYield) = false ∧ f.th.conflict (regUse (.taskPark 1)) = false ∧ f.th.outst ≠ [] ∧
      k.th.binds ≠ [] ∧ k.th.bound (regUse .taskYield).reads = [] ∧ k.th.bound (regUse .taskYield).writes = [] := by
  decide +kernel

/-- Suspensions, when they are due: the watched word, written and not; no watched word; a park table with room and a full one;
a counter of the own core at 0 and at 1. -/
theorem witness_SuspensionEnds :
    let e : Entry := { w := Vector.replicate 16 0 }
    let a := mk (g := fun c => { c with lm := [(8, 1)] })
    let b := mk (fun t => { t with watch := some 0xFFFF, ready := true })
    let c := mk (g := fun c => { c with park := List.replicate 64 (.word 1, e), lm := [(8, 1)] })
    (∀ s ∈ [a, b, c], s.th.binds = [] ∧ (s.core 0 0).lm.wf = true) ∧ a.th.ready = false ∧ a.th.watch ≠ some 0xFFFF ∧
      b.th.ready = true ∧ b.th.watch = some 0xFFFF ∧ (a.core 0 0).park.length < 64 ∧ 64 ≤ (c.core 0 0).park.length ∧
      a.ctr 0 8 % 2 ^ 63 ≠ 0 ∧ c.ctr 0 8 % 2 ^ 63 ≠ 0 ∧ b.ctr 0 8 % 2 ^ 63 = 0 ∧ b.cur.core = ctrCore 8 := by
  decide +kernel

/-- Suspensions: one that is due in the cycle of its slot, of each kind. -/
theorem witness_SuspensionDue :
    (([.yield, .park 8, .join 8 none, .join 8 (some 0), .retire 0, .tret] : List Suspend).all fun x =>
      let s := mk.modTh fun t => { t with st := .suspending, susp := some x }
      decide (s.th.st = .suspending) && decide (s.th.susp = some x) && decide (x ≠ .waitPark) && s.th.outst.isEmpty && !s.th.cxWait &&
        x.due (s.now s.cur.tile) s.cur.thr) = true := by decide +kernel

/-- TrapsAndReturn and Suspensions: the last instruction of a clean-up (R119), with something outstanding and with nothing; a unit whose
CANCEL is held, at a word and at a counter; an earlier access of the unit at the counter's bank. -/
theorem witness_CleanUpEnds :
    let o : Outst := { id := 0, addr := 0, dests := [.s 9], cond := .ready {} }
    let a (l : List Outst) := mk fun t => { regs [(1, lma 0x3_FFFC)] t with ih := true, cxh := true, budget := 1, outst := l, nextOp := 1 }
    let b := mk (fun t => { t with hcx := true }) fun c => { c with lm := [(8, 1)] }
    let x : Access := { r := r0, owner := 0, op := 0, addr := 0, va := lma 8, place := .lm 0 8, n := 8, act := .store 1 1, banks := [ctrBank 8], at_ := 2, lag := 0 }
    let d := mk (h := fun t => { t with accs := [x] })
    (∀ i ∈ ([.sysTret, .taskYield, .taskPark 1, .taskRetire 1] : List Instr), (a [o]).th.conflict (regUse i) = false) ∧
      (a [o]).th.outst ≠ [] ∧ (a [o]).th.resv = none ∧ (a [o]).th.binds = [] ∧ (a [o]).th.ih = true ∧ (a [o]).th.cxh = true ∧
      (a [o]).th.budget ≤ 1 ∧ quiet (a []) = true ∧ (a []).th.cxh = true ∧ (a []).th.budget ≤ 1 ∧
      b.th.binds = [] ∧ b.th.hcx = true ∧ b.th.ready = false ∧ b.ctr 0 8 % 2 ^ 63 ≠ 0 ∧ (d.tile 0).unperformed d.th.owner (ctrBank 8) = true ∧
      mk.th.binds = [] ∧ (mk.tile 0).unperformed mk.th.owner (ctrBank 8) = false := by decide +kernel

/-- RetirementAndCancels: a root that counts on a counter, with no caller; one with something outstanding; a call-at unit with room, and with a full queue;
levels 0 and 4; counters; a tile with empty park tables and no Stopped thread. -/
theorem witness_RetirementAndCancels :
    let m : Msg := { payload := 0, core := 0, thr := 0, seq := 0, at_ := 0 }
    let a := mk (fun t => { regs [(1, 8), (2, 4), (3, 2 ^ 64 - 4)] t with w1 := 0x100, w2 := 0x1F_FFF8 })
    let b := mk (fun t => { t with w3 := 0x0001_8000 })
    let f := mk (fun t => { t with outst := [{ id := 0, addr := 0, dests := [.s 9], cond := .ready {} }], nextOp := 1 })
    let c := mk (fun t => { t with w3 := 0x0001_F000 }) (fun c => { c with sendq := c.sendq.set 7 (List.replicate 8 m) })
    quiet a = true ∧ quiet b = true ∧ quiet c = true ∧ f.th.conflict (regUse (.taskRetire 1)) = false ∧ f.th.outst ≠ [] ∧ a.th.w3.getLsbD 15 = false ∧ a.th.w1.getLsbD 8 = true ∧ a.th.w2 ≠ 0 ∧
      a.th.w2.toNat % 8 = 0 ∧ a.th.w2.toNat < 0x20_0000 ∧ b.th.w2 = 0 ∧ b.th.w3.getLsbD 15 = true ∧
      (b.core 0 0).sendq[(b.th.w3.extractLsb' 12 3).toFin].length < 8 ∧ 8 ≤ (c.core 0 0).sendq[(c.th.w3.extractLsb' 12 3).toFin].length ∧
      (a.th.getS 0).toNat % 8 = 0 ∧ a.th.outst = [] ∧ (a.core 0 (ctrCore a.th.w2.toNat)).frames = [] ∧
      a.th.getS 0 = 0 ∧ (a.th.getS 2).toNat % 8 ≠ 0 ∧ counterOk (a.th.getS 2) = false ∧ a.th.getS 1 ≠ 0 ∧
      counterOk (a.th.getS 1) = true ∧ (a.th.getS 3).toNat % 8 = 4 ∧
      (List.finRange 8).all (fun k => (a.core 0 k).park.isEmpty &&
        (List.finRange 16).all fun h => (a.thread ⟨0, k, h⟩).st != .stopped) ∧
      (a.core 0 0).threads[(0 : Fin 16)].st ≠ .empty ∧ (a.core 0 0).threads[(0 : Fin 16)].w2.toNat = 0x1F_FFF8 ∧ 0x1F_FFF8 % 8 = 0 := by
  decide +kernel

/-- Spawns: a template at the last place of local memory, counters none and one, unmarked and marked; a full deque; a call-at
to core 7, to a full deque, to no core, and with a misaligned address. -/
theorem witness_Spawns :
    let e : Entry := { w := Vector.replicate 16 0 }
    let s (c : Word) (lm : Memory) (n : Nat) := mk (regs [(1, lma 0x3_FFC0), (2, c), (3, 7), (4, 8), (5, 2)])
      (fun c => { c with lm := lm, deque := c.deque.set 0 (List.replicate n e) })
    (∀ x ∈ [s 0 [(0x3_FFC4, 0x20)] 0, s 8 [(8, 1), (0x3_FFC4, 0x20)] 0, s 8 [(15, 0x80)] 0, s 0 [] 544], quiet x = true ∧
      (x.th.getS 1).toNat % 64 = 0 ∧ (match x.readRecord 0 (x.th.getS 1) 64 (fun k => k == 0 || k == 14) with
        | .ok tpl => decide (min ((recWord tpl 1).extractLsb' 3 3).toNat 4 ≤ 4)
        | _ => false) = true ∧ counterOk (x.th.getS 2) = true ∧
      ∀ k ∈ List.range 4, x.th.pending.contains (.s (BitVec.ofNat 5 (k + 1))) = false) ∧
    (match (s 0 [(0x3_FFC4, 0x20)] 0).readRecord 0 (lma 0x3_FFC0) 64 (fun k => k == 0 || k == 14) with
      | .ok tpl => decide (min ((recWord tpl 1).extractLsb' 3 3).toNat 4 = 4)
      | _ => false) = true ∧
    ((s 8 [] 0).core 0 (ctrCore 8)).park = [] ∧ ((s 8 [] 0).core 0 (ctrCore 8)).frames = [] ∧ ((s 8 [] 0).core 0 0).entries < 32 ∧
    ((s 0 [] 0).core 0 0).dequeFull = false ∧ ((s 0 [] 544).core 0 0).dequeFull = true ∧ 2 ^ 63 ≤ (s 8 [(15, 0x80)] 0).ctr 0 8 ∧
    ((s 0 [] 0).th.getS 1).toNat % 4 = 0 ∧ ((s 0 [] 0).th.getS 3).toNat < 8 ∧ 8 ≤ ((s 0 [] 0).th.getS 4).toNat ∧
    ((s 0 [] 0).th.getS 5).toNat % 4 ≠ 0 := by decide +kernel

/-- AccessTraps and ErroneousWords: misaligned; outside every window; the first offset past the window; another tile; kinds 5, 6 and
15; a word in error. -/
theorem witness_AccessTraps :
    let a := mk (regs [(1, lma 1), (2, 0x0100000000000000), (3, lma 0x4_0000), (4, amAddr 1 0 0 0), (5, amAddr 0 0 5 0),
      (6, amAddr 0 0 6 0), (7, amAddr 0 0 15 0), (8, lma 8)]) (fun c => { c with lmUE := [(3, ())] })
    let win (x : Word) (n : Nat) : Bool := amFormOk x && decide (amOff x + n ≤ windowSize (a.launch 0) (amKind x))
    quiet a = true ∧ (a.th.getS 1 + (0#9).signExtend 64 * 2).toNat % 2 ≠ 0 ∧ (a.th.getS 2).toNat % 32 = 0 ∧
      isGlobal (a.th.getS 2) = false ∧ isTileMap (a.th.getS 2) = false ∧ isTileMap (a.th.getS 3) = true ∧ win (a.th.getS 3) 1 = false ∧
      isTileMap (a.th.getS 4) = true ∧ win (a.th.getS 4) 32 = true ∧ amTile (a.th.getS 4) ≠ 0 ∧
      (∀ r ∈ ([5, 6, 7] : List SReg), isTileMap (a.th.getS r) = true ∧ win (a.th.getS r) 8 = true ∧ amTile (a.th.getS r) = 0 ∧
        amKind (a.th.getS r) ∈ [5, 6, 15]) ∧
      (a.th.getS 8).toNat % 8 = 0 ∧ isTileMap (a.th.getS 8) = true ∧ amFormOk (a.th.getS 8) = true ∧ amTile (a.th.getS 8) = 0 ∧
      amKind (a.th.getS 8) ∈ [0, 7, 14] ∧ amOff (a.th.getS 8) + 8 ≤ windowSize (a.launch 0) 0 ∧ a.lmBad 0 0 8 8 = true := by
  decide +kernel

/-- LocalLoads and LocalStores: the last vector of local memory through windows 0 and 7, the last of the frame window, and the
last words of the alias windows 1 to 4. -/
theorem witness_LocalLoads :
    let a := mk (regs [(1, lma 0x3_FFE0), (2, amAddr 0 7 7 0x3_FFE0), (3, amAddr 0 0 14 0x3E0), (4, amAddr 0 0 1 0xF_FFFC),
      (5, amAddr 0 0 2 0x1F_FFFC), (6, amAddr 0 0 3 0x7_FFFC), (7, amAddr 0 0 4 0x7_FFFC)]) (l := { csize := 64, fbytes := 0x400 })
    quiet a = true ∧ (a.part 0).replay = false ∧ (a.core 0 0).lm.wf = true ∧
      (∀ r ∈ ([1, 2, 3] : List SReg), (a.th.getS r + (0#9).signExtend 64 * BitVec.ofNat 64 32).toNat % 32 = 0 ∧ isTileMap (a.th.getS r) = true ∧
        amFormOk (a.th.getS r) = true ∧ amTile (a.th.getS r) = 0 ∧ amKind (a.th.getS r) ∈ [0, 7, 14] ∧
        amOff (a.th.getS r) + 32 ≤ windowSize (a.launch 0) (amKind (a.th.getS r)) ∧
        a.lmBad 0 (amCore (a.th.getS r)) (lmPlace (a.launch 0) (a.th.getS r)).off 32 = false) ∧
      ∀ x ∈ ([(4, 1), (5, 2), (6, 3), (7, 4)] : List (SReg × Nat)), (a.th.getS x.1).toNat % 4 = 0 ∧ isTileMap (a.th.getS x.1) = true ∧
        amFormOk (a.th.getS x.1) = true ∧ amTile (a.th.getS x.1) = 0 ∧ amKind (a.th.getS x.1) = x.2 ∧
        amOff (a.th.getS x.1) + 4 ≤ windowSize (a.launch 0) x.2 ∧ a.lmBad 0 0 0x3_FFFC 4 = false := by decide +kernel

/-- GlobalLoads, GlobalStores and the line forms of Fences: a line of core 0 that is readable and writable, clean and dirty; a
line of the read-only cache; a local address; a line no cache holds, in a page that is there. -/
theorem witness_GlobalLoads :
    let g : Word := 0x1_0000
    let y : Line := { tag := lineIx g, data := 5, wr := true, pl := 0 }
    let a := mk (regs [(1, g), (2, lma 0)]) (fun c => { (c.linePut y) with rolines := [y] })
    quiet a = true ∧ (a.th.getS 1 + (0#9).signExtend 64 * BitVec.ofNat 64 32).toNat % 32 = 0 ∧ isGlobal (a.th.getS 1) = true ∧
      homeCore (lineIx g) = a.cur.core ∧ (a.core 0 0).lineGet? (lineIx g) = some y ∧ y.rd = true ∧ y.wr = true ∧ y.dirty = false ∧
      (a.part 0).replay = false ∧ (a.core 0 0).rolines.find? (fun z => z.tag == lineIx g) = some y ∧
      (a.core 0 0).lines.Pairwise (fun u v => u.1 < v.1) ∧ isGlobal (a.th.getS 2) = false := by decide +kernel

/-- A machine with a reservation, a line, a word in error and a page that is there. -/
def performing (b : Bool) : State :=
  mk (fun t => { t with
      resv := some { va := lma 8, size := 4, bank := 2, broken := b, addr := 0 },
      outst := [{ id := 0, addr := 0, dests := [.s 1], cond := .port none }], nextOp := 1 })
    (fun c => { (c.linePut { tag := lineIx 0x1_0000, data := 5, wr := true, pl := 0 }) with lm := [(8, 1)], lmUE := [(3, ())] })
    (fun t => { t with tlb := [⟨0, 2, 0, 0, false, true, true⟩] })

/-- The clauses about an access that performs (AtomResults, Reservations, LocalStores, FullEmptyWords, LineMaintenance): the
invariant holds. -/
theorem witness_PerformsInv (b : Bool) : (performing b).Inv := by
  let : ∀ c : Core, Decidable c.wf := fun c => by unfold Core.wf Thread.numbered; infer_instance
  let : ∀ t : Tile, Decidable t.wf := fun t => by unfold Tile.wf; infer_instance
  cases b <;> (unfold State.Inv Part.wf; decide)

/-- The same clauses and GlobalStores: a reservation, broken and not; a clean line; no line of a page that is there, and of one
that is not; a word in error, and one that is not. -/
theorem witness_Performs :
    let y : Line := { tag := lineIx 0x1_0000, data := 5, wr := true, pl := 0 }
    let s := performing
    (∀ b : Bool, (s b).lmBad 0 0 8 4 = false ∧ (s b).lmBad 0 0 8 8 = true ∧ (s b).th.resv.map (·.broken) = some b ∧
      (s b).th.outst.map (·.id) = [0]) ∧
      ((s true).core 0 0).lineGet? (lineIx 0x1_0000) = some y ∧ y.dirty = false ∧ y.wr = true ∧
      ((s true).core 0 (homeCore (lineIx 0x2_0000))).lineGet? (lineIx 0x2_0000) = none ∧
      ((s true).translate 0 0x2_0000 false false).2 = .ok 0x2_0000 ∧
      (match ((s true).translate 0 0x4000_0000_0000 false false).2 with
        | .fault _ => true
        | _ => false) = true := by
  decide +kernel

/-- AtomResults: a misaligned word, a word of another tile, and the last words of core 7's local memory and of the frame
window. -/
theorem witness_AtomResults :
    let a := mk (regs [(1, lma 2), (2, amAddr 1 0 0 8), (3, amAddr 0 7 0 0x3_FFFC), (4, amAddr 0 0 14 0x3F8)]) (l := { csize := 64, fbytes := 0x400 })
    let ok (x : Word) (n : Nat) : Bool := decide (x.toNat % n = 0) && !isGlobal x && isTileMap x && amFormOk x &&
      decide (amOff x + n ≤ windowSize (a.launch 0) (amKind x))
    quiet a = true ∧ (a.th.getS 1).toNat % 4 ≠ 0 ∧ ok (a.th.getS 2) 8 = true ∧ amTile (a.th.getS 2) ≠ 0 ∧
      ∀ x ∈ ([(3, 4, 31), (4, 8, 2)] : List (SReg × Nat × Nat)), let w := a.th.getS x.1
        let o := (lmPlace (a.launch 0) w).off
        ok w x.2.1 = true ∧ amTile w = 0 ∧ amKind w ∈ [0, 14] ∧ a.lmBad 0 (amCore w) o x.2.1 = false ∧
        4 * (amCore w).val + o / 4 % 4 = x.2.2 := by decide +kernel

/-- Reservations: a free bank; no reservation; one of the word, whole and broken; one of another word. -/
theorem witness_Reservations :
    let v (x : Word) (b : Bool) : Resv := { va := x, size := 4, bank := 3, granted := true, broken := b, addr := 0 }
    let a (r : Option Resv) := mk fun t => { regs [(1, lma 0x3_FFFC)] t with resv := r }
    (a none).clear (.atomRsv 2 1 .i32 0) ∧ (∀ r ∈ [none, some (v (lma 0x3_FFFC) false), some (v (lma 0x3_FFFC) true), some (v (lma 8) false)],
      ((a r).th.conflict (regUse (.atomRel 2 1 3 .i32 0)) = false ∧ ((a r).th.resv.isSome && forbiddenInWindow (.atomRel 2 1 3 .i32 0)) = false ∧
        (a r).th.bound (regUse (.atomRel 2 1 3 .i32 0)).reads = [] ∧ (a r).th.bound (regUse (.atomRel 2 1 3 .i32 0)).writes = []) ∧
      let x := (a r).th.getS 1
      x.toNat % 4 = 0 ∧ isGlobal x = false ∧ isTileMap x = true ∧ amFormOk x = true ∧ amOff x + 4 ≤ windowSize ((a r).launch 0) (amKind x) ∧
        amTile x = 0 ∧ amKind x ∈ [0, 14] ∧ amCore x = 0 ∧ (a r).lmBad 0 0 0x3_FFFC 4 = false ∧ ((a r).core 0 0).lm.wf = true) ∧
    lmPlace ((a none).launch 0) (v (lma 0x3_FFFC) true).va = lmPlace ((a none).launch 0) ((a none).th.getS 1) ∧
    lmPlace ((a none).launch 0) (v (lma 8) false).va ≠ lmPlace ((a none).launch 0) ((a none).th.getS 1) ∧
    isGlobal (v (lma 8) false).va = false := by
  refine ⟨clear_quiet (by decide +kernel) _, ?_⟩
  decide +kernel

/-- Fences: no bank touched; a bank of the core and bank 55 touched; the lines are those of `witness_GlobalLoads`, and a line no
cache holds in a page that is there. -/
theorem witness_Fences :
    let a := mk
    let b := mk fun t => { t with tbm := 2 ^ 55 + 1 }
    let c := mk (regs [(1, 0x2_0000)]) (h := fun t => { t with tlb := [⟨0, 2, 0, 0, false, true, true⟩] })
    let own (k : Nat) : Bool := (decide (k < 32) && decide (k / 4 = 0)) || (decide (32 ≤ k) && decide (k < 48) && decide ((k - 32) / 2 = 0))
    quiet a = true ∧ quiet b = true ∧ quiet c = true ∧ (List.range 56).filter (fun k => a.th.tbm.getLsbD k) = [] ∧ a.acked a.cur = true ∧
      (∀ k < 56, a.th.tbm.getLsbD k = false) ∧ a.th.outst = [] ∧ (List.range 56).filter (fun k => b.th.tbm.getLsbD k && own k) ≠ [] ∧
      (List.range 56).filter (fun k => b.th.tbm.getLsbD k) ≠ [] ∧ b.th.outst = [] ∧ isGlobal (c.th.getS 1) = true ∧
      (c.core 0 (homeCore (lineIx (c.th.getS 1)))).lineGet? (lineIx (c.th.getS 1)) = none ∧
      (c.core 0 (homeCore (lineIx (c.th.getS 1)))).lines.Pairwise (fun u v => u.1 < v.1) ∧
      (c.translate 0 (c.th.getS 1) false false).2 = .ok 0x2_0000 := by decide +kernel

/-- Fences: sync.ro and sync.rec whose echoes have come; a page that is not there. -/
theorem witness_FenceEnds (recs : Bool) :
    let o : Outst := { id := 2, addr := 8, dests := [], cond := .clears recs, hold := true }
    let a : State := { mk fun t => { t with st := .waiting, outst := [o], nextOp := 3 } with arg := { n := 2 } }
    let a := a.modTh fun t => { t with st := .waiting }
    a.th.outst = [o] ∧ a.arg.n = o.id ∧ o.cond = .clears recs ∧ o.hold = true ∧ a.th.st = .waiting ∧ a.th.trap = none ∧
      a.th.laidOff = [] ∧ (a.tile 0).misses = [] ∧
      (match (mk.translate 0 0x4000_0000_0000 false false).2 with
        | .fault _ => true
        | _ => false) = true := by
  cases recs <;> decide +kernel

/-- WatchedWords: the last word of local memory, a misaligned address, a word of another core; no word watched, and one that a
write of its first byte and one of its last byte touch. -/
theorem witness_WatchedWords :
    let a := mk (regs [(1, lma 0x3_FFFC), (2, lma 1), (3, amAddr 0 1 0 0)])
    let b := mk fun t => { t with watch := some 0xFFFF }
    quiet a = true ∧ quiet b = true ∧ (a.th.getS 1).toNat % 4 = 0 ∧ (ownLm (a.launch 0) 0 (a.th.getS 1) 4 && decide (amCore (a.th.getS 1) = 0)) = true ∧
      (a.th.getS 2).toNat % 4 ≠ 0 ∧ (a.th.getS 3).toNat % 4 = 0 ∧
      (ownLm (a.launch 0) 0 (a.th.getS 3) 4 && decide (amCore (a.th.getS 3) = 0)) = false ∧ a.th.watch = none ∧ b.th.watch ≠ none ∧
      b.lmBad 0 0 0x3_FFF9 4 = false ∧ 0x3_FFFF ≤ 4 * 0xFFFF + 3 ∧ 4 * 0xFFFF < 0x3_FFF9 + 4 ∧
      (b.core 0 0).threads[(0 : Fin 16)].watch = some 0xFFFF := by decide +kernel

/-- FullEmptyWords: words of the own core and of core 7, misaligned ones, one of another tile, one of no local memory. -/
theorem witness_FullEmptyWords :
    let a := mk (regs [(1, lma 0x3_FFFC), (2, amAddr 0 7 0 0), (3, lma 2), (4, amAddr 1 0 0 0), (5, 0x1000), (6, amAddr 0 0 9 0)])
    quiet a = true ∧ (∀ r ∈ ([1, 2] : List SReg), (a.th.getS r).toNat % 4 = 0 ∧ ownLm (a.launch 0) 0 (a.th.getS r) 4 = true) ∧
      a.lmBad 0 7 0 4 = false ∧ (a.core 0 7).full.has 0 = false ∧ (mk (g := fun c => { c with full := [(0xFFFF, ())] }) |>.core 0 0).full.has 0xFFFF = true ∧
      (a.th.getS 3).toNat % 4 ≠ 0 ∧ isTileMap (a.th.getS 4) = true ∧ amTile (a.th.getS 4) ≠ 0 ∧ isTileMap (a.th.getS 5) = false ∧
      amTile (a.th.getS 6) = 0 ∧ ownLm (a.launch 0) 0 (a.th.getS 5) 4 = false ∧ ownLm (a.launch 0) 0 (a.th.getS 6) 4 = false := by
  decide +kernel

/-- Messages: operands at their bounds; a determinate launch; a full send queue and one with room; a queue whose second message
is the first a receive accepts. -/
theorem witness_Messages :
    let m (p : Word) (t : Fin 16) : Msg := { payload := p, core := 1, thr := t, seq := 5, at_ := 0 }
    let a := mk (regs [(1, 2 ^ 20 - 1), (2, 2 ^ 20), (3, 2 ^ 16 - 1), (4, 2 ^ 16)])
      (fun c => { c with recvq := c.recvq.set 1 [m 1 2, m 2 3], sendq := c.sendq.set 2 (List.replicate 8 (m 0 0)) })
    let d := mk (l := { csize := 64, det := true })
    quiet a = true ∧ quiet d = true ∧ (a.launch 0).det = false ∧ (d.launch 0).det = true ∧ (a.th.getS 1).toNat < 2 ^ 20 ∧
      2 ^ 20 ≤ (a.th.getS 2).toNat ∧ (a.th.getS 3).toNat < 2 ^ 16 ∧ 2 ^ 16 ≤ (a.th.getS 4).toNat ∧ 8 ≤ (a.core 0 0).sendq[(2 : Fin 8)].length ∧
      (a.core 0 0).sendq[(1 : Fin 8)].length < 8 ∧ (a.core 0 0).recvq[(1 : Fin 8)] = [m 1 2] ++ m 2 3 :: [] ∧
      (RecvForm.named 3 5).takes 0 (m 1 2) = false ∧ (m 2 3).at_ ≤ a.now 0 ∧ (RecvForm.named 3 5).takes 0 (m 2 3) = true := by
  decide +kernel

/-- SampleForms: the last cell of the own tile, a cell of tile 1 of the partition, one of no tile of it; misaligned and outside
the window; a post path with room and a full one; even and odd vector registers. -/
theorem witness_SampleForms :
    let a := mk (regs [(1, amAddr 0 0 9 0x3FC0), (2, amAddr 1 0 9 0), (3, amAddr 4 0 9 0), (4, amAddr 0 0 9 32), (5, amAddr 0 0 9 0x4000)])
    let b := mk (regs [(1, amAddr 0 0 9 0)]) (fun c => { c with posts := List.replicate 8 (0, 0, 0, 0, 0) })
    let cell (x : Word) : Bool := isTileMap x && amFormOk x && (amKind x == 9) && decide (amOff x < 16384)
    quiet a = true ∧ quiet b = true ∧ (∀ r ∈ ([1, 2, 3] : List SReg), (a.th.getS r).toNat % 64 = 0 ∧ cell (a.th.getS r) = true) ∧
      a.pathLen 0 0 < 8 ∧ 8 ≤ b.pathLen 0 0 ∧ amTile (a.th.getS 1) = 0 ∧ amTile (a.th.getS 2) ≠ 0 ∧ (a.part 0).hasTile 1 = true ∧
      amTile (a.th.getS 3) ≠ 0 ∧ (a.part 0).hasTile (amTile (a.th.getS 3)) = false ∧ (14 : VReg).toNat % 2 = 0 ∧ (15 : VReg).toNat % 2 = 1 ∧
      (a.th.getS 4).toNat % 64 ≠ 0 ∧ (a.th.getS 5).toNat % 64 = 0 ∧ cell (a.th.getS 5) = false := by decide +kernel

/-- A T-word of a copy command: the second of spec/03's examples. -/
def hatomWord : V256 := 0x0108_0004_0200_0000_0000_0000_0000_0000_0000_0000_0000_0000_0000_0000_0000_0000#256

/-- EngineForms: a command and no command; identifiers at their bounds; pushes to the three engines, with room, and to a full
queue; a transfer that has been reached or not, with and without a failure record. -/
theorem witness_EngineForms :
    let a := mk (fun t => regs [(1, 2 ^ 38 - 1), (2, 2 ^ 38), (3, 2 ^ 18 - 1), (4, 2 ^ 17), (5, 2 ^ 18), (6, 2 ^ 17 - 1), (7, 2), (8, 3), (9, 1)] (t.setV 1 hatomWord))
      (h := fun t => { t with copy := { t.copy with chans := [(2, { ct := 5, fail := { valid := true, status := 4, id := 5 } })] } })
    let q : QCmd := ⟨hatomWord, 0, 1, 0, 0, 0⟩
    let b := mk (g := fun c => { c with copyq := List.replicate 16 q })
    quiet a = true ∧ (decodeTWord (a.th.getV 1)).toOption.isSome = true ∧ (decodeTWord (a.th.getV 0)).toOption = none ∧
      (a.th.getS 1).toNat < 2 ^ 38 ∧ 2 ^ 38 ≤ (a.th.getS 2).toNat ∧
      (∀ r ∈ ([3, 4] : List SReg), (decide ((a.th.getS r).toNat < 2 ^ 18) && decide (2 ≤ (a.th.getS r).toNat / 2 ^ 16)) = true) ∧
      (∀ r ∈ ([5, 6] : List SReg), (decide ((a.th.getS r).toNat < 2 ^ 18) && decide (2 ≤ (a.th.getS r).toNat / 2 ^ 16)) = false) ∧
      (a.th.getS 7).toNat % 4 = 2 ∧ (a.th.getS 8).toNat % 4 = 3 ∧ (a.th.getS 9).toNat % 4 < 2 ∧ (hatomWord.extractLsb' 248 8).toNat = 1 ∧
      ((0x0203#16 ++ 0#240 : V256).extractLsb' 248 8).toNat = 2 ∧ ((0x0300#16 ++ 0#240 : V256).extractLsb' 248 8).toNat = 3 ∧
      (a.core 0 0).copyq.length < 16 ∧ (a.core 0 0).mxq.length < 8 ∧ (a.tile 0).ev.cmds.length < 16 ∧ 16 ≤ (b.core 0 0).copyq.length ∧
      (let c := (a.tile 0).copy.chans.getD 2 {}
       ¬(c.ct - (6 : W32)).toNat < 2 ^ 31 ∧ (c.ct - (5 : W32)).toNat < 2 ^ 31 ∧ c.fail.valid = true ∧
        ((5 : W32) - BitVec.ofNat 32 c.fail.id).toNat < 2 ^ 31 ∧ ¬((4 : W32) - BitVec.ofNat 32 c.fail.id).toNat < 2 ^ 31 ∧ c.fail.status ≠ 0x0A) := by
  decide +kernel

/-- A load of global memory that waits in the port of its line. -/
def loadAcc (va : Word) : Access :=
  { r := r0, owner := 0, op := 0, addr := 0, va := va, place := .glob, n := 8, act := .load (.zx 3 8), banks := [], at_ := 0, lag := 6 }
def loading (va : Word) (tlb : List TLBEnt) : State :=
  mk (fun t => { t with outst := [{ id := 0, addr := 0, dests := [.s 3], cond := .port none }], nextOp := 1 })
    (h := fun t => { t with tlb := tlb, accs := [loadAcc va] })
def entry1 (h r : Bool) : TLBEnt := ⟨0, 4, 1, 0x2_0000, h, r, true⟩

/-- GlobalLoads: a load that waits with its line missing: of a page that no entry holds and no walk is for, of one whose
home slice is another tile's, of host pages that may be read and may not. -/
theorem witness_MissingLines :
    ∀ tlb ∈ [[], [entry1 false true], [entry1 true true], [entry1 true false]],
      let x := loading 0x1_0000 tlb
      let a := loadAcc 0x1_0000
      (x.core 0 (homeCore (lineIx a.va))).lineGet? (lineIx a.va) = none ∧ (x.tile 0).missing a.va = false ∧
        a.at_ ≤ x.now 0 ∧ x.awaited a = true ∧ a.since = none ∧ x.hostWaits a = false ∧ x.accsOn 0 (lineIx a.va) = [a] := by decide +kernel

theorem witness_MissingPages :
    (loading 0x1_0000 []).tlbHit 0 0x1_0000 = false ∧ (loading 0x1_0000 []).decks[deckOf 0].walks = [] ∧
      (mk.part 0).homeTile (lineIx 0x1_0000) ≠ 0 ∧ (entry1 false true).hits 0 0x1_0000 = true ∧
      (mk.part 0).apply (entry1 false true) 0x1_0000 false false = .ok 0x2_0000 ∧
      (mk.part 0).apply (entry1 true true) 0x1_0000 false false = .host 0x2_0000 ∧
      (mk.part 0).apply (entry1 true false) 0x1_0000 false false = .host 0x2_0000 := by decide +kernel

/-- AtomResults and Fences: a line of the own tile and core that the slice holds, clean and dirty, one that may not be written, an
address whose home tile is another. -/
theorem witness_AtomLines :
    let g : Word := 0x40_0000
    let y (wr dirty : Bool) : Line := { tag := lineIx g, data := 5, wr := wr, pl := 7, dirty := dirty, words := if dirty then 1 else 0 }
    let z : SLine := { pl := 7, way := 0, ctx := 0, data := 9 }
    let s (wr dirty : Bool) := mk (regs [(1, g)]) (fun c => c.linePut (y wr dirty)) (h := fun t => t.slicePut z)
    (∀ b ∈ [true, false], quiet (s b b) = true ∧ ((s b b).core 0 0).lineGet? (lineIx g) = some (y b b)) ∧
    (mk (regs [(1, g)])).th.getS 1 = g ∧ isGlobal g = true ∧ g.toNat % 8 = 0 ∧ (mk.part 0).homeTile (lineIx g) = 0 ∧
    homeCore (lineIx g) = 0 ∧ (mk.part 0).homeTile (lineIx 0x1_0000) ≠ 0 ∧
    ((s true true).tile 0).sliceGet? 7 = some z ∧ (s true true).wayMask 0 0 ≠ 0 ∧ z.ctx = ((s true true).launch 0).ctx ∧
    (y false false).wr = false ∧ (y true true).dirty = true ∧ (y true false).dirty = false ∧ (y true false).words = 0 := by decide +kernel

/-- Bits from fields: place and value. -/
def fields (n : Nat) (fs : List (Nat × Nat)) : BitVec n := BitVec.ofNat n (fs.foldl (fun x f => x + f.2 * 2 ^ f.1) 0)

/-- A shape record of one dimension (R209): base, format, extent. -/
def shape1 (base : Word) (fmt ext : Nat) : BitVec 512 :=
  fields 512 [(0, base.toNat), (64, fmt), (72, 1), (96, 1), (128, ext), (256, 1)]

/-- A binding on channel 0 that is next in turn. -/
def bind (out : Bool) (buf : List (V256 × BitVec 5)) (next : Nat) : StrmBind :=
  { chan := 0, out := out, xid := 1, shape := shape1 (lma 0) 7 8, starve := 3, limit := 5, buf := buf, next := next, total := 8, frm := 0 }

/-- A machine whose thread has bindings, with the step operands of STREAM_FILL on v9. -/
def bound (bs : KMap StrmBind) (tcyc : Nat := 0) (first : Option Nat := none) : State :=
  { mk (fun t => { t with binds := bs, strmWait := first }) with decks := Vector.replicate 8 { tcyc := tcyc }, arg := { n := 9, w := 1 } }

/-- Streams: the registers v7, v8 and v15; a datum, none at the end, none before the limit and at it; an output with room; a
thread whose instruction at the pc waits; a fill of each kind. -/
theorem witness_Streams :
    let a := mk (regs [(1, lma 32), (2, lma 16)])
    let b := mk (fun t => { regs [(1, lma 32)] t with outst := [{ id := 0, addr := 0, dests := [.v 8], cond := .ready {} }], nextOp := 1 })
    let free (s : State) (i : Instr) : Bool := !s.th.conflict (regUse i) && s.th.resv.isNone
    let mv : Instr := .vmovMov 3 9
    let e := (State.reset.placeWord 32 ((encodeWord mv).getD 0).toNat).modThread r0 fun t => { t with binds := [(9, bind false [] 0)] }
    quiet a = true ∧ (7 : VReg).toNat < 8 ∧ 8 ≤ (8 : VReg).toNat ∧ (a.th.getS 2).toNat % 32 ≠ 0 ∧ (a.th.getS 1).toNat % 32 = 0 ∧
      a.th.binds.has 15 = false ∧ (bound [(9, bind false [] 0)]).th.binds.has 9 = true ∧ a.th.pending.contains (.v 8) = false ∧
      b.th.pending.contains (.v 8) = true ∧ a.th.binds.get? 15 = none ∧ (bound [(9, bind true [] 0)]).th.binds.get? 9 = some (bind true [] 0) ∧
      (∀ x ∈ [bind false [(7, 1)] 4, bind false [] 8, bind false [] 7], free (bound [(9, x)]) mv = true ∧ x.out = false ∧
        (bound [(9, x)]).th.binds.get? 9 = some x ∧ (bound [(9, x)]).th.binds.get? 3 = none) ∧
      (bind false [] 8).total ≤ (bind false [] 8).next ∧ (bind false [] 7).next < (bind false [] 7).total ∧
      (bound [(9, bind false [] 7)] 4 (some 0)).now 0 - 0 < 5 ∧ 5 ≤ (bound [(9, bind false [] 7)] 5 (some 0)).now 0 - 0 ∧
      free (bound [(10, bind true [(1, 0), (2, 0), (3, 0)] 0)]) (.vmovMov 10 3) = true ∧ (bind true [(1, 0), (2, 0), (3, 0)] 0).buf.length < 4 ∧
      ((bind true [] 0).shape.extractLsb' 64 8).toNat = 7 ∧
      e.instrAt e.cur = some mv ∧ (match e.th.strmGate (regUse mv) with
        | .wait _ _ => true
        | _ => false) = true ∧
      ((bound []).tile 0).copy.chans.getD 0 {} = {} ∧ (bind false [] 0).xid = (({} : Chan).ct + 1) ∧ (bind false [] 0).status = 0 ∧
      (match ((bound []).streamDatum 0 { bind false [] 7 with tabs := some ([], []) }).2 with
        | .ok (some _) => true
        | _ => false) = true ∧ ((bound []).storeDatum 0 (bind true [(1, 0)] 0) 1).2.isNone = true := by decide +kernel

/-- StreamSteps: a wait before its limit and at it; one whose limit has passed; a datum that has arrived, the last one too. -/
theorem witness_StreamSteps :
    let mv : Instr := .vmovMov 3 9
    let s (c : Nat) (l : List VReg) : State := { ((State.reset.placeWord 32 ((encodeWord mv).getD 0).toNat).modThread r0 fun t =>
      { t with binds := [(9, bind false [] 0)], strmWait := some 0, starved := l }) with decks := Vector.replicate 8 { tcyc := c } }
    let b : StrmBind := { bind false [] 7 with coming := some (5, 1) }
    (∀ c ∈ [4, 5], (s c []).th.strmWait = some 0 ∧ (s c []).instrAt (s c []).cur = some mv ∧ (s c []).th.st = .running ∧ (s c []).th.starved = []) ∧
      (match (s 4 []).th.strmGate (regUse mv) with
        | .wait n who => decide (n = 5) && decide (who.map (·.1) = [9])
        | _ => false) = true ∧ (s 4 []).now 0 - 0 < 5 ∧ 5 ≤ (s 5 []).now 0 - 0 ∧
      (s 5 [9]).th.starved ≠ [] ∧ (bind false [] 0).starve ≠ 0 ∧ ((s 5 [9]).th.loopLvl false).active = false ∧
      ((s 5 [9]).th.loopLvl true).active = false ∧
      (bound [(9, b)]).th.binds.get? 9 = some b ∧ b.xid.setWidth 64 = (bound [(9, b)]).arg.w ∧ b.status = 0 ∧
      (((bound [(9, b)]).tile 0).copy.chans.getD 0 {}).fpend = none ∧ b.total ≤ b.next + b.advance ∧ b.coming = some (5, 1) := by
  decide +kernel

/-- TableLoads: a misaligned image; the last place an image of each table fits; a queued image of each. -/
theorem witness_TableLoads :
    let a := mk (regs [(1, lma 16), (2, lma 0x3_FC00), (3, lma 0x3_FFC0)])
    let b := mk (g := fun c => { c with tloads := [⟨0, 0, true, [1, 2], 8⟩, ⟨0, 1, false, [3], 9⟩] })
    quiet a = true ∧ (a.th.getS 1).toNat % 32 ≠ 0 ∧ (∀ x ∈ ([(2, 256), (3, 16)] : List (SReg × Nat)), let w := a.th.getS x.1
      w.toNat % 32 = 0 ∧ isGlobal w = false ∧ isTileMap w = true ∧ amFormOk w = true ∧ amTile w = 0 ∧ amKind w = 0 ∧
        amOff w + 4 * x.2 ≤ 0x4_0000 ∧ amCore w = 0 ∧ a.lmBad 0 0 (lmPlace (a.launch 0) w).off (4 * x.2) = false) ∧
      (b.core 0 0).tloads = ⟨0, 0, true, [1, 2], 8⟩ :: [⟨0, 1, false, [3], 9⟩] := by decide +kernel

/-- A machine whose channel 4 runs a command, whose tile 0 has a larger launch and a mapped page of host memory. -/
def copying : State :=
  (mk (g := fun c => { c with lm := [(0x100, 1), (0x200, 3)] })
    (h := fun t =>
      let c : Chan := { last := 1, run := some { q := ⟨hatomWord, 0, 1, 0, 0, 0⟩ } }
      { t with copy := { t.copy with chans := [(4, c)] }, tlb := [⟨0, 2, 0, 0, true, true, true⟩] })
    (l := { csize := 64, w := 2 })
    (p := fun p => { p with windows := [(3, fields 128 [(0, 1)])], groupBase := 0, hbm := [(4096, 1)] })).modTile 1
    fun t => { t with launch := some { csize := 64, w := 2, expo := 1 } }

/-- Local memory of tile 0 that a command may read and write. -/
def mineB (s : State) (x : Word) (n : Nat) : Bool :=
  !isGlobal x && isTileMap x && amFormOk x && decide (amTile x = 0) && decide (amKind x = 0) && decide (amOff x + n ≤ 0x4_0000) &&
    !s.lmBad 0 (amCore x) (amOff x) n && (s.core 0 (amCore x)).lm.wf

/-- CopyCommands: operands of each command at the ends of their ranges. -/
theorem witness_CopyCommands :
    let s := copying
    let far := amAddr 1 0 0 0x3_FFC0
    ((s.tile 0).copy.chans.getD 4 {}).run = some { q := ⟨hatomWord, 0, 1, 0, 0, 0⟩ } ∧
      -- aff: the last 64 bytes of a core to those of another
      (mineB s (lma 0x3_FFC0) 64 = true ∧ mineB s (amAddr 0 7 0 0x3_FFC0) 64 = true ∧ (lma 0x3_FFC0).toNat % 64 + 64 ≤ 64) ∧
      -- red: an i32 or FP32 addend, a 64-bit one, into the last accumulator of a region
      (mineB s (lma 0x200) 8 = true ∧ (lma 0x200).toNat % 8 = 0 ∧ mineB s (lma 0x3_FFD0) (32 + 16 * 1) = true ∧ (lma 0x3_FFD0).toNat % 16 = 0 ∧
        (BitVec.ofNat 16 ((s.core 0 0).lm.readNat 0x3_FFD0 2)).toInt ≤ 255 ∧
        -256 ≤ (BitVec.ofNat 16 ((s.core 0 0).lm.readNat 0x3_FFD0 2)).toInt ∧ (s.core 0 0).frames = [] ∧ (s.core 0 0).park = []) ∧
      -- pull and remote copies
      (mineB s (lma 0) 64 = true ∧ isGlobal far = false ∧ isTileMap far = true ∧ amFormOk far = true ∧ amTile far ≠ 0 ∧ amKind far = 0 ∧
        amOff far + 64 ≤ 0x4_0000 ∧ (s.part 0).hasTile (amTile far) = true ∧ (s.tile 0).copy.cellBusy 4 40 = false ∧
        (s.tile (amTile far)).launch.isSome = true ∧ (s.launch (amTile far)).exports 0 = true ∧ ((s.tile 0).copy.buffer 4).isSome = true) ∧
      -- mcast of four lines
      (mineB s (lma 0x100) (64 * 4) = true ∧ (lma 0x100).toNat % 64 = 0 ∧ mineB s (lma 0x300) 64 = true ∧ s.groupBits 0 0 1 ≠ 0 ∧
        (s.tile 0).copy.inj.length < 60) ∧
      -- ev of 4,096 events, bar, hatom, wb and inv
      (mineB s (lma 0) (8 * 4096) = true ∧ isTileMap (amAddr 0 0 10 0) = true ∧ amFormOk (amAddr 0 0 10 0) = true ∧
        amKind (amAddr 0 0 10 0) = 10 ∧ amOff (amAddr 0 0 10 0) = 0 ∧ (s.part 0).hasTile 0 = true) ∧
      ((s.tile 0).copy.bar = none ∧ 1 < (mk (l := { csize := 64, w := 4 }).launch 0).rounds ∧
        epochReached (BitVec.ofNat 32 (valBytes ((s.tile 0).cell 254).value 0 4)) ((s.tile 0).copy.bepoch + 1) = false ∧
        (s.launch 0).tileAt (((s.launch 0).order 0 + 1) % (s.launch 0).size) ≠ 0) ∧
      (isGlobal 0x1008 = true ∧ (0x1008 : Word).toNat % 8 = 0 ∧ (s.translate 0 0x1008 true true).2 = .host 0x1008 ∧ mineB s (lma 0x200) 16 = true ∧
        mineB s (lma 0x3_FFF8) 8 = true) ∧
      (∀ x ∈ (s.tile 0).linesIn 0x1000 0x10000, False) := by decide +kernel

/-- CopyCommands: a transfer whose request has still to be sent. -/
theorem witness_CopyCommands_ask :
    let r : Req := ⟨0, 4, 1, amAddr 1 0 0 0, 64, 0, 0, 2, 40, .pull⟩
    let p : Pull := { req := r, dst := 1, seen := 0, changed := 0 }
    let s := copying.modTile 0 fun t => { t with copy := { t.copy with chans := [(4, { run := some { q := ⟨hatomWord, 0, 1, 0, 0, 0⟩, pull := some p } })] } }
    (((s.tile 0).copy.chans.getD 4 {}).run.bind (·.pull)).map (·.ask) = some true ∧ ((s.tile 0).copy.buffer 4).isSome = true := by
  decide +kernel

/-- CopyCommands, where the next tile in launch order is another of the partition; a shape record that fails R210, read from local
memory. -/
theorem witness_CopyCommands_ring :
    let s := copying
    let rec0 : BitVec 512 := shape1 (lma 0) 99 8
    let t := copying.modCore 0 0 fun c => { c with lm := c.lm.writeNat 0x1000 64 rec0.toNat }
    (s.part 0).hasTile ((s.launch 0).tileAt (((s.launch 0).order 0 + 1) % (s.launch 0).size)) = true ∧
      (∀ x ∈ (s.tile 0).copy.probes, x.1 ≠ 4) ∧ (s.tile 0).misses = [] ∧ (lma 0x1000).toNat % 64 = 0 ∧ (lma 0x1004).toNat % 64 ≠ 0 ∧
      (match (t.readShape 0 (lma 0x1000)).2 with
        | .ok bits => !(Shape.ofBits bits).ok
        | _ => false) = true := by decide +kernel

/-- CopyCommands, a refused operand each: no window; a window of another tile that is not exported, outside the partition; a misaligned
address of kind 7; lengths and counts outside their ranges; a busy grant cell; an empty group; a barrier of another epoch. -/
theorem witness_CopyCommands_refused :
    let s := copying
    let out (x : Word) (n kind : Nat) : Bool := isTileMap x && amFormOk x && (amTile x != 0) && (amKind x == kind) && decide (amOff x + n ≤ 0x4_0000)
    let e (x : Nat) := copying.modCore 0 0 fun c => { c with lm := c.lm.writeNat 0 2 x }
    let c : Chan := { run := some { q := ⟨fields 256 [(240, 3), (160, 40)], 0, 1, 0, 0, 0⟩ } }
    let busy := copying.modTile 0 fun t => { t with copy := { t.copy with chans := [(5, c)] } }
    isGlobal 0x0100000000000000 = false ∧ isTileMap 0x0100000000000000 = false ∧
      out (amAddr 4 0 0 0) 64 0 = true ∧ (s.part 0).hasTile 4 = false ∧ out (amAddr 1 0 0 0) 64 0 = true ∧
      ((copying.modTile 1 fun t => { t with launch := none }).tile 1).launch = none ∧
      out (amAddr 1 0 10 0) 1 10 = true ∧ (s.launch 1).exports 10 = false ∧
      isTileMap (amAddr 0 0 7 8) = true ∧ amFormOk (amAddr 0 0 7 8) = true ∧ amKind (amAddr 0 0 7 8) = 7 ∧ (amAddr 0 0 7 8).toNat % 16 ≠ 0 ∧
      mineB s (lma 4) 4 = true ∧ (lma 4).toNat % 8 ≠ 0 ∧ (lma 8).toNat % 16 ≠ 0 ∧
      255 < (BitVec.ofNat 16 (((e 256).core 0 0).lm.readNat 0 2)).toInt ∧
      (BitVec.ofNat 16 (((e 0xFEFF).core 0 0).lm.readNat 0 2)).toInt < -256 ∧
      (busy.tile 0).copy.cellBusy 4 40 = true ∧ s.groupBits 0 0 2 = 0 ∧
      (s.tile 0).copy.bar = none ∧ (7 : W32) ≠ (s.tile 0).copy.bepoch + 1 ∧
      (s.translate 0 0x1004 true true).2 = .host 0x1004 ∧ (0x1004 : Word).toNat % 8 ≠ 0 := by decide +kernel

/-- A machine whose core 0 has a matrix command queued, with FP32 values in local memory and in the accumulator file. -/
def matrix : State :=
  mk (g := fun c => { c with mxq := [⟨0, 0, 3, 5, 0, 0⟩], lm := [(3, 0x40), (7, 0x41)] })
    (h := fun t => { t with mx := { t.mx with acc := [(3, 0x40), (131, 0x41), (0x7F83, 0x3F), (0x8000, 1)] } })

/-- The operands of a matrix command on a side of FP32 rows, at fields that mx.run and mx.st have, and those of mx.ldw. -/
def side (hi : Nat) : BitVec 192 := fields 192 [(0, (lma 0).toNat), (96, 32), (144, 7), (152, hi), (160, 1)]
def ldwOps : BitVec 192 := fields 192 [(0, (lma 0).toNat), (96, 7), (128, 1)]

/-- MatrixCommands: one command of each kind at the ends of its ranges. -/
theorem witness_MatrixCommands :
    let s := matrix
    (s.core 0 0).mxq = ⟨0, 0, 3, 5, 0, 0⟩ :: [] ∧ (s.tile 0).mx.done[(0 : Fin 8)] = 0 ∧ (s.tile 0).mx.acc.wf = true ∧ (s.tile 0).mx.rows = [] ∧
      -- zero: 32 rows up to the last; acc and scale: one row
      (let o := fields 192 [(152, 224), (160, 32)]
       o.extractLsb' 0 152 = 0 ∧ o.extractLsb' 176 16 = 0 ∧ (o.extractLsb' 160 16).toNat ≤ 32 ∧ (o.extractLsb' 152 8).toNat + 32 ≤ 256) ∧
      (let o := fields 192 [(144, 255), (152, 1), (160, 1)]
       o.extractLsb' 0 144 = 0 ∧ o.extractLsb' 176 16 = 0 ∧ (o.extractLsb' 160 16).toNat = 1) ∧
      (let o := fields 192 [(128, 0xFFFF), (152, 255), (160, 1)]
       o.extractLsb' 64 64 = 0 ∧ (o.extractLsb' 144 8).toNat = 0 ∧ o.extractLsb' 176 16 = 0 ∧ (o.extractLsb' 160 16).toNat = 1) ∧
      (let o := side 0
       o.extractLsb' 64 32 = 0 ∧ o.extractLsb' 128 16 = 0 ∧ o.extractLsb' 176 16 = 0 ∧ (o.extractLsb' 160 16).toNat = 1) ∧
      (let o := side 255
       o.extractLsb' 64 32 = 0 ∧ o.extractLsb' 128 16 = 0 ∧ o.extractLsb' 176 16 = 0 ∧ (o.extractLsb' 160 16).toNat = 1 ∧
        (o.extractLsb' 152 8).toNat < 256) := by decide +kernel

/-- MatrixCommands: the operand side of mx.run and mx.st. -/
theorem witness_MatrixCommands_side :
    (match matrix.mxSide 0 0 ((side 255).extractLsb' 0 64) false 7 32 with
      | (s1, .ok x) =>
        decide (x.ext0 = 32) && fetchFmt x.fmt && storeFmt x.fmt false && fieldFmtOk 7 && !oddStride false x.fmt 32 && decide ((s1.tile 0).mx.done[(0 : Fin 8)] = 0) &&
          decide (((s1.mxTabs 0 0).1.tile 0).mx.done[(0 : Fin 8)] = 0)
      | _ => false) = true := by decide +kernel

/-- MatrixCommands: mx.run's row is fetched. -/
theorem witness_MatrixCommands_run :
    (match matrix.mxSide 0 0 ((side 255).extractLsb' 0 64) false 7 32 with
      | (s1, .ok x) =>
        (match (s1.mxTabs 0 0).1.mxRow 0 x (s1.mxTabs 0 0).2 0 with
          | (s2, .ok (some _)) => decide ((s2.core 0 0).mxq = (matrix.core 0 0).mxq)
          | _ => false)
      | _ => false) = true := by decide +kernel

/-- MatrixCommands: mx.st's row is stored. -/
theorem witness_MatrixCommands_st :
    (match matrix.mxSide 0 0 ((side 255).extractLsb' 0 64) false 7 32 with
      | (s1, .ok x) =>
        (match (s1.stOne 0 0 x false (RM.ofBits 0) 0 255 0).2 with
          | .ok () => true
          | _ => false)
      | _ => false) = true := by decide +kernel

/-- MatrixCommands: a weight load whose 32 rows are read. -/
theorem witness_MatrixCommands_ldw :
    let s := matrix
    ldwOps.extractLsb' 64 32 = 0 ∧ ldwOps.extractLsb' 104 24 = 0 ∧ ldwOps.extractLsb' 160 32 = 0 ∧
    (match s.mxSide 0 0 (ldwOps.extractLsb' 0 64) false 7 1 with
        | (s1, .ok x) => fetchFmt x.fmt && fieldFmtOk 7 && !oddStride false x.fmt 1 && ((s1.mxTabs 0 0).1.tile 0).mx.load.isNone &&
          !((s1.mxTabs 0 0).1.tile 0).mx.active && decide (((s1.mxTabs 0 0).1.tile 0).mx.done[(0 : Fin 8)] = 0) &&
          (match ((((s1.mxTabs 0 0).1.modMx 0 fun m => { m with t4p1 := nibbleFmt x.fmt }).modMx 0 fun m => { m with load := some ⟨0, 5, true⟩ }).ldwRows
              0 0 { x with ext1 := 32 } (s1.mxTabs 0 0).2 true 0 33).2.2 with
            | .ok () => true
            | _ => false)
        | _ => false) = true := by decide +kernel

/-- A shape record of two dimensions (R209), with scales at `sb`. -/
def shape2 (base : Word) (fmt ext0 ext1 : Nat) (sb : Nat := 0) : BitVec 512 :=
  fields 512 [(0, base.toNat), (64, fmt), (72, 2), (96, 1), (128, ext0), (160, ext1), (256, 1), (288, 32), (384, sb)]

/-- A machine as `matrix` whose head command has read a record, with scales at 0x400 that are out of range. -/
def recorded (bits : BitVec 512) (done : Nat := 0) : State :=
  (matrix.modMx 0 fun m => { m with recs := m.recs.set 0 (some bits), done := m.done.set 0 done }).modCore 0 0 fun c =>
    { c with lm := c.lm.writeNat 0x400 2 0x07F8 }
def recOps (hi : Nat) : BitVec 192 := fields 192 [(0, (lma 0x800).toNat), (152, hi)]

/-- MatrixCommands: the quad forms and partial services, and operands that are refused. -/
theorem witness_MatrixCommands_quads :
    let s := matrix
    let o (lo hi n : Nat) := fields 192 [(144, lo), (152, hi), (160, n)]
    (s.tile 0).mx.done[(0 : Fin 8)] < 40 ∧ min 40 (0 + 32) < 40 ∧ ((o 0 24 40).extractLsb' 152 8).toNat + 40 ≤ 64 ∧
      (o 0 24 40).extractLsb' 0 152 = 0 ∧ ((o 0 24 40).extractLsb' 160 16).toNat = 40 ∧
      ((o 63 62 1).extractLsb' 144 8).toNat + 1 ≤ 64 ∧ ((o 63 62 1).extractLsb' 152 8).toNat + 1 ≤ 64 ∧ (o 63 62 1).extractLsb' 0 144 = 0 ∧
      64 < ((o 0 64 1).extractLsb' 152 8).toNat + 1 ∧ 256 < ((o 0 255 2).extractLsb' 152 8).toNat + 2 ∧
      mineB s ((recOps 0).extractLsb' 0 64) 1 = true ∧ (2 : BitVec 16).getLsbD 1 = true ∧ (1 : BitVec 16).getLsbD 0 = true ∧
      (fields 192 [(176, 1), (160, 1)]).extractLsb' 176 16 ≠ 0 := by decide +kernel

/-- MatrixCommands: sides that a record names, one that fails its check, one that is no matrix. -/
theorem witness_MatrixCommands_records :
    let good := shape2 (lma 0) 7 32 1
    (match (recorded good).mxSide 0 0 ((recOps 255).extractLsb' 0 64) true 0 0 with
      | (s1, .ok x) => decide (s1.tiles = (recorded good).tiles) && decide (x.ext0 = 32) && fetchFmt x.fmt && storeFmt x.fmt false && !oddStride true x.fmt 0 &&
          (match (s1.mxTabs 0 0).1.mxRow 0 x (s1.mxTabs 0 0).2 0 with
            | (s3, .ok (some _)) => decide ((s3.core 0 0).mxq = (matrix.core 0 0).mxq)
            | _ => false) &&
          (match (s1.stOne 0 0 x false .rne 0 255 0).2 with
            | .ok () => true
            | _ => false)
      | _ => false) = true ∧
    ((recOps 0).extractLsb' 0 64).toNat % 64 = 0 ∧ amKind ((recOps 0).extractLsb' 0 64) = 0 ∧ amOff ((recOps 0).extractLsb' 0 64) + 64 ≤ 0x4_0000 ∧
    ((recorded (shape1 (lma 0) 99 1)).tile 0).mx.recs[(0 : Fin 8)] = some (shape1 (lma 0) 99 1) ∧ (Shape.ofBits (shape1 (lma 0) 99 1)).ok = false := by
  decide +kernel

/-- MatrixCommands: a row whose scale is out of range. -/
theorem witness_MatrixCommands_scale :
    (match (recorded (shape2 (lma 0) 5 32 1 (lma 0x400).toNat)).mxSide 0 0 ((recOps 255).extractLsb' 0 64) true 0 0 with
      | (s1, .ok x) => fetchFmt x.fmt && decide (x.ext0 ≤ 32) && decide (s1.tiles = (recorded (shape2 (lma 0) 5 32 1 (lma 0x400).toNat)).tiles) &&
          (match (s1.mxTabs 0 0).1.mxRow 0 x (s1.mxTabs 0 0).2 0 with
            | (s3, .ok none) => decide ((s3.core 0 0).mxq = (matrix.core 0 0).mxq) && decide ((s3.tile 0).mx.rows = [])
            | _ => false)
      | _ => false) = true := by decide +kernel

/-- MatrixCommands: the last row of a weight load, one that the side holds and one past it. -/
theorem witness_MatrixCommands_last (e : Bool) :
    (match (recorded (shape2 (lma 0) 7 32 (if e then 32 else 31)) 31).mxSide 0 0 ((recOps 0).extractLsb' 0 64) true 0 0 with
      | (s1, .ok x) => decide (((s1.mxTabs 0 0).1.tile 0).mx.done[(0 : Fin 8)] = 31) && ((s1.mxTabs 0 0).1.tile 0).mx.load.isNone &&
          decide (x.ext0 ≤ 32 ∧ x.ext1 ≤ 32) && decide ((31 < x.ext1) ↔ e = true) &&
          (match ((s1.mxTabs 0 0).1.modMx 0 fun m => { m with load := some ⟨0, 5, true⟩ }).mxRow 0 x (s1.mxTabs 0 0).2 31 with
            | (s3, .ok (some (xs, _))) => decide (xs.length = 32) && decide ((s3.tile 0).mx.plane1 = []) && decide ((s3.core 0 0).mxq = (matrix.core 0 0).mxq)
            | _ => false)
      | _ => false) = true := by
  cases e <;> decide +kernel

/-- MatrixCommands: the invariant holds where one row of f32 elements is stored. -/
theorem witness_MatrixCommands_inv : matrix.Inv ∧ (matrix.core 0 0).frames = [] ∧ (matrix.core 0 0).park = [] ∧
    mineB matrix ((side 0).extractLsb' 0 64) 128 = true := by
  let : ∀ c : Core, Decidable c.wf := fun c => by unfold Core.wf Thread.numbered; infer_instance
  let : ∀ t : Tile, Decidable t.wf := fun t => by unfold Tile.wf; infer_instance
  unfold State.Inv Part.wf; decide

/-- A machine whose event engine has a command at the head of its queue. -/
def eventful (run : Option EvRunSt) (decl : Option EvDecl := none) (queue : List EvEnt := [⟨0x0000_0500_0000_0000, 0, 0⟩]) : State :=
  mk (g := fun c => { c with lm := [(0, 1)] })
    (h := fun t => { t with ev := { t.ev with cmds := [⟨0, 0, 3, 0, 0, 0⟩], run := run, decl := decl, queue := queue, seq := 4 } })

/-- EventCommands: fields at their bounds; one event, one source, a run that samples, delivers and has nothing left. -/
theorem witness_EventCommands :
    let s := eventful none
    let f (o : BitVec 192) (a n : Nat) : Nat := (o.extractLsb' a n).toNat
    (s.tile 0).ev.cmds = ⟨0, 0, 3, 0, 0, 0⟩ :: [] ∧
      (let o := fields 192 [(0, 3), (32, 1), (40, 16), (48, 31), (56, 255), (64, 0x7FFF_FFFF), (112, 0xFFFF), (128, 0x1F_FFFC), (160, 0x1F_FFF8)]
       f o 2 30 = 0 ∧ f o 33 7 = 0 ∧ f o 40 5 ≤ 16 ∧ f o 45 3 = 0 ∧ f o 53 3 = 0 ∧ 0 < (o.extractLsb' 64 32).toInt ∧ f o 96 16 = 0 ∧
        f o 128 32 < 2 ^ 21 ∧ f o 128 32 % 4 = 0 ∧ f o 160 32 < 2 ^ 21 ∧ f o 160 32 % 8 = 0) ∧
      (let o := fields 192 [(0, (lma 0x3_FFF8).toNat), (128, 1)]
       f o 64 64 = 0 ∧ f o 128 16 = 1 ∧ f o 144 48 = 0 ∧ mineB s (o.extractLsb' 0 64) 8 = true ∧ (o.extractLsb' 0 64).toNat % 8 = 0 ∧
        (s.tile 0).ev.queue.length < 4096) ∧
      (let o := fields 192 [(96, 1), (104, 255), (120, 254), (128, (lma 0x3_FFFC).toNat)]
       f o 0 96 = 0 ∧ f o 96 5 = 1 ∧ f o 101 3 = 0 ∧ f o 104 8 ≠ 0 ∧ f o 112 8 = 0 ∧ f o 120 8 + 1 ≤ 255 ∧
        mineB s (o.extractLsb' 128 64) 4 = true ∧ (o.extractLsb' 128 64).toNat % 4 = 0 ∧
        (s.part 0).hasTile ((s.core 0 0).lm.readNat 0x3_FFFC 4 % 2 ^ 16) = true) ∧
      f (fields 192 [(0, 0xFF_FFFF)]) 24 168 = 0 ∧ (s.tile 0).ev.run = none ∧ (s.tile 0).ev.decl = none ∧
      (((eventful (some (.sampling [] none))).tile 0).ev.run = some (.sampling [] none) ∧ (1 : BitVec 16).getLsbD 0 = true) ∧
      (((eventful (some (.running 9)) none []).tile 0).ev.run = some (.running 9) ∧ ((eventful (some (.running 9)) none []).tile 0).ev.queue = [] ∧
        ((eventful (some (.running 9)) none []).tile 0).ev.pendingFan = [] ∧ ((eventful (some (.running 9)) none []).tile 0).frozen = false) ∧
      (let o := fields 192 [(64, 3), (96, 8191), (112, 1), (128, (lma 0x3_FFF8).toNat)]
       f o 0 64 = 0 ∧ f o 66 30 = 0 ∧ f o 109 3 = 0 ∧ f o 112 16 = 1 ∧ f o 96 13 < 8192 ∧ mineB s (o.extractLsb' 128 64) 8 = true ∧
        (o.extractLsb' 128 64).toNat % 8 = 0) := by decide +kernel

/-- An event of tick 5 on neuron 7 of bank 0, of a kind, with a payload. -/
def event (kind payload : Nat) (tick : Nat := 5) : EvEnt := ⟨fields 64 [(0, payload), (16, kind), (25, 7), (40, tick)], 0, 1⟩

/-- A machine whose event engine runs below tick 9, with a fan-out table at 0x1000 of core 0 whose entry of neuron 7 is one. -/
def firing (q : List EvEnt) (b : EvBank := {}) (entry : Nat := 0) (x : Word := 0) (decl : Option EvDecl := none) : State :=
  ({ mk (l := { csize := 64, w := 2 }) with arg := { n := 3 } }.modCore 0 0 fun c =>
    { c with lm := ((c.lm.writeNat (0x1000 + 28) 4 (2 ^ 16)).writeNat 0x9000 8 entry).writeNat 0x2004 4 77 }).modTile 0 fun t =>
    { t with ev := { t.ev with cmds := [⟨0, 0, 3, 0, 0, 0⟩], run := some (.running 9), queue := q, t := 4, decl := decl
                               banks := t.ev.banks.set 0 b, neurons := if x = 0 then [] else [(7, x)] } }

/-- EventCommands: the neurons are in order; a full queue; a declared source of the own tile, one of another, one outside the partition;
their samples. -/
theorem witness_EventCommands_sources :
    let d : EvDecl := { srcs := [(0, 7), (1, 8)], lossbase := 20, dmin := 2 }
    let s (r : Option EvRunSt) := { eventful r (some d) with arg := { n := 6 } }.modTile 0 fun t =>
      { t with ev := { t.ev with tau := [(0, 3), (1, 9)] }, copy := { t.copy with samples := [(6, .source 1 0)] } }
    let full := eventful none (some d) (List.replicate 4096 (event 1 0))
    ((s none).tile 0).ev.cmds = ⟨0, 0, 3, 0, 0, 0⟩ :: [] ∧ ((s none).tile 0).ev.neurons.Rising ∧ ((s none).tile 0).ev.run = none ∧
      ((s none).tile 0).ev.decl = some d ∧ 4096 ≤ (full.tile 0).ev.queue.length ∧ d.srcs[1]? = some (1, 8) ∧ d.srcs[0]? = some (0, 7) ∧
      ((s none).tile 0).copy.samples.get? 6 = some (.source 1 0) ∧ ((s none).arg.n = 6 ∧ 1 ∈ [0, 1]) ∧
      (∀ x ∈ d.srcs, 5 ≤ ((s none).tile 0).ev.tau.getD x.1 0 + d.dmin) ∧ (∃ x ∈ d.srcs, 5 = ((s none).tile 0).ev.tau.getD x.1 0 + d.dmin) ∧
      (mk.part 0).hasTile 1 = true ∧ (mk.part 0).hasTile 4 = false := by decide +kernel

/-- EventCommands: T passes a multiple of 16,384; one event with a bound of the same span. -/
theorem witness_EventCommands_bounds :
    let m := 16384 * (((firing []).tile 0).ev.t / 16384 + 1)
    ((firing []).tile 0).ev.queue = [] ∧ m ≤ 20000 ∧ 20000 < m + 16384 ∧ 20000 < 2 ^ 24 ∧
      ((firing [event 1 5]).tile 0).ev.queue = event 1 5 :: [] ∧ ((event 1 5).word.extractLsb' 40 24).toNat < 9 ∧
      ((firing [event 1 5]).tile 0).ev.t ≤ 9 ∧ ((firing [event 1 5]).tile 0).ev.t / 16384 = 9 / 16384 ∧
      ((firing [event 1 5]).tile 0).ev.pendingFan = [] ∧ ((firing [event 1 5]).tile 0).frozen = false ∧
      ((firing [event 1 5, event 1 5 9]).tile 0).ev.queue = event 1 5 :: [event 1 5 9] ∧
      (∀ x ∈ ([event 1 5 9] : List EvEnt).head?, 9 ≤ (x.word.extractLsb' 40 24).toNat) := by decide +kernel

/-- EventCommands: deliveries: of kinds that are none, a table entry and one past the table, an unreadable one; a neuron that waits out
its refractory ticks, one below its threshold, at it, and a forced one; fan-outs of each kind. -/
theorem witness_EventCommands_deliver :
    let kind (e : EvEnt) := (e.word.extractLsb' 16 9).toNat
    let pay (e : EvEnt) := (e.word.extractLsb' 0 16).toNat
    let b : EvBank := { wbase := 0x2000, wcount := 2, theta := 6, fbase := 0x1000 }
    let s (entry : Nat) := firing [event 3 0] b entry
    let ref : Neuron := { Neuron.ofWord 0 with ref := 200, last := 4 }
    let target (w : Nat) := w / 2 ^ 48
    let delay (w : Nat) := w / 2 ^ 40 % 256
    kind (event 0 0) = 0 ∧ 3 < kind (event 5 0) ∧ kind (event 2 1) = 2 ∧ pay (event 2 1) < b.wcount ∧ ¬ pay (event 2 2) < b.wcount ∧
      b.wbase ≠ 0 ∧ ctrOff b.wbase.toNat + 4 * 1 + 4 ≤ 0x4_0000 ∧
      (s 0).lmBad 0 (ctrCore b.wbase.toNat) (ctrOff b.wbase.toNat + 4) 4 = false ∧
      ((s 0).modCore 0 (ctrCore b.wbase.toNat) fun c => { c with lmUE := [(ctrOff b.wbase.toNat / 4 + 1, ())] }).lmBad 0
        (ctrCore b.wbase.toNat) (ctrOff b.wbase.toNat + 4) 4 = true ∧
      200 - 1 > 0 ∧ (Neuron.ofWord ref.word).ref = 200 ∧ (Neuron.ofWord ref.word).last = 4 ∧
      ¬ b.theta.toInt ≤ 5 ∧ b.theta.toInt ≤ 6 ∧ b.fbase ≠ 0 ∧ ({} : EvBank).fbase = 0 ∧
      0x4_0000 < ctrOff 0x3_FFF8 + 4 * 7 + 4 ∧ ctrOff b.fbase.toNat + 4 * 7 + 4 ≤ 0x4_0000 ∧ ctrOff b.fbase.toNat + 0x8000 + 8 * 0 + 8 ≤ 0x4_0000 ∧
      (s 0).lmBad 0 (ctrCore b.fbase.toNat) (ctrOff b.fbase.toNat + 28) 4 = false ∧
      (s 0).lmBad 0 (ctrCore b.fbase.toNat) (ctrOff b.fbase.toNat + 0x8000) 8 = false ∧
      ((s 0).core 0 (ctrCore b.fbase.toNat)).lm.readNat (ctrOff b.fbase.toNat + 28) 4 = 2 ^ 16 + 0 ∧
      (∀ w ∈ [0, 2 ^ 40 * 200, 2 ^ 40 * 200 + 2 ^ 48, 2 ^ 40 * 200 + 4 * 2 ^ 48],
        ((s w).core 0 (ctrCore b.fbase.toNat)).lm.readNat (ctrOff b.fbase.toNat + 0x8000) 8 = w) ∧
      delay 0 = 0 ∧ delay (2 ^ 40 * 200) ≠ 0 ∧ target (2 ^ 40 * 200) = 0 ∧ 9 ≤ 5 + delay (2 ^ 40 * 200) ∧
      (mk.part 0).hasTile (target (2 ^ 40 * 200 + 2 ^ 48)) = true ∧ (mk.part 0).hasTile (target (2 ^ 40 * 200 + 4 * 2 ^ 48)) = false ∧
      ((s 0).tile 0).copy.fanRoom = true ∧ 2 ^ 24 ≤ (2 ^ 24 - 5) + delay (2 ^ 40 * 200) := by decide +kernel

/-- A thread with one outstanding instruction, and the step operands of RESULT_ARRIVAL and BANK_ECHO for it. -/
def holding (c : Cond) (hold : Bool := false) (n : Nat := 2) (f : Thread → Thread := id) (l : Launch := { csize := 64, tvec := 32 }) : State :=
  { mk (fun t => f { t with outst := [{ id := 2, addr := 8, dests := [.s 3], cond := c, hold := hold, lag := 4 }], nextOp := 3, pc := 12 }) (l := l) with arg := { n := n } }

/-- ResultsArrive: a result of each kind of register, holding and not; an open wait; a fence that waits for bank 55,
while an access of its unit to the bank is under way and when none is. -/
theorem witness_ResultsArrive :
    let w : Writes := { s := [(3, 7)], v := [(3, 7)], p := [(3, true)] }
    let a := holding (.ready w)
    let b := holding (.watch 3)
    let c : State := { holding (.fence [5, 55] true 3 0) true 55 with arg := { n := 55, m := 2 } }
    let d := holding (.ready {}) true
    let e := holding (.clears true) true
    (∀ s ∈ [a, b, c, d, e], ∃ o ∈ s.th.outst, s.th.outst = [] ++ o :: [] ∧ (s.arg.n = o.id ∨ s.arg.m = o.id)) ∧ 55 ∈ [5, 55] ∧ 7 ∉ [5, 55] ∧ a.th.trap.isNone = true ∧
      a.th.susp.isNone = true ∧ a.th.binds.get? 3 = none ∧ (3 : SReg) ≠ 0 ∧ (3 : PReg) ≠ 0 ∧ d.th.outst.map (·.hold) = [true] ∧
      (d.th.loopLvl false).active = false ∧ (d.th.loopLvl true).active = false ∧ b.arg.m ≠ 1 ∧
      b.th.outst.map (·.cond.timeoutPred) = [some 3] ∧ c.arg.n < 64 ∧ ((b.tile 0).frozen && b.th.resv.isNone) = false ∧
      b.th.outst.all (fun o => match o.cond with
        | .push _ _ _ _ => false
        | _ => true) = true ∧
      (c.tile 0).unperformed c.th.owner 55 = false ∧
      ((c.modTile 0 fun t => { t with accs := [{ r := r0, owner := 0, op := 0, addr := 0, va := 0x1_0000, place := .glob, n := 4, act := .store 0 0, banks := [48, 55], at_ := 2, lag := 0 }] }).tile 0).unperformed
        c.th.owner 55 = true := by
  refine ⟨?_, by decide +kernel⟩
  intro s hs
  simp only [List.mem_cons, List.not_mem_nil, or_false] at hs
  rcases hs with rfl | rfl | rfl | rfl | rfl
  all_goals exact ⟨_, List.mem_singleton.mpr rfl, rfl, by decide +kernel⟩

/-- TrapSteps: a deferred fault; a trap held until its entry; CANCEL of a thread in its handler, outside it with nothing
outstanding, and waiting; a reservation; a word that is no instruction; the clean-up of a CANCEL. -/
theorem witness_TrapSteps :
    let a := holding (.faulted .ue 9)
    let p : PendTrap := ⟨.engfault, 1, 2, 3, true⟩
    let b := mk (fun t => { t with trap := some p }) (l := { csize := 64, tvec := 32 })
    let h := mk (fun t => { t with ih := true })
    let c := mk (l := { csize := 64, tvec := 32 })
    let w := holding (.watch 3) true 2 (fun t => { t with st := .waiting })
    let r := mk (fun t => { t with resv := some ⟨lma 0, 4, 0, true, false, false, 0, 4⟩ }) (l := { csize := 64, tvec := 32 })
    let n := State.reset.placeWord 32 0
    let e := mk (fun t => { t with cxh := true, ih := true })
    (a.th.outst = { id := 2, addr := 8, dests := [.s 3], cond := .faulted .ue 9, lag := 4 } :: [] ∧ a.arg.n = 2 ∧ a.th.trap.isNone ∧ a.th.susp.isNone ∧ a.th.ih = false ∧
      (a.launch 0).tvec &&& ~~~3 ≠ 0) ∧ (b.th.trap = some p ∧ b.th.outst = [] ∧ b.th.ih = false ∧ b.th.laidOff = [] ∧ a.th.laidOff = [] ∧ w.th.laidOff = [] ∧ r.th.laidOff = []) ∧
      (h.th.st ≠ .empty ∧ h.th.st ≠ .stopped ∧ h.th.susp.isNone ∧ h.th.ih = true) ∧
      (c.th.st ≠ .empty ∧ c.th.resv.isNone ∧ c.th.trap.isNone ∧ c.th.outst = [] ∧ (c.launch 0).tvec &&& ~~~3 ≠ 0) ∧
      (w.th.outst.map (fun o => (o.hold, o.waits)) = [(true, true)] ∧ (w.th.loopLvl false).active = false ∧ (w.th.loopLvl true).active = false) ∧
      (r.th.resv.isSome ∧ r.th.outst = []) ∧ n.codeWord n.cur.tile n.th.pc.toNat = some 0 ∧
      (e.th.cxh = true ∧ e.th.st = .running ∧ e.th.outst = [] ∧ e.th.w2 = 0 ∧ e.th.w1.getLsbD 31 = false) := by
  decide +kernel

/-- UnitSteps: an Empty slot with an entry at a level; a sibling's entry that may be stolen, by the seventh; one on its way; a
message whose turn it is; a thread that migrates; a displacement with a free frame. -/
theorem witness_UnitSteps :
    let e : Entry := { w := (Vector.replicate 16 0).set 0 60, stamp := 1 }
    let x : Entry := { w := (Vector.replicate 16 0).set 1 0xC0, stamp := 2 }
    let a := (mk (g := fun c => { c with deque := (c.deque.set 2 [e]).set 0 [x] })).modThread r0 fun t => { t with st := .empty }
    let b := (mk (g := fun c => { c with stealNext := 7 })).modCore 0 7 fun c => { c with deque := c.deque.set 3 [x, e] }
    let m : Msg := { payload := 5, core := 0, thr := 0, seq := 1, at_ := 0 }
    let c := { mk (g := fun c => { c with sendq := c.sendq.set 1 [m] }) with arg := { n := 1 }, decks := Vector.replicate 8 { tcyc := 1 } }
    let src : ThreadRef := ⟨0, 1, 0⟩
    let d := { ((mk).modThread r0 fun t => { t with st := .empty }).modThread src fun t => { t with st := .waiting, picked := 3 } with arg := { n := 1, m := 3 } }
    let y : Entry := { w := (Vector.replicate 16 0).set 1 0x400, stamp := 1 }
    let k := (mk (g := fun c => { c with deque := c.deque.set 2 [y] })).modThread r0 fun t => { t with st := .empty }
    let f := mk (g := fun c => { c with displacing := some 0 }) (l := { csize := 64, fbytes := 0x4000 })
    (a.th.st = .empty ∧ a.th.notBefore ≤ a.now 0 ∧ (a.launch 0).det = false ∧ (a.core 0 0).deque[(2 : Fin 4)] = e :: [] ∧
      (a.core 0 0).deque[(3 : Fin 4)] = [] ∧ (∀ j : Fin 4, ∀ y ∈ ((a.core 0 0).deque.set 2 [])[j], y.stamp ≠ e.stamp) ∧ e.frame.isNone ∧
      e.waitOut.isNone ∧ (((a.core 0 0).entryNow e).w)[1].getLsbD 10 = false ∧ e.w[2] = 0 ∧ e.w[0].toNat % 4 = 0 ∧ e.w[0].toNat < (a.launch 0).csize) ∧
      ((b.core 0 0).stealNext = 7 ∧ (b.core 0 7).deque[(3 : Fin 4)] = [x] ++ [e] ∧ e.w[1].getLsbD 11 = false ∧ e.w[1].getLsbD 9 = false ∧
        (∀ j : Fin 4, ∀ y ∈ ((b.core 0 7).deque.set 3 [x])[j], y.stamp ≠ e.stamp)) ∧
      (mk (g := fun c => { c with stealing := some e }).core 0 0).stealing = some e ∧
      ((c.core 0 0).sendq[(1 : Fin 8)] = m :: [] ∧ c.mayCross 0 0 1 = true) ∧
      ((d.thread src).st = .waiting ∧ (d.thread src).outst = [] ∧ (d.thread src).picked = d.arg.m ∧ src.core.val = d.arg.n ∧ (d.tile 0).accs = [] ∧ d.th.st = .empty ∧ d.th.notBefore ≤ d.now 0) ∧
      ((f.core 0 0).displacing = some 0 ∧ f.th.st = .running ∧ f.th.outst = [] ∧ f.th.cxh = false ∧ f.th.hcx = false ∧ f.th.mayDisplace (f.launch 0).det = true ∧
        (f.core 0 0).freeFrame.isSome) ∧
      (k.th.st = .empty ∧ (k.core 0 0).deque[(2 : Fin 4)] = y :: [] ∧ (((k.core 0 0).entryNow y).w)[1].getLsbD 10 = true ∧
        (((k.core 0 0).entryNow y).w)[1].getLsbD 31 = false ∧ (((k.core 0 0).entryNow y).w)[2] = 0) := by decide +kernel

/-- A machine with tile 0's copy unit, cells and intake set, in a launch of four tiles. -/
def unit (u : CopyUnit → CopyUnit := id) (cells : KMap Cell := []) (h : Tile → Tile := id) (f : Thread → Thread := id) (expo : BitVec 16 := 0) : State :=
  mk f (h := fun t => h { t with copy := u t.copy, cells := cells }) (l := { csize := 64, w := 4, expo := expo })

/-- A thread with one instruction outstanding. -/
def one (c : Cond) (t : Thread) : Thread := { t with outst := [{ id := 2, addr := 8, dests := [], cond := c, lag := 4 }], nextOp := 3 }

def post0 : IntakePost := { at_ := 0, cell := 255, value := 7, writer := 0, act := 0 }
def post1 : IntakePost := { at_ := 0, cell := 255, value := 8, writer := 1, act := 0 }
def cellPost : State := { unit (h := fun t => { t with intake := [post1, post0] }) with arg := { n := 255 } }
def cellSample : State := { unit (fun u => { u with samples := [(3, .thread 0 0 2)] }) (f := one (.sample 3 1 5 14 7)) with arg := { n := 3 } }
def cellBar (round : Nat) (a b : V256) : State :=
  unit (fun u => { u with bar := some ⟨1, round, [5]⟩, chans := [(5, { run := some { q := ⟨0, 0, 9, 0, 0, 0⟩ } })] })
    [(253, { value := b }), (254, { value := a })] (f := one (.bar 3 1))
def cellProbe (v : V256) : State := unit (fun u => { u with probes := [(5, 2)] }) [(255, { value := v })]

/-- A request for cell 3 of tile 0, from a tile, in a launch that exports its cells or not. -/
def cellAsked (from_ : Nat) (expo : BitVec 16) : State := { unit (expo := expo) with arg := { n := 3, m := from_, w := 6, ok := false } }

/-- CellSteps: two posts to one cell; a sample; a barrier of two rounds before its token, between its tokens and at its last; a
copy.bar that waits; the probe back at its initiator and on its way. -/
theorem witness_CellSteps :
    let reached (s : State) (k : Nat) : Bool := decide ((((s.tile 0).cell (254 - k)).value.setWidth 32 - 1 : W32).toNat < 2 ^ 31)
    ((cellPost.tile 0).nextPost 255 = some post0) ∧
      ((cellSample.tile 0).copy.samples.get? 3 = some (.thread 0 0 2) ∧ cellSample.th.outst.map (·.cond) = [.sample 3 1 5 14 7]) ∧
      ((cellBar 0 0 0).launch 0).rounds = 2 ∧ (((cellBar 0 0 0).tile 0).copy.bar = some ⟨1, 0, [5]⟩ ∧ reached (cellBar 0 0 0) 0 = false) ∧
      (reached (cellBar 0 1 0) 0 = true ∧ reached (cellBar 0 1 0) 1 = false) ∧
      (((cellBar 1 1 1).tile 0).copy.bar = some ⟨1, 1, [5]⟩ ∧ reached (cellBar 1 1 1) 1 = true ∧ (cellBar 1 1 1).th.outst.map (·.cond) = [.bar 3 1]) ∧
      (((cellBar 0 0 0).tile 0).copy.chans.getD 5 {}).run.map (·.q.id) = some 9 ∧
      (((cellProbe 2).tile 0).cell 255).value.extractLsb' 48 16 = 0 ∧ ((cellProbe 2).tile 0).copy.probes = [(5, 2)] ∧
      ((((cellProbe (2 + 2 ^ 48)).tile 0).cell 255).value.extractLsb' 48 16).toNat ≠ 0 ∧
      ((cellProbe 2).launch 0).tileAt ((((cellProbe 2).launch 0).order 0 + 1) % ((cellProbe 2).launch 0).size) = 1 ∧
      ((cellProbe 2).part 0).hasTile 1 = true := by decide +kernel

/-- CellSteps: requests of the own tile and of another, of cells that are exported and are not. -/
theorem witness_CellSteps_ask :
    (cellAsked 0 0).arg.m = 0 ∧ (cellAsked 0 0).cur.tile = 0 ∧ (cellAsked 1 0).arg.m = 1 ∧ (cellAsked 1 0).cur.tile = 0 ∧
      ((cellAsked 1 0x200).arg.ok || ((cellAsked 1 0x200).launch 0).expo.getLsbD 9) = true ∧
      ((cellAsked 1 0).arg.ok || ((cellAsked 1 0).launch 0).expo.getLsbD 9) = false := by decide +kernel

def flitTo (dst : Nat) (m : FlitMsg) (age : Nat := 0) : Flit := 
  { age := age, cls := 0, dst := dst, part := 0, slot := 0, epoch := 0, src := 1, ref := 5, msg := m }
def hopping (f : Flit) (ok : Bool := true) : State := { mk with hops := [⟨0, false, 4, 0, f⟩], arg := { ok := ok } }
def injecting (f : Flit) : State := unit fun u => { u with inj := [{ flit := f }] }
def entering (f : Flit) (expo : BitVec 16 := 0) : State := unit (fun u => { u with ingress := [f] }) (expo := expo)
/-- A flit can leave tile 0 by a productive port. -/
def canLeave (s : State) (dst : Nat) : Bool :=
  ([0, 1, 2, 3] : List Nat).any fun q => (s.part 0).productive 0 dst q && ((s.part 0).neighbour 0 q).isSome

/-- FabricSteps: flits that have arrived at their tile and elsewhere, and one that is lost; injections of both; flits that
enter, of each kind and at the last age but one and the last, tagged for this context and for another. -/
theorem witness_FabricSteps :
    (∀ f ∈ [flitTo 0 (.readReq 0 4), flitTo 1 (.ack 0)], ∀ ok ∈ [true, false], (hopping f ok).hops.map (fun h => (h.tile, h.cache, h.at_)) = [(0, false, 0)] ∧
      (hopping f ok).routers = [] ∧ decide ((hopping f ok).arg.n = 1) = false ∧ (hopping f ok).arg.m = 0) ∧
      (flitTo 0 (.gateAck 0 0)).toGate = true ∧ (hopping (flitTo 0 (.gateAck 0 0))).hops.map (·.cache) = [false] ∧ (flitTo 0 (.readReq 0 4)).toGate = false ∧
      canLeave mk 1 = true ∧ canLeave mk (19 * 32) = true ∧ ((injecting (flitTo 0 .reserved)).tile 0).copy.inj.map (·.flit.dst) = [0] ∧
      ((injecting (flitTo 1 .reserved)).tile 0).copy.inj.map (·.flit.dst) = [1] ∧
      (∀ f ∈ [flitTo 0 .reserved 0xFFFF, flitTo 0 (.ack 0) 0xFFFF, flitTo 0 (.post 3 7 0 true) 0xFFFE, flitTo 0 (.post 3 7 0 false),
          flitTo 0 (.chanReg 63 7)],
        ((entering f).tile 0).copy.ingress = f :: [] ∧ ((entering f).launch 0).part = f.part ∧ ((entering f).launch 0).ctx % 16 = f.slot ∧
          ((entering f).ctx 0 0).epoch.toNat % 16 = f.epoch) ∧
      ((entering { flitTo 0 (.post 3 7 0 true) with epoch := 1 }).ctx 0 0).epoch.toNat % 16 ≠ 1 ∧
      ((entering (flitTo 0 .reserved) 0x200).launch 0).expo.getLsbD 9 = true := by decide +kernel

/-- Keys k to k + n - 1. -/
def upTo (k : Nat) : Nat → KMap Nat
  | 0 => []
  | n + 1 => (k, k) :: upTo (k + 1) n

theorem upTo_has (k n i : Nat) (h : k ≤ i) (h' : i < k + n) : (upTo k n).has i = true := by
  induction n generalizing k with
  | zero => omega
  | succ n ih =>
    unfold upTo KMap.has KMap.get?
    split
    · rfl
    · rw [if_neg (by omega)]
      exact ih (k + 1) (by omega) (by omega)

/-- FabricSteps: a flit that asks, with the last reference free and with none. -/
theorem witness_FabricSteps_refs :
    let used (k : Nat) : State := unit fun u => { u with
      inj := [{ flit := flitTo 1 (.sampleReq 3 true) }], refs := upTo 0 k }
    (∀ k ∈ [0, 511, 512], ((used k).tile 0).copy.inj.map (·.flit) = [flitTo 1 (.sampleReq 3 true)] ∧ (used k).routers = []) ∧
      (flitTo 1 (.sampleReq 3 true)).msg.asks = true ∧ (flitTo 1 (.ack 0)).msg.asks = false ∧
      ((used 511).tile 0).copy.refs.has 511 = false ∧ ((used 512).tile 0).copy.refs = upTo 0 512 := by
  decide +kernel

/-- FabricSteps: a line of a multicast before its head; after it, at windows that are open, revoked and not exported. -/
theorem witness_FabricSteps_mcast :
    let f := flitTo 0 (.mcastData 31 3 7)
    let m : McIn := { port := 1, num := 31, part := 0, slot := 0, epoch := 0, head := some (4, 2, lma 0x3_FF00, cmdSrc 1 1 0 9) }
    let s (mc : List McIn) (rev : Nat) (expo : BitVec 16) : State :=
      (unit (fun u => { u with ingress := [f], mcin := mc }) (expo := expo)).modPart 0 fun p => { p with windows := [(2, fields 128 [(97, rev)])] }
    (∀ x ∈ [s [] 0 1, s [m] 0 1, s [m] 1 1, s [m] 0 0], (x.tile 0).copy.ingress = f :: [] ∧ (x.launch 0).part = f.part ∧
      (x.launch 0).ctx % 16 = f.slot ∧ (x.ctx 0 0).epoch.toNat % 16 = f.epoch) ∧ f.age < 0xFFFF ∧ m.port = f.src ∧ m.early = [] ∧
      ((s [m] 1 1).part 0).windows.get? 2 = some (fields 128 [(97, 1)]) ∧ (fields 128 [(97, 1)]).getLsbD 97 = true ∧
      ((s [m] 0 1).launch 0).expo.getLsbD 0 = true ∧ ((s [m] 0 0).launch 0).expo.getLsbD 0 = false ∧
      mineB (s [m] 0 1) (lma 0x3_FF00) (64 * 3 + 64) = true ∧ amOff (lma 0x3_FF00) % 4 = 0 := by decide +kernel

def missing (w : MissFor) (run : Option ChanRun := none) (arg : Args := { n := 4 }) : State :=
  { unit (fun u => { u with chans := [(63, { run := run })] }) (h := fun t => { t with misses := [{ tag := 4, what := w, va := 64 }] }) with arg := arg }
def accepting (f : Flit) (expo : BitVec 16) : State := unit (fun u => { u with accepted := [f] }) (expo := expo)
def run9 : ChanRun := { q := ⟨0, 0, 9, 0, 0, 0⟩, wait := true }
def acked : State := { (unit fun u => { u with acks := [(3, .post 7), (4, .post 7)] }) with arg := { n := 4, m := 1 } }
def readFlit : Flit := flitTo 0 (.readReq (lma 0x3_FFF8) 8)

/-- ReplySteps: a read of the last bytes of local memory, exported and not; a line that a core asked for; a channel's source,
good and failed; an acknowledgement of a post, done and refused, and one of nothing. -/
theorem witness_ReplySteps :
    ((accepting readFlit 0).tile 0).copy.accepted = readFlit :: [] ∧ ((accepting readFlit 1).tile 0).copy.accepted = readFlit :: [] ∧
      (accepting readFlit 0).lmBad 0 0 0x3_FFF8 8 = false ∧ (accepting readFlit 1).lmBad 0 0 0x3_FFF8 8 = false ∧ isGlobal (lma 0x3_FFF8) = false ∧
      isTileMap (lma 0x3_FFF8) = true ∧ amFormOk (lma 0x3_FFF8) = true ∧ amTile (lma 0x3_FFF8) = 0 ∧ amKind (lma 0x3_FFF8) = 0 ∧
      amCore (lma 0x3_FFF8) = 0 ∧ amOff (lma 0x3_FFF8) + 8 ≤ 0x4_0000 ∧
      (((missing (.line 1 0 false)).tile 0).misses.map (fun m => (m.tag, m.what, m.own)) = [(4, .line 1 0 false, false)] ∧
        ((missing (.line 1 0 false)).core 0 0).lineGet? 1 = none ∧ (((missing (.line 1 0 false)).core 0 0).lines.getD (1 / 8 % 64) []).length < 8) ∧
      (((missing (.chan 63 8) (some run9)).tile 0).misses.map (·.what) = [.chan 63 8] ∧
        (((missing (.chan 63 8) (some run9)).tile 0).copy.chans.getD 63 {}).run = some run9) ∧
      (acked.tile 0).copy.acks.get? acked.arg.n = some (.post 7) ∧ (acked.tile 0).copy.acks.get? 5 = none ∧
      ((acked.tile 0).copy.acks.filter fun a => a.2 == .post 7).length = 2 := by
  decide +kernel

/-- A transfer of 130 bytes from tile 1 to local memory of core 0 of tile 0. -/
def req0 : Req := ⟨1, 5, 9, lma 0x3_FF00, 130, 0, 3, 2, 77, .pull⟩
def pulling (u : CopyUnit → CopyUnit) (expo : BitVec 16 := 1) (arg : Args := {}) : State := { unit u (expo := expo) with arg := arg }
def asked (reqs : KMap ReqEnt := []) (expo : BitVec 16 := 1) : State :=
  pulling (fun u => { u with accepted := [flitTo 0 (.req req0)], reqs := reqs }) expo
/-- A request table with no room. -/
def fullTable : KMap ReqEnt := (List.range 256).map fun e => (e, { req := { req0 with xid := 1 } })
def granted (tlen : Nat := 3) (tmap : BitVec 8 := 0) (miss : Nat := 0) : ReqEnt := { req := req0, gseq := 1, tlen := tlen, tmap := tmap, miss := miss, stamp := 4 }
def prefixed (pool : List (Nat × Nat × Nat × BitVec 512 × Nat)) (age : Nat) : State :=
  pulling fun u => { u with accepted := [flitTo 0 (.pfx 3 1 7) age], pool := pool }
def pool64 : List (Nat × Nat × Nat × BitVec 512 × Nat) := (List.range 64).map fun i => (2, i, 0, 0, 9)

/-- PullReceives: a first request, one that meets its own entry, one to a launch that does not export local memory, one at a full
table; an entry without a token, with the window empty and with one flit left in it; the first flit of a token and one that has come
before; prefix flits of the last age but one and the last, with an empty and a full pool; one that expires; tokens that expire. -/
theorem witness_PullReceives :
    (∀ e : BitVec 16, (asked [] e).cur.tile = 0 ∧ ((asked [] e).tile 0).copy.accepted = flitTo 0 (.req req0) :: []) ∧ req0.src ≠ 0 ∧
      ((asked).part 0).hasTile req0.src = true ∧ req0.cls < 4 ∧ ((asked).tile 0).launch.isSome ∧ isTileMap req0.dest = true ∧
      amFormOk req0.dest = true ∧ amKind req0.dest = 0 ∧ amOff req0.dest + req0.len ≤ 0x4_0000 ∧ amTile req0.dest = 0 ∧
      ((asked).launch 0).expo.getLsbD 0 = true ∧ ((asked [] 0).launch 0).expo.getLsbD 0 = false ∧
      ((asked [(255, { req := req0, miss := 2 })]).tile 0).copy.reqs = [(255, { req := req0, miss := 2 })] ∧
      (((asked fullTable).tile 0).copy.reqs.all fun e => !(e.2.req.src == req0.src && e.2.req.chan == req0.chan && e.2.req.xid == req0.xid)) = true ∧
      ((List.range 256).all fun e => ((asked fullTable).tile 0).copy.reqs.has e) = true ∧
      (granted 0).posted = false ∧ (granted 0).next < req0.len ∧ min 8 (min (16 - 0) ((req0.len - 0 + 63) / 64)) = 3 ∧ min 8 (min (16 - 15) ((req0.len - 0 + 63) / 64)) = 1 ∧
      (granted 3 1).tmap.getLsbD 0 = true ∧ (2 : Nat) < (granted 3).tlen ∧ 0 + 64 * 2 < req0.len ∧
      mk.lmBad 0 0 (0x3_FF00 + 64 * 2) 2 = false ∧ amCore req0.dest = 0 ∧ (mk.core 0 0).lm.wf = true ∧
      64 ≤ ((prefixed pool64 0xFF).tile 0).copy.pool.length ∧ ((prefixed [] 0x100).tile 0).copy.accepted = flitTo 0 (.pfx 3 1 7) 0x100 :: [] ∧
      ((pulling fun u => { u with pool := [(1, 3, 1, 7, 9)] }).tile 0).copy.pool = [(1, 3, 1, 7, 9)] ∧
      ((pulling fun u => { u with reqs := [(255, granted 3 1 2)], g := 3 }).tile 0).copy.reqs = [(255, granted 3 1 2)] := by
  refine ⟨fun e => ⟨rfl, rfl⟩, ?_⟩
  decide +kernel

/-- PullReceives: the last flit of a transfer; acknowledgements of a TOKEN and of DONE, and one of an earlier entry; a prefix of a
refused request. -/
theorem witness_PullReceives_ends :
    (granted 1).done = false ∧ (granted 1).gseq ≠ 0 ∧ ({ granted 1 with next := 66 } : ReqEnt).req.len ≤ 66 + 64 ∧ isGlobal req0.dest = false ∧ req0.pfx = 0 ∧
      ((asked).tile 0).copy.reqs = [] ∧ ((asked).tile 0).copy.pool = [] ∧
      (∀ d : Bool, let s := pulling (fun u => { u with acks := [(6, .grant 255 4)], reqs := [(255, { granted 0 with posted := true, done := d })] }) 1 { n := 6 }
        (s.tile 0).copy.acks.get? s.arg.n = some (.grant 255 4) ∧ (s.tile 0).copy.reqs = [(255, { granted 0 with posted := true, done := d })]) ∧
      (granted 0).stamp = 4 ∧ ({ granted 0 with stamp := 5 } : ReqEnt).stamp ≠ 4 ∧ (granted 0).next < (granted 0).req.len ∧
      (let s := (prefixed [] 0xFF).modTile 0 fun t => { t with copy := { t.copy with refused := [(1, 3, 0)] } }
       (s.tile 0).copy.accepted = flitTo 0 (.pfx 3 1 7) 0xFF :: [] ∧ ((flitTo 0 (.pfx 3 1 7) 0xFF).src, 3, s.clock) ∈ (s.tile 0).copy.refused ∧
        (s.tile 0).copy.reqs = []) ∧ ((prefixed [] 0xFF).tile 0).copy.refused = [] := by decide +kernel

/-- PullReceives: data flits of a live token, of another grant number, past it, of no entry and of one without a token; prefix flits of
token 0 and after it; a token 0 that expires, and one granted that does. -/
theorem witness_PullReceives_flits :
    let x (tlen : Nat) (tmap : BitVec 8) (next : Nat := 0) (pre : Bool := false) (pfx : Nat := 0) : ReqEnt :=
      { granted tlen tmap 1 with next := next, pre := pre, req := { req0 with pfx := pfx } }
    let s (f : FlitMsg) (y : ReqEnt) (arg : Args := {}) := pulling (fun u => { u with accepted := [flitTo 0 f], reqs := [(255, y)] }) 1 arg
    let d (g ix : Nat) := FlitMsg.data 255 g ix 7
    (∀ y ∈ [x 3 0, x 3 1, x 3 5, x 1 0 66, x 0 0], ((s (d 1 0) y).tile 0).copy.accepted = flitTo 0 (d 1 0) :: [] ∧
      ((s (d 1 0) y).tile 0).copy.reqs = [(255, y)] ∧ ((s (d 1 0) y).tile 0).copy.late = []) ∧
      (x 3 0).tlen ≤ 8 ∧ (x 3 0).next + 64 * 2 < (x 3 0).req.len ∧ (x 3 5).tmap.getLsbD 1 = false ∧ (x 3 0).gseq % 16 = 1 % 16 ∧
      (x 3 0).gseq % 16 ≠ 2 % 16 ∧ (x 3 0).tlen ≤ 3 ∧ (x 0 0).tlen = 0 ∧
      (x 1 0 66).tmap = 0 ∧ (x 1 0 66).tlen = 1 ∧ (x 1 0 66).posted = false ∧ (x 1 0 66).done = false ∧
      (x 1 0 66).req.len ≤ (x 1 0 66).next + 64 ∧ (x 1 0 66).next < (x 1 0 66).req.len ∧
      (x 3 0 0 true 3).req.src = (flitTo 0 (.pfx 3 1 7)).src ∧ (x 3 0 0 true 3).req.tag = 3 ∧ (x 3 0 0 true 3).req.pfx ≠ 0 ∧
      (x 3 0 0 true 3).pre = true ∧ (x 3 0 0 false 3).pre = false ∧ mk.clock < (x 3 0 0 false 3).came + 2 ^ 15 ∧
      (s (.pfx 3 1 7) (x 3 0 0 true 3) { n := 255, m := 1, w := 4 }).arg.n = 255 ∧ (x 3 0 0 true 3).stamp = (4 : Word).toNat ∧
      (x 3 0 0 true 3).gseq = 1 ∧ (x 3 0 0 true 3).miss < 3 ∧ (x 3 0).miss < 2 ∧ (x 3 1).next + 64 < (x 3 1).req.len ∧
      2 ≤ (granted 3 0 2).miss := by decide +kernel

def pull0 : Pull := { req := { req0 with src := 0, dest := amAddr 1 0 0 0 }, dst := 1, ask := false, seen := 3, changed := 1 }
/-- A copy.pull of 130 bytes on channel 5. -/
def pullCmd : Instr := .copyPull ⟨0, 5, 0, 0⟩ (fields 192 [(0, (lma 0x3_FF00).toNat), (64, (amAddr 1 0 0 0).toNat), (128, 130), (160, 77)])
def run0 (p : Pull := pull0) : ChanRun := { q := ⟨(encodeTWord pullCmd).getD 0, 0, 9, 0, 0, 0⟩, pull := some p }
/-- A machine whose channel 5 has a transfer to tile 1, with its grant cell and the time. -/
def sending (count : W32) (v : V256) (now : Nat := 1) (m : Nat := 9) : State :=
  { unit (fun u => { u with chans := [(5, { run := some (run0) })] }) [(77, { value := v, count := count })] with
    arg := { n := 5, m := m }, decks := Vector.replicate 8 { tcyc := now } }
/-- A token of channel 5: kind, offset, length, entry, sequence number, status. -/
def tok (kind : Nat) (xid : Nat := 9) : V256 := fields 256 [(16, 5), (24, kind), (32, xid), (64, 64), (96, 66), (112, 255), (192, 1), (224, 8)]

/-- PullSends: the last bytes of a token, read and sent. -/
theorem witness_PullSends_send :
    let x : Send := { next := 128, stop := 130, ix := 1, tok := some (255, 1) }
    let s := (sending 3 0).modTile 0 fun t => { t with copy := { t.copy with chans := [(5, { run := some (run0 { pull0 with send := some x }) })] } }
    let a : Word := lma 0x3_FF00 + BitVec.ofNat 64 (0 + 128)
    ((s.tile 0).copy.chans.getD 5 {}).run = some { q := run0.q, pull := some { pull0 with send := some x } } ∧ pull0.ask = false ∧
      x.next < x.stop ∧ x.stop - x.next ≤ 64 ∧ a.toNat % 64 + 2 ≤ 64 ∧ isGlobal a = false ∧ isTileMap a = true ∧ amFormOk a = true ∧
      amTile a = 0 ∧ amKind a = 0 ∧ amOff a + 2 ≤ 0x4_0000 ∧ s.lmBad 0 (amCore a) (amOff a) 2 = false ∧ ((s.tile 0).copy.buffer 5).isSome = true := by
  decide +kernel

/-- PullSends: a cell that has not changed, one whose token is another's, a TOKEN, a RETRY and a DONE; a resend; a cell silent for
65,535 and 65,536 cycles; another command. -/
theorem witness_PullSends :
    (((sending 3 0).tile 0).copy.chans.getD 5 {}).run = some (run0) ∧ (run0).pull = some pull0 ∧
      (decodeTWord (run0).q.word).toOption = some pullCmd ∧ ((sending 3 0).tile 0).frozen = false ∧ (((sending 3 0).tile 0).copy.chans.getD 5 {}).fpend = none ∧
      pull0.req.kind = .pull ∧
      ((sending 3 0).tile 0).cell 77 = { value := 0, count := 3 } ∧ (4 : W32) ≠ pull0.seen ∧
      ((tok 1).extractLsb' 16 6).toNat = 5 ∧ (tok 1).extractLsb' 32 32 = pull0.req.xid ∧ (tok 1 8).extractLsb' 32 32 ≠ pull0.req.xid ∧
      (tok 1).extractLsb' 24 8 = 1 ∧ (tok 2).extractLsb' 24 8 = 2 ∧ (tok 3).extractLsb' 24 8 = 3 ∧ (run0).q.id = (sending 3 0).arg.m ∧
      (run0).q.id ≠ (sending 3 0 1 8).arg.m ∧ (sending 3 0 65536).now 0 - pull0.changed < 65536 ∧
      65536 ≤ (sending 3 0 65537).now 0 - pull0.changed := by decide +kernel

def gflit (sent : Bool := false) (lseq : Nat := 0) : GwFlit := 
  { part := 64, lane := 3, slot := 0, epoch := 0, smod := 0, dmod := 1, cls := 2, age := 9, msg := .ack 4 7, lseq := lseq, sent := sent }
/-- A machine with one link, and the step operands for it. -/
def linked (l : Link) (arg : Args := {}) (p : Part → Part := id) (me : Nat := 0) : State := { mk (p := p) with gw := { links := [(23, l)], me := me }, arg := { arg with n := 23 } }
/-- A frame: module of destination and origin, lane, slot and epoch, number; and the header of its flit, of a kind. -/
def framing (dmod : Nat) : BitVec 512 := fields 512 [(0, dmod), (9, 7), (28, 0xFFFF), (44, 0), (48, 5), (80, 0xFFFF)]
def header (kind : Nat) : BitVec 512 := fields 512 [(43, kind), (46, 3), (48, 0xFFFE)]

/-- LinkSteps: the last sequence number; a replay of a flit and of a purged one; an acknowledgement; frames with a bad CRC, empty,
for another module, and for this one with a live context, with a lane of no partition, and without an ingress buffer. -/
theorem witness_LinkSteps :
    let a (arg : Args) : State := linked { next := 0xFFFF } arg (fun p => { p with lane := some 0xFFFF, ctxs := [(0, { state := 2, epoch := 5 })] }) 0
    (let l : Link := { egress := [gflit], next := 0xFFFF }
     ((linked l).gw.links.getD (linked l).arg.n {}) = l ∧ gflit.sent = false ∧ gflit.part ≤ 64) ∧
      (let l : Link := { egress := [gflit true 0xFFFF], again := [0xFFFF] }
       ((linked l).gw.links.getD 23 {}) = l) ∧
      (let l : Link := { again := [0, 1], purged := [0] }
       ((linked l).gw.links.getD 23 {}) = l ∧ l.egress = [] ∧ (0 : Nat) ∈ l.purged) ∧
      (linked {}).gw.wait = [] ∧ (a {}).gw.arrived = [] ∧ (a {}).ingressRoom 23 64 = true ∧ (a {}).ingressRoom 23 0 = true ∧
      (let s : State := { (mk (p := fun p => { p with shares := [(23, 896)] })) with gw := { wait := List.replicate 128 (0, some 23, gflit) }, arg := { n := 23 } }
       s.ingressRoom 23 64 = false ∧ (511 : Nat) ≠ s.gw.me) ∧
      (mk.parts.all fun p => p.2.lane != some ((framing 0).extractLsb' 28 16).toNat) = true ∧
      ((0x200 : Word).extractLsb' 0 22).toNat % 512 = 0 ∧ ((0x3FF : Word).extractLsb' 0 22).toNat % 512 ≠ 0 ∧
      ((header 0).extractLsb' 43 3).toNat = 0 ∧ ((header 2).extractLsb' 43 3).toNat ≠ 0 ∧ ((header 7).extractLsb' 43 3).toNat = 7 ∧
      ((framing 511).extractLsb' 0 9).toNat = 511 ∧ ((framing 0).extractLsb' 0 9).toNat = (a {}).gw.me ∧ towards 0 511 = some 1 ∧ towards 0 4 = some 0 ∧
      (a {}).linkRoom (4 * 1) 64 = true ∧ (a {}).parts.map (fun x => (x.1, x.2.lane)) = [(0, some ((framing 0).extractLsb' 28 16).toNat)] ∧
      ((a {}).ctx 0 ((framing 0).extractLsb' 44 4).toNat).epoch.toNat = ((framing 0).extractLsb' 48 32).toNat := by decide +kernel

/-- LinkSteps: a frame for this module of data, of an acknowledgement of which nothing or the other half has come, and of a copy's head. -/
theorem witness_LinkSteps_here :
    let s (h : KMap (Option (BitVec 512) × Option (BitVec 512))) : State :=
      { linked {} { w := fields 64 [(0, 8 * 65), (43, 6), (46, 3)], e := framing 0 } (fun p => { p with lane := some 0xFFFF, ctxs := [(0, { state := 2, epoch := 5 })] }) with
        gw := { links := [(23, {})], nums := [(65, 4)], half := h } }
    let c := ((s []).part 0).ctx ((framing 0).extractLsb' 44 4).toNat
    (∀ h ∈ [[], [(4, (none, some 7))]], (s h).ingressRoom 23 0 = true ∧ (s h).gw.nums.get? (((s h).arg.w.extractLsb' 0 22).toNat / 8) = some 4) ∧
      ((s []).arg.w.extractLsb' 0 22).toNat % 8 = 0 ∧ (s []).gw.half.getD 4 (none, none) = (none, none) ∧
      (s [(4, (none, some 7))]).gw.half.getD 4 (none, none) = (none, some 7) ∧ c.epoch.toNat = ((framing 0).extractLsb' 48 32).toNat ∧ c.state = 2 ∧
      ((header 4).extractLsb' 43 3).toNat = 4 ∧ ((header 6).extractLsb' 43 3).toNat = 6 ∧ (s []).gw.arrived = [] := by decide +kernel

/-- A multicast copy, and a machine at a module, whose group 0 has the members of `bits`; a node that waits for `kids`. -/
def copy0 (stale : Bool := false) : McCopy := { part := 0, slot := 0, epoch := 0, cls := 0, src := 511, group := 0, offset := 0, count := some 1, lines := [(0, 1, 0)], tile := 0, chan := 5, xid := 9, stale := stale }
def grouped (me : Nat) (bits : Memory) (arrived : List McCopy) (kids : List (Nat × List Nat)) (arg : Args := { n := 8 }) : State :=
  { mk (p := fun p => { p with hbm := bits }) with
    gw := { me := me, arrived := arrived, nodes := if kids.isEmpty then [] else [{ id := 3, copy := copy0, kids := kids, succ := 2, fail := 1 }], nextRef := 8 }
    arg := arg }

/-- MulticastSteps: a stale copy at the last module, a copy for one member elsewhere; a node whose last wait ends, one that waits for
two, one that waits for another. -/
theorem witness_MulticastSteps :
    ((grouped 511 [(63, 0x80)] [copy0 true] []).groupMembers 0 0 0 = [511] ∧ (grouped 511 [(63, 0x80)] [copy0 true] []).gw.arrived = [copy0 true] ∧
        (copy0 true).link = none ∧ (grouped 511 [(63, 0x80)] [copy0 true] []).gw.canAct (copy0 true) = true ∧ (grouped 511 [(63, 0x80)] [copy0 true] []).sourceRuns (copy0 true) = true ∧
        (copy0 true).part ≠ 64) ∧
      ((grouped 0 [(0, 0x10)] [copy0] []).groupMembers 0 0 0 = [4] ∧ copiesFrom 0 (copy0).src none [4] = [(0, [4])] ∧
        (grouped 0 [(0, 0x10)] [copy0] []).linkRoom 0 0 = true ∧
        0 + (copy0).lines.length < ({ (grouped 0 [] [] []).part 0 with shares := [(0, 2)] } : Part).shares.getD (4 * 0) 0) ∧
      (let y : McCopy := { copy0 with link := some 4, smod := 3, src := 1 }
       let s := grouped 0 [(0, 0x80)] [y] []
       y.link = some 4 ∧ s.gw.canAct y = true ∧ s.groupMembers 0 0 0 = [7] ∧ (0 : Nat) ∉ ([7] : List Nat) ∧
        copiesFrom 0 y.src (some (Nat.xor (4 / 4) 1)) [7] = [] ∧ copiesFrom 0 6 (some 0) [2] = [(Nat.xor (7 / 4) 1, [2])]) ∧
      (grouped 0 [(0, 0x10)] [] [(8, [4])]).gw.nodes.map (fun n => (n.copy, n.kids, n.pairs)) = [(copy0, [((grouped 0 [] [] []).arg.n, [4])], [])] ∧
      (grouped 0 [(0, 0x10)] [] [(8, [4]), (9, [3])]).gw.nodes.map (fun n => (n.copy, n.kids)) = [(copy0, [(8, [4]), (9, [3])])] ∧
      (grouped 0 [(0, 0x10)] [] [(9, [3])]).gw.nodes.all (fun n => n.kids.all fun k => k.1 != 8) = true := by decide +kernel

/-- MulticastSteps: a source that runs, one whose tile is being saved; a member's write that needs two answers; an acknowledgement and a
failure, and the result of a copy. -/
theorem witness_MulticastSteps_waits :
    let n : McNode := { id := 3, copy := copy0, kids := [(8, [0])], succ := 2, fail := 1 }
    let s (owed : Nat) (frozen : Bool) (arg : Args) : State :=
      { grouped 0 [(0, 0x11)] [] [] arg with gw := { me := 0, nodes := [{ n with owed := owed }] } }.modTile 0 fun t => { t with frozen := frozen }
    (∀ a ∈ ([{ n := 8 }, { n := 8, m := 5 }, { n := 8, ok := false, l := [2, 1, 0, 4, 0] }] : List Args),
      (s 1 false a).gw.nodes = [{ n with owed := 1 }] ∧ (s 1 false a).sourceRuns copy0 = true ∧ n.kids = [((s 1 false a).arg.n, [0])]) ∧
      n.pairs = [] ∧ n.why = 0 ∧ (s 1 true { n := 8 }).sourceRuns copy0 = false ∧ (s 2 false { n := 8 }).gw.nodes = [{ n with owed := 2 }] := by
  decide +kernel

/-- The lines of a job record (0x1000) with one phase (0x1040), one graph (0x1080) and one launch (0x1100) on tile 0, in their home
slice; the state of the job. -/
def records (st : Nat := 0) : KMap (List SLine) :=
  let line (pl : Nat) (data : Nat) : Nat × List SLine := (pl, [{ pl := pl, way := 0, ctx := 0, data := BitVec.ofNat 512 data, dirty := true }])
  [line 0x40 (0x40000000100000000000012000000000000000001 + st * 2 ^ 168),
    line 0x41 0x1000000000030000000100000000000012080000000000000001,
    line 0x42 0x1040000000020000000100000000000012100000000000000001,
    line 0x44 0x30D40000186A001010000000000000000000000000000000000000000000000000001,
    line 0x45 0x1080000000000000000000000000000000020000000000001300000000000000000000000000000000000000000000000000,
    line 0x48 0x110000000000000010800000000000001040,
    line 0x4C 0x807]
/-- A partition whose context 0 has those records, with a command in its job cell (record, sequence, command, level), and page
tables, at 0x10000 and 0x20000, that map the first gigabyte to itself. -/
def booked (jobs : List Job) (a seq cmd lvl : Nat) (st : Nat := 0) (ready : List Ready := []) : State :=
  let c : Ctx := { state := 1, root := 0x10001, jobCell := { value := fields 256 [(0, a), (64, seq), (128, cmd), (136, lvl)] } }
  { parts := [(0, { sc0 := 0, sr0 := 0, sc1 := 0, sr1 := 0, jobs := jobs, ready := ready, ctxs := [(0, c)] })]
    tiles := [(0, { slice := records st }), (1, { slice := [(256, [{ pl := 0x400, way := 0, ctx := 0, data := 0x20001, dirty := true }])] }),
      (2, { slice := [(128, [{ pl := 0x800, way := 0, ctx := 0, data := 0xF, dirty := true }])] })] }

/-- JobSteps: a post; a sequence that is due and one that is not; a job accepted as the 64th, one that must wait, a bad record, a
lost strip, a command without meaning; cancels of a job and of its launch, at the levels 0 and 5 and without a job; a resumption of a
held job and of one that runs; a job that starts; a launch that takes its tile. -/
theorem witness_JobSteps :
    let a := 0x1000
    let jobs (n : Nat) : List Job := List.replicate n ⟨0x2000, 0, false⟩
    let due (s : State) : Bool := decide (((s.ctx 0 0).jobCell.value.extractLsb' 64 64) = (s.ctx 0 0).echo.value.extractLsb' 0 64 + 1)
    let cmd (s : State) : Nat := ((s.ctx 0 0).jobCell.value.extractLsb' 128 8).toNat
    let job (cmd lvl st : Nat) : State := booked [⟨a, 0, true⟩] a 1 cmd lvl st
    (booked [] a 1 1 0).ofVf 0 = some (0, 0) ∧ due (booked [] a 2 1 0) = false ∧ due (booked (jobs 63) a 1 1 0) = true ∧ cmd (booked [] a 1 1 0) = 1 ∧
      (booked (jobs 63) a 1 1 0).partDown 0 = false ∧ (booked (jobs 63) a 1 1 0).jobOk ⟨0, 0⟩ a = true ∧ (booked (jobs 64) a 1 1 0).jobOk ⟨0, 0⟩ a = true ∧
      ((booked (jobs 63) a 1 1 0).part 0).jobs.length = 63 ∧ ((booked (jobs 64) a 1 1 0).part 0).jobs.length = 64 ∧
      (booked [] 0x1040 1 1 0).jobOk ⟨0, 0⟩ 0x1040 = false ∧ ({ booked [] a 1 1 0 with md := { unavail := 1 } } : State).partDown 0 = true ∧
      cmd (booked [] a 1 255 0) = 255 ∧ (job 2 4 3).jobNaming ⟨0, 0⟩ 4 a = some (⟨a, 0, true⟩, a) ∧ (job 2 1 3).jobNaming ⟨0, 0⟩ 1 0x1100 = some (⟨a, 0, true⟩, 0x1100) ∧ cmd (job 2 0 3) = 2 ∧
      ((booked [] a 1 2 5).ctx 0 0).jobCell.value.extractLsb' 136 8 = 5 ∧ (job 3 0 4).recState ⟨0, 0⟩ 4 a = 4 ∧ (job 3 0 3).recState ⟨0, 0⟩ 4 a ≠ 4 ∧
      ((booked [⟨a, 0, false⟩] a 1 1 0).part 0).jobs = ⟨a, 0, false⟩ :: [] ∧ ((booked [] a 1 1 0).ctx 0 0).state ≠ 0x03 ∧ ((booked [] a 1 1 0).ctx 0 0).state ≠ 0x04 ∧
      ((booked [] a 1 1 0).ctx 0 0).stopping = false ∧
      (match (booked [] a 1 1 0 3 [⟨0x1100, 0, 3, 0⟩]).grantable 0 with
        | [.start q] => decide (q = ⟨0x1100, 0, 3, 0⟩)
        | _ => false) = true ∧ (booked [] a 1 1 0 3).recTiles ⟨0, 0⟩ 0x1100 = [0] := by decide +kernel

/-- A machine with a launch on tile 0, at a reference tick. -/
def ticking (l : Launch) (h : Tile → Tile) (clock : Nat := 0) (p : Part → Part := id) : State :=
  { mk (h := fun t => h { t with kperiod := 9 }) (l := l) (p := p) with clock := clock }

/-- ActivationSteps: a retired launch and a frozen tile; a tick that starts the last activation of two and one of a launch without a
limit; a missed tick; a tile that retires, at its limit and cancelled; a period inside its bound, at its edge and outside it; the end
of an activation; the watchdog at its limit and below it. -/
theorem witness_ActivationSteps :
    let l : Launch := { csize := 64, limit := 2, period := 1000, drift := 1000, entry := 8 }
    let ended (n : Word) (l : Launch) : State := (ticking l fun t => { t with actRuns := true, rootsLeft := 0, kact := n }).modThread r0 fun t => { t with st := .empty }
    ((ticking { l with retired := true } id).tile 0).launch = some { l with retired := true } ∧
      ((ticking l fun t => { t with frozen := true }).tile 0).frozen = true ∧
      (∀ n : Word, ((ticking l fun t => { t with kact := n }).tile 0).kact = n) ∧
      ((ticking l fun t => { t with kact := 1 }).tile 0).actRuns = false ∧ ((ticking l fun t => { t with kact := 1 }).tile 0).ticked = false ∧
      ((ticking l fun t => { t with kact := 1 }).tile 0).stopping = false ∧ ((ticking l fun t => { t with kact := 1 }).tile 0).kperiod.toNat ≠ 0 ∧
      (1 : Word).toNat < l.limit ∧ l.limit ≤ (2 : Word).toNat ∧
      (∀ k : W32, ((ticking l fun t => { t with actRuns := true, koverrun := k }).tile 0).koverrun = k) ∧
      (let m (n : Nat) : State := ticking l (fun t => { t with ticked := true, actRuns := true, lastTick := 5 }) n
       ((m 1006).tile 0).ticked = true ∧ ((m 1006).tile 0).actRuns = true ∧ l.period * (10 ^ 6 - l.drift) ≤ 10 ^ 6 * ((m 1004).clock - 5) ∧
        10 ^ 6 * ((m 1006).clock - 5) ≤ l.period * (10 ^ 6 + l.drift) ∧ ¬10 ^ 6 * ((m 1007).clock - 5) ≤ l.period * (10 ^ 6 + l.drift)) ∧
      ((ended 1 l).tile 0).actOver = true ∧ ((ended 2 l).tile 0).actOver = true ∧ ((ended 2 l).tile 0).frozen = false ∧ ((ended 2 l).tile 0).accs = [] ∧
      (let w (n : Nat) : State := ticking l (fun t => { t with watchdog := n }) 0 fun p => { p with hangLimit := 7 }
       ((w 7).part 0).hangLimit ≤ ((w 7).tile 0).watchdog ∧ ((w 6).tile 0).watchdog < ((w 6).part 0).hangLimit) := by
  refine ⟨by decide +kernel, by decide +kernel, fun n => rfl, by decide +kernel, by decide +kernel, by decide +kernel, by decide +kernel,
    by decide, by decide, fun k => rfl, ?_⟩
  decide +kernel

/-- ActivationSteps: an entry off a word boundary, one past the code segment, with a handler and without one; a tile that is being stopped,
with a period and without. -/
theorem witness_ActivationSteps_entry :
    let l (e : W32) (tv : Word) : Launch := { csize := 64, entry := e, tvec := tv }
    targetFault 64 ((l 2 0).entry.setWidth 64) = some .align ∧ targetFault 64 ((l 64 32).entry.setWidth 64) = some .prot ∧
      targetFault 64 ((l 60 0).entry.setWidth 64) = none ∧ (l 2 0).tvec &&& ~~~3 = 0 ∧ (l 64 32).tvec &&& ~~~3 ≠ 0 ∧
      ((ticking (l 2 0) fun t => { t with stopping := true }).tile 0).stopping = true ∧
      (((ticking (l 2 0) id).modTile 0 fun t => { t with kperiod := 0, stopping := true }).tile 0).kperiod = 0 ∧
      ((ticking (l 64 32) id).tile 0).actRuns = false := by decide +kernel

/-- A machine whose context 0 runs on tile 0; another context of its partition; the step operands. -/
def context (x : Ctx) (others : KMap Ctx := []) (frozen : Bool := false) (arg : Args := {}) (p : Part → Part := id) (clock : Nat := 0) : State :=
  { ((mk (p := fun q => p { q with ctxs := (0, x) :: others })).modTile 0 fun t => { t with frozen := frozen }) with arg := arg, clock := clock }

/-- ContextSteps: a quantum that was another's; one with READY work beside it, of each kind, and without; a pre-emption; a save of a
tile at work and of a quiet one; a restoration with a complete save area and without; epoch bumps with none to do, with a tag that was
never used, has rested for 2^23 ticks and for one less; fences of a context that runs, is saved and is neither. -/
theorem witness_ContextSteps :
    let run : Ctx := { state := 2, quanta := 3, quantum := 1 }
    let tag : Nat := 16 * (0 % 16) + (0 + 1 : W32).toNat % 16
    ((context run).ctx 0 0).quanta ≠ (2 : Word).toNat ∧ ((context run).ctx 0 0).state = 2 ∧ ((context run).ctx 0 0).quanta = (3 : Word).toNat ∧
      ((context run [(1, { state := 3 })]).ctx 0 1).state = 0x03 ∧ ((context run [(1, { state := 3 })]).part 0).ctxs.map (·.1) = [0, 1] ∧
      ((context run [(1, { state := 1 })] (p := fun p => { p with ready := [⟨64, 1, 0, 0⟩] })).part 0).ready.map (·.ctx) = [1] ∧
      ((context run [(1, { state := 1 })]).part 0).ready = [] ∧ ((context run [(1, { state := 1 })]).ctx 0 1).state ≠ 0x03 ∧
      ((context run).ctx 0 0).quantum ≠ 0 ∧ ((context run).ctx 0 0).stopping = false ∧
      (context { run with stopping := true }).ctxTiles ⟨0, 0⟩ = [0] ∧ ((context { run with stopping := true }).tile 0).quiet = false ∧
      ((context { run with stopping := true } [] true).tile 0).quiet = true ∧
      (context { run with stopping := true }).ctxQuiet ⟨0, 0⟩ = false ∧ (context { run with stopping := true } [] true).ctxQuiet ⟨0, 0⟩ = true ∧
      ((context { complete := false }).ctx 0 0).complete = false ∧
      (((context { state := 3, saved := [(5, {}, 0)] }).ctx 0 0).saved = [(5, {}, 0)] ∧ ((context { state := 3, saved := [(5, {}, 0)] }).tile 5).launch = none ∧
        ((context { state := 3, saved := [(5, {}, 0)] }).ctx 0 0).faults = [] ∧ ((context { state := 3, saved := [(5, {}, 0)] }).ctx 0 0).cuts = []) ∧
      ((context {}).ctx 0 0).bumps = 0 ∧ ((context { bumps := 1 }).part 0).ctags.get? tag = none ∧
      ((context { bumps := 1 } (p := fun p => { p with ctags := [(tag, 4)] })).part 0).ctags.get? tag = some 4 ∧
      4 + 2 ^ 23 ≤ (context { bumps := 1 } (clock := 4 + 2 ^ 23)).clock ∧ (context { bumps := 1 } (clock := 3 + 2 ^ 23)).clock < 4 + 2 ^ 23 ∧
      ((context { state := 3 }).ctx 0 0).state = 0x03 ∧ ((context { state := 1 }).ctx 0 0).state ≠ 0x02 ∧ ((context { state := 1 }).ctx 0 0).state ≠ 0x03 := by
  decide +kernel

/-- A module in READY or another state, with partition 0 on the strip 0 of the upper row, and step operands. -/
def readyModule (arg : Args) (parts : KMap Part := [(0, { sc0 := 0, sr0 := 0, sc1 := 0, sr1 := 0 })]) (md : Module := { state := 2 }) (keys : KMap KeySlot := []) : State :=
  { parts := parts, md := md, arg := arg, keys := keys }

/-- PartitionsAndKeys: creations of the last number on the last strips beside another partition, of a strip that is taken, of a number
that is out of range, and outside READY; resets and destructions of a partition and of none; a teardown of a function's context, of an
inactive one and of none. -/
theorem witness_PartitionSteps :
    (let s := readyModule { n := 63, l := [1, 0, 31, 1] }
     s.arg.n < 64 ∧ s.parts.has 63 = false ∧ s.md.state = 2 ∧ (s.parts.all fun q => decide (q.2.sc1 < 1)) = true) ∧
      (readyModule { n := 64, l := [1, 0, 31, 1] }).arg.n = 64 ∧ (readyModule { n := 1, l := [0, 0, 0, 0] }).parts.map (·.2.sc0) = [0] ∧
      (readyModule {} (md := {})).md.state ≠ 2 ∧ (readyModule {}).parts.has 0 = true ∧ (readyModule {}).parts.has 1 = false ∧
      (match (readyModule {}).parts with
        | [(0, _)] => true
        | _ => false) = true ∧ (readyModule {}).tiles = [] ∧
      (let x : Part := { sc0 := 0, sr0 := 0, sc1 := 0, sr1 := 0, ctxs := [(15, { state := 2, vf := 7 })] }
       (readyModule { n := 7 } [(63, x)]).parts = [(63, x)] ∧ x.ctxs.map (fun c => (c.2.vf, decide (c.2.state ≠ 0x00))) = [(7, true)]) ∧
      ((readyModule { n := 7 }).parts.all fun q => q.2.ctxs.isEmpty) = true := by decide +kernel

/-- A context with a function in a secured session, the key slot 63, and the operands of a key request for it. -/
def keyed (k : KeySlot) (e : BitVec 512) (slot : Nat := 63) (ok : Bool := true) (sessions : KSet := [(7, ())]) : State :=
  readyModule { n := 7, m := slot, w := 9, d := 3, e := e, ok := ok }
    [(2, { sc0 := 0, sr0 := 0, sc1 := 0, sr1 := 0, ctxs := [(5, { state := 1, vf := 7 })] })] { state := 2, sessions := sessions } [(63, k)]

/-- PartitionsAndKeys: key requests without a session, malformed, for the first slot that does not exist, for one that is zeroing, for
another's; of a free slot and an own one, with different halves and equal ones; a slot that has been zeroed. -/
theorem witness_KeySteps :
    let k (s : State) : KeySlot := s.keys.getD s.arg.m {}
    (keyed {} 4 63 true []).md.sessions.has 7 = false ∧ (keyed {} 4).md.sessions.has 7 = true ∧ (keyed {} 4).ofVf 7 = some (2, 5) ∧
      (keyed {} 4 63 false).arg.ok = false ∧ 63 < (keyed {} 4 64).arg.m ∧ (keyed {} 4).arg.m ≤ 63 ∧ (k (keyed { st := 2 } 4)).st = 2 ∧
      (k (keyed { st := 1 } 4)).st = 1 ∧ (k (keyed { st := 1 } 4)).part ≠ 2 ∧ (k (keyed {} 4)).st = 0 ∧
      ((k (keyed { st := 1, part := 2, ctx := 5 } 4)).part, (k (keyed { st := 1, part := 2, ctx := 5 } 4)).ctx) = (2, 5) ∧
      (keyed {} 4).arg.d.setWidth 256 ≠ (keyed {} 4).arg.e.setWidth 256 ∧ (keyed {} 3).arg.d.setWidth 256 = (keyed {} 3).arg.e.setWidth 256 := by
  decide +kernel

/-- ContextSteps: contexts to fence in each state, one fenced in this tick, and one that cannot be. PartitionsAndKeys: the lists are in
order; a request with a reserved operation. -/
theorem witness_ContextFences :
    (∀ st ∈ ([1, 2, 3] : List Byte), (context { state := st }).ctx 0 0 = { state := st } ∧ ((context { state := st }).ctx 0 0).fencedAt ≠ mk.clock + 1) ∧
      ((context { state := 2, fencedAt := 1 }).ctx 0 0).fencedAt = mk.clock + 1 ∧ ((context { state := 4 }).ctx 0 0).state = 4 ∧
      ((context { state := 2, stopping := true }).ctx 0 0).stopping = true ∧
      (readyModule {}).parts.Rising ∧ (readyModule {}).tiles.Rising ∧ (keyed {} 4).keys.Rising ∧
      (keyed {} 4).arg.l = [] ∧ ({ keyed {} 4 with arg := { n := 7, m := 63, l := [9] } } : State).arg.l ≠ [] ∧
      ({ keyed { st := 2 } 4 with arg := { n := 63 } } : State).keys.getD 63 {} = { st := 2 } := by decide +kernel

def evEnt : EvEnt := ⟨0x0000_0500_0000_0000, 0, 0⟩
/-- A tile with some engines and units set, for their own steps. -/
def engines (h : Tile → Tile) (arg : Args := {}) (expo : BitVec 16 := 0) (g : Core → Core := id) : State :=
  { mk (g := g) (h := h) (l := { csize := 64, expo := expo }) with arg := arg }
def evWith (n : Nat) (arg : Args) (expo : BitVec 16 := 0) (e : EvEngine → EvEngine := id) : State :=
  engines (fun t => { t with ev := e { t.ev with queue := List.replicate n evEnt } }) arg expo
def swapCmd : QCmd := ⟨(encodeTWord (.mxSwap 0 0)).getD 0, 0, 3, 5, 0, 0⟩
/-- Cores 6 and 7 have a command each; the core in turn, with its services so far. -/
def serving (turn : Fin 8) (used : Nat) (busy : Nat := 0) : State :=
  ((engines fun t => { t with mx := { t.mx with turn := turn, used := used, busy := busy, acc := [(0, 1)] } }).modCore 0 6
    fun c => { c with mxq := [swapCmd] }).modCore 0 7 fun c => { c with mxq := [swapCmd] }
def mxRow0 (wm : Bool) (dst : Nat) : MxRow := { due := 0, core := 7, job := 0xFFFF, dst := dst, wm := wm, ex := -8, plane := false, a := List.replicate 32 0x1FC00 }
def rowed (wm : Bool) (dst : Nat) : State :=
  engines fun t => { t with mx := { t.mx with rows := [mxRow0 wm dst], open_ := [(7, 0xFFFF, 0)], plane0 := [(0, 0x1FC00), (33, 0x20000)], acc := [(3, 0x40)] } }
/-- A machine whose channel 63 has a host atomic under way, on the host's word 0x10. -/
def hosted (m : Nat) (flags : BitVec 16 := 4) (wait : Bool := true) : State :=
  let ops : BitVec 192 := fields 192 [(0, 0x1_0010), (64, (lma 0).toNat), (128, (lma 32).toNat)]
  { engines (fun t => { t with
      tlb := [⟨0, 4, 1, 0, true, true, true⟩]
      copy := { t.copy with chans := [(63, { run := some { q := ⟨(encodeTWord (.copyHatom ⟨flags, 63, 0, 0⟩ ops)).getD 0, 0, 9, 0, 0, 0⟩, wait := wait, host := if wait then some (12, 16, 3, 0) else none } })] } })
    { n := 63, m := m, w := 12 } (g := fun c => { c with lm := [(0, 3)] }) with host := [(16, 0xFE), (17, 0xFF)] }

/-- EngineSteps: events that enter a queue with room for one and a full one, of the tile and of others, exported and not; a sample
that does not come; services of the core in turn, of the next, and while the engine is busy; rows of both kinds at their last places;
a loaded plane; completions. -/
theorem witness_EngineSteps :
    ((evWith 4095 {}).tile 0).ev.queue.length = 4095 ∧ ((evWith 4095 { ok := false }).tile 0).ev.queue.length = 4095 ∧
      ((evWith 4096 {}).tile 0).ev.queue.length = 4096 ∧ ((evWith 4096 {}).tile 0).ev.decl = none ∧
      (let s := evWith 0 { n := 5, m := 3 } 0 fun e => { e with cmds := [⟨0, 0, 3, 0, 0, 0⟩], run := some (.sampling [4, 5] none), decl := some { srcs := [(0, 1)] } }
       (s.tile 0).ev.cmds = ⟨0, 0, 3, 0, 0, 0⟩ :: [] ∧ (s.tile 0).ev.run = some (.sampling [4, 5] none) ∧ (s.tile 0).ev.decl = some { srcs := [(0, 1)] }) ∧
      (((serving 7 0).tile 0).mx.busy ≤ (serving 7 0).now 0 ∧ ((serving 7 0).tile 0).cores[(7 : Fin 8)].mxq = swapCmd :: [] ∧
        (decodeTWord swapCmd.word).toOption = some (.mxSwap 0 0) ∧ ((serving 7 0).tile 0).mxCan 0 7 = true ∧ ((serving 7 0).tile 0).mx.used < ((serving 7 0).tile 0).mxTurns 7) ∧
      (((serving 5 0).tile 0).mxCan 0 6 = true ∧ (6 : Fin 8) = ((serving 5 0).tile 0).mx.turn + 1 ∧ ((serving 5 0).tile 0).mxCan 0 5 = false ∧
        (7 : Fin 8) = ((serving 6 1).tile 0).mx.turn + 1 ∧ ((serving 6 1).tile 0).mxTurns 6 ≤ ((serving 6 1).tile 0).mx.used) ∧
      (serving 7 0 1).now 0 < ((serving 7 0 1).tile 0).mx.busy ∧
      (((rowed false 255).tile 0).mx.rows = mxRow0 false 255 :: [] ∧ ((rowed true 63).tile 0).mx.rows = mxRow0 true 63 :: [] ∧
        (mxRow0 true 63).due ≤ (rowed true 63).now 0 ∧ ((rowed true 63).tile 0).mx.acc.wf = true ∧ ((rowed true 63).tile 0).mx.open_ = [(7, 0xFFFF, 0)]) ∧
      ((engines fun t => { t with mx := { t.mx with load := some ⟨0, 3, true⟩ } }).tile 0).mx.load = some ⟨0, 3, true⟩ ∧
      ((engines id { n := 0xFFFF, m := 9 }).core 0 0).mxLate = [] ∧ (BitVec.ofNat 16 1 : BitVec 16) = ((engines id).core 0 0).mxDone + 1 ∧
      ((hosted 0).runOf 0 63).map (·.host) = some (some (12, 16, 3, 0)) ∧ BitVec.ofNat 64 12 = (hosted 0).arg.w ∧
      (hosted 0 4 false).hatomRun 0 63 12 = none ∧ (hosted 2).arg.m = 2 ∧
      ((engines fun t => { t with drains := [{ bind true [] 0 with chan := 63 }] }).tile 0).drains.map (fun b => (b.chan.val, b.xid)) = [(63, 1)] := by
  decide +kernel

/-- EngineSteps: samples that do not come, of the request that the timeout belongs to and of a later one. -/
theorem witness_EngineSteps_sample :
    let s (n : Nat) : State := (evWith 0 { n := 5, m := 3 } 0 fun e => { e with run := some (.sampling [4, 5] none), decl := some { srcs := [(0, 1)] } }).modTile 0
      fun t => { t with copy := { t.copy with samples := [(5, .source 4 n)] } }
    (∀ n : Nat, ((s n).copyUnit 0).samples.get? (s n).arg.n = some (.source 4 n)) ∧ (s 3).arg.m = 3 ∧
      ((s 3).tile 0).ev.run = some (.sampling [4, 5] none) ∧ ((s 3).tile 0).ev.decl = some { srcs := [(0, 1)] } ∧ (4 : Nat) ∈ [4, 5] := by
  refine ⟨fun n => rfl, ?_⟩
  decide +kernel

/-- EngineSteps: a host atomic whose word the host holds. -/
theorem witness_EngineSteps_host :
    (match (hosted 0).runOf 0 63 with
      | some r => !isGlobal (r.q.word.extractLsb' 128 64) &&
        (match (((hosted 0).hostAtomic r.q.word 16 3 0).1.modRun 0 63 fun r => { r with host := none }).unitWrite 0 (r.q.word.extractLsb' 128 64)
            (natToBytes 8 0xFFFE) kind0or14 (some (cmdSrc 0 1 63 r.q.id)) with
          | (_, none) => true
          | _ => false)
      | none => false) && (hosted 0).host.wf && decide ((hosted 0).host.readNat 16 8 = 0xFFFE) = true := by decide +kernel

/-- A miss of core 0 on a line of the page that translation entries may map, whose walk is over for the page at 0x1_0000. -/
def walked (tlb : List TLBEnt) (va : Word := 0x1_0040) (arg : Args := { w := 0x1_FFFF }) : State :=
  { (engines (fun t => { t with tlb := tlb, misses := [{ tag := 4, what := .line (va.toNat / 64) 0 false, va := va, walking := true }] })).modThread r0
      (one (.port none)) with arg := arg }.modTile 0 fun t => { t with accs :=
        [{ r := r0, owner := 0, op := 2, addr := 0, va := va, place := .glob, n := 8, act := .load (.zx 3 8), banks := [48, 55], at_ := 0, lag := 6 }] }
def page1 : TLBEnt := ⟨0, 4, 1, 0x2_0000, false, true, true⟩
def asking (q : SReq) (ok : Bool := true) : State := engines (fun t => { t with sreqs := [q] }) { n := q.pl, ok := ok }
def line5 (dirty : Bool) : Line := { tag := 5, data := 0x1122334455667788, dirty := dirty, words := 1, wr := true, pl := 7 }
def sline7 (dirty : Bool) : SLine := { pl := 7, way := 0, ctx := 0, data := 0xAABBCCDDAABBCCDD, dirty := dirty }
def cached (dirty : Bool) (n : Nat) : State :=
  { (engines (fun t => { t with slice := [(7, [sline7 dirty])] })).modCore 0 0 fun c => { c with lines := [(0, [line5 dirty])] } with arg := { n := n } }
def store0 (since : Nat) : Access :=
  { r := r0, owner := 0, op := 0, addr := 0, va := lma 0x3_FFFC, place := .lm 0 0x3_FFFC, n := 4, act := .store 0x04030201 0xFFFFFFFF, banks := [3],
    at_ := 0, lag := 0, since := some since }
def holdingStore (now : Nat) (order : List TraceEnt) : State :=
  { engines (fun t => { t with accs := [store0 1], ports := [(3, { order := order, last := [(0xFFFF, (⟨0, false, 7, 15, 0⟩, 9))] })] }) { n := 3 } with decks := Vector.replicate 8 { tcyc := now } }
def ahead : List TraceEnt := [⟨0, ⟨0, false, 7, 15, 0⟩, 0xFFFF⟩, ⟨0, ⟨0, false, 0, 0, 0⟩, 0xFFFF⟩]
/-- The home slice of the line of a miss is tile 0. -/
def homeOf (va : Word) : Nat := ((walked []).part 0).homeTile (lineIx va)

/-- CacheSteps: walks that map a page and fault, for lines of the tile's own slice and another's, with a load that waits; a walk of
another page; fills for this tile and another, under an empty mask, and one that fails; a host read; evictions of clean and dirty lines, and of none; held
stores whose turn it is, that have waited 4,096 cycles, and one fewer. -/
theorem witness_CacheSteps :
    (((walked [page1]).tile 0).misses.map (fun m => (m.tag, m.walking, m.what, m.va)) = [(4, true, .line 0x401 0 false, 0x1_0040)] ∧
        (0x1_0040 : Word).toNat % 2 ^ 56 / 2 ^ 16 = (0x1_FFFF : Word).toNat % 2 ^ 56 / 2 ^ 16 ∧
        ((walked [page1]).translate 0 0x1_0040 false false).2 = .ok 0x2_0040 ∧ homeOf 0x1_0040 ≠ 0 ∧ homeOf 0x40 = 0 ∧
        ((walked [⟨0, 4, 0, 0, false, true, true⟩] 0x40 { w := 0 }).translate 0 0x40 false false).2 = .ok 0x40) ∧
      (((walked []).translate 0 0x1_0040 false false).2 = .fault (.notPresent 1) ∧
        (walked [page1]).tiles.Rising ∧ ((walked [page1]).launch 0).part = 0 ∧ ((walked [page1]).launch 0).ctx = 0 ∧
        (walked [page1]).tiles.length = 1 ∧ (walked []).decks[deckOf 0].walks = [] ∧ ((walked []).ctx 0 0).root.getLsbD 0 = false ∧
        ((walked []).accsOn 0 0x401).map (fun x => (x.r, x.op)) = [(r0, 2)] ∧
        ((walked []).thread r0).outst.map (·.id) = [2]) ∧
      (0x1_0040 : Word).toNat % 2 ^ 56 / 2 ^ 16 ≠ (0x2_0000 : Word).toNat % 2 ^ 56 / 2 ^ 16 ∧
      (([(0, 0xFFFF, true), (1, 0xFFFF, true), (0, 0, true), (1, 1, false)] : List (Nat × BitVec 16 × Bool)).all fun x =>
          let q : SReq := { pl := 9, tile := x.1, tag := 4, part := 0, ctx := 0, rule := { mask := x.2.1 } }
          decide (((asking q x.2.2).tile 0).sreqs = [q]) && decide (q.pl = (asking q x.2.2).arg.n) && decide ((asking q x.2.2).arg.ok = x.2.2) &&
            decide (((asking q x.2.2).tile 0).sliceGet? 9 = none)) = true ∧
      (((holding (.host 0x1_0010 16 (.sx 3 4))).thread r0).op? (holding (.host 0x1_0010 16 (.sx 3 4))).arg.n).map (·.cond) =
        some (.host 0x1_0010 16 (.sx 3 4)) ∧
      (((cached true 5).core 0 0).lineGet? 5 = some (line5 true) ∧ ((cached false 5).core 0 0).lineGet? 5 = some (line5 false) ∧
        ((cached true 5).core 0 0).lineGet? 6 = none ∧ ((cached true 5).tile 0).sliceGet? 7 = some (sline7 true) ∧
        ((cached false 5).tile 0).sliceGet? 7 = some (sline7 false) ∧ ((cached true 5).part 0).homeTile 5 = 0 ∧
        ((cached true 5).tile 0).sliceGet? 5 = none ∧ ((cached true 7).part 0).hbm.wf = true ∧ ((cached true 7).part 0).fog = []) ∧
      (((holdingStore 4096 []).tile 0).accs = [store0 1] ∧ (store0 1).since ≠ none ∧
        ((holdingStore 4096 []).tile 0).mayLeave ((holdingStore 4096 []).now 0) (store0 1) = true ∧
        ((holdingStore 4096 ahead).tile 0).mayLeave ((holdingStore 4096 ahead).now 0) (store0 1) = false ∧
        ((holdingStore 4097 ahead).tile 0).mayLeave ((holdingStore 4097 ahead).now 0) (store0 1) = true) ∧
      ((holdingStore 1 []).core 0 0).lm.wf = true ∧ ((holdingStore 1 []).core 0 0).lmUE = [] := by decide +kernel

def fault0 (who : Nat) : PFault := { seq := 9, va := 0x1_0040, tile := 0, who := who, acc := 1, cause := 1, lvl := 4, id := 3, roff := 0 }
/-- A context of function 5 with a translation fault of tile 0, whose record waits for a fault queue of n entries, and the operands of a
write by function 5. -/
def faulted (state : Byte) (f : PFault) (n : Nat) (w : Word) (vf : Nat := 5) : State :=
  { mk (h := fun t => { t with
        tlb := [page1]
        mx := { t.mx with fpend := t.mx.fpend.set 7 (some { seq := 9, addr := 0 }) }, ev := { t.ev with fpend := some { seq := 9, addr := 0 } }
        copy := { t.copy with chans := [(63, { fpend := some { seq := 9, addr := 0 }, run := some { q := ⟨hatomWord, 0, 3, 0, 0, 0⟩ } })] } })
      (p := fun p => { p with ctxs := [(0, { state := state, vf := 5, fqn := n, fqprod := 7, faults := [f], records := [f] })] }) with
    arg := { n := vf, w := w } }
/-- Its saved form, with the tile's image beside it and n settles listed. -/
def savedFault (f : PFault) (n : Nat) : State :=
  let s := faulted 3 f 8 (9 * 256)
  s.modCtx 0 0 fun c => { c with saved := [(0, s.tile 0, 0)], settles := List.replicate n (1, false) }
/-- The operands of the steps that act on a partition and a context, and a miss whose translation is known. -/
def queued (n : Nat) (rest : List PFault := []) (l : List Nat := []) : State :=
  { (faulted 2 (fault0 63) n 0).modCtx 0 0 (fun c => { c with records := c.records ++ rest }) with arg := { l := l } }
def underWay4 : State := (queued 8 [] [65536]).modTile 0 fun t => { t with misses := [{ tag := 4, what := .line 1 0 false, va := 0x40 }] }

/-- FaultSteps: records with room in their queue and without, with another behind and alone, and none; an invalidation with its
accesses under way and performed; writes of a function with a context and without. -/
theorem witness_FaultSteps :
    ((queued 8).ctx 0 0).records = fault0 63 :: [] ∧ ((queued 8 [fault0 64]).ctx 0 0).records = fault0 63 :: [fault0 64] ∧
      (((queued 8).ctx 0 0).fqprod - ((queued 8).ctx 0 0).fqcons).toNat < ((queued 8).ctx 0 0).fqn ∧
      ((queued 7).ctx 0 0).fqn ≤ (((queued 7).ctx 0 0).fqprod - ((queued 7).ctx 0 0).fqcons).toNat ∧ (State.reset.ctx 0 0).records = [] ∧
      underWay4.arg.l = [65536] ∧ 65536 ∈ underWay4.underWay 0 ∧ ((queued 8 [] [65537]).underWay 0).contains 65537 = false ∧
      (faulted 2 (fault0 63) 8 0 4).ofVf 4 = none ∧ (faulted 2 (fault0 63) 8 0).ofVf 5 = some (0, 0) ∧ (faulted 3 (fault0 63) 8 0).ofVf 5 = some (0, 0) := by
  decide +kernel

/-- FaultSteps: settlements in a context that runs and a saved one, of a fault of each unit and of none, with room in the header's list and
without; an invalidation, and a write that asks for none. -/
theorem witness_FaultSteps_settle :
    ([0, 255, 256].all fun n => decide (((savedFault (fault0 63) n).ctx 0 0).state = 0x03) && decide (((savedFault (fault0 63) n).ctx 0 0).settles.length = n) &&
          decide (((savedFault (fault0 63) n).ctx 0 0).faults.find? (fun f => f.seq == (savedFault (fault0 63) n).arg.w.toNat / 256) = some (fault0 63))) = true ∧
      (fault0 63).who / 64 = 0 ∧ ((((savedFault (fault0 63) 0).ctx 0 0).saved.map fun y => (y.1, (y.2.1.copy.chan ((fault0 63).who % 64)).fpend != none)) = [(0, true)]) ∧
      ([63, 127, 128].all fun who => decide (((faulted 2 (fault0 who) 8 (9 * 256)).ctx 0 0).state ≠ 0x03) &&
          decide (((faulted 2 (fault0 who) 8 (9 * 256)).ctx 0 0).faults.find? (fun f => f.seq == (9 * 256 : Word).toNat / 256) = some (fault0 who))) = true ∧
      (127 / 64 = 1 ∧ 1 < 128 / 64) ∧ ((faulted 2 (fault0 63) 8 (8 * 256)).ctx 0 0).faults.find? (fun f => f.seq == (8 * 256 : Word).toNat / 256) = none ∧
      ((faulted 2 (fault0 63) 8 9).runOf 0 63).isSome = true ∧ ((faulted 2 (fault0 63) 8 9).tile 0).frozen = false ∧
      (decodeTWord hatomWord).toOption.isSome = true ∧ (1 : Word).getLsbD 0 = true ∧ (6 : Word).getLsbD 0 = false := by decide +kernel


/-- ModuleStarts: a start after one that lost its power, the third failure, and after others, with no key loaded and with one; stages that
are not the one that runs; each stage in a start and in Cocoon mode, done already there and not; the stages' reason codes, and one of none;
images of this module's PUF key and of another; a channel and a row; a timeout of this start and of another; a rail's number. -/
theorem witness_ModuleStarts :
    let codes : List (Nat × Nat) := [(1, 0x01), (2, 0x02), (2, 0x04), (3, 0x03), (4, 0x05), (4, 0x0A), (5, 0x06), (6, 0x07)]
    let at_ (n st : Nat) (ok : Bool := true) (m : Nat := 0) : State := readyModule { n := n, ok := ok, m := m } [] { state := st, stage := n, starts := 1 }
    let sealed (key : BitVec 256) : State := readyModule { n := 3 } [] { state := 1, stage := 3, starts := 1, puf := 7, image := { key := key } }
    State.reset.md.interrupted = false ∧ (readyModule {} [] { interrupted := true, fails := 2 }).md.interrupted = true ∧ min 3 (2 + 1) = 3 ∧
      ((readyModule {} [] {} [(63, { st := 1 })]).keys = [(63, { st := 1 })] ∧ State.reset.keys = [] ∧
        (State.reset.agenda.all fun e => decide (e.i ≠ .keyZeroingDone)) = true) ∧
      State.reset.md.starts = 0 ∧ (at_ 1 0).md.state = 0 ∧ (at_ 1 2).md.state = 2 ∧ (at_ 1 4).md.state = 4 ∧ (at_ 1 1).md.stage ≠ 2 ∧
      (codes.all fun x => decide ((at_ x.1 1 false x.2).md.stage = (at_ x.1 1 false x.2).arg.n) && !(at_ x.1 1 false x.2).arg.ok &&
        codes.contains ((at_ x.1 1 false x.2).arg.n, (at_ x.1 1 false x.2).arg.m) && !codes.contains ((at_ x.1 1 false 0x0B).arg.n, (at_ x.1 1 false 0x0B).arg.m)) = true ∧
      ((sealed 6).arg.ok = true ∧ (sealed 6).md.image.key ≠ (sealed 6).md.puf ∧ (sealed 7).md.image.key = (sealed 7).md.puf) ∧
      (at_ 7 1 false).arg.ok = false ∧ (at_ 7 1).md.starts ≠ 0 ∧ (at_ 6 1).md.stage = 6 ∧ (at_ 4 1).arg.l = [] ∧
      ({ (at_ 4 1).arg with l := [2 ^ 14 + 255] } : Args).l = [2 ^ 14 + 255] ∧
      ((readyModule { n := 5 } [] { stage := 5, starts := 1, image := { repair := [(159, 31)] } }).md.image.repair = [(159, 31)] ∧
        (readyModule { n := 5 } [] { stage := 5, starts := 1 }).md.found = []) ∧
      ([1, 2, 3, 6].all fun n => decide ((at_ n 3).md.state = 3) && !(at_ n 3).md.meas.has n) = true ∧
      (readyModule { n := 6 } [] { state := 3, stage := 6, starts := 1, meas := [(6, 0)] }).md.meas.has 6 = true ∧
      (at_ 3 3 true 1).md.starts = (at_ 3 3 true 1).arg.m ∧ (at_ 3 1 true 1).md.starts = (at_ 3 1 true 1).arg.m ∧
      (at_ 3 1 true 2).md.starts ≠ (at_ 3 1 true 2).arg.m ∧ (at_ 8 3).md.state = 3 ∧ (at_ 8 1).arg.n = 8 ∧ (at_ 9 1).arg.n ≠ 8 := by
  decide +kernel

/-- A module in which tile 33 runs a launch and does not answer, with its count, its samples, its shifts; two contexts of its partition run. -/
def silent33 (n k : Nat) (rows : KMap Nat := []) (shifts : List Nat := []) (arg : Args := {}) : State :=
  let s : State := { mk with
    parts := [(0, { sc0 := 0, sr0 := 0, sc1 := 0, sr1 := 0, ctxs := [(0, { state := 2, vf := 4 }), (1, { state := 2, vf := 6 })] })]
    md := { state := 2, checks := 9, silent := [(33, n, k)], rows := rows, shifts := shifts }, arg := arg, cur := ⟨33, 0, 0⟩ }
  s.modTile 33 fun t => { t with launch := some { csize := 64 }, missed := 2 }

/-- TileFailures: a tile's first three samples without a count, the fourth, and one with a count; a row with its spare, without, and one
whose spare another tile's shift tests; a shift of its row, of the tile and of another; a tile that answers again; a channel that fails and
one that has; contexts that a fence finds; decks above their limits, between them and below; the last steps of a throttle. -/
theorem witness_TileFailures :
    (silent33 7 0).md.silent = [(33, 7, 0)] ∧ (silent33 7 0).md.checks - ((silent33 7 0).tile 33).missed = 7 ∧
      (silent33 6 3).md.checks - ((silent33 6 3).tile 33).missed ≠ 6 ∧ (silent33 7 3).md.rows.has 1 = false ∧
      (silent33 7 3 [(1, 0)]).md.rows.has 1 = true ∧ (silent33 7 3 [] [34]).md.shifts = [34] ∧ ((silent33 7 3).tile 33).launch.isSome = true ∧
      (33 : Nat) ∉ (silent33 7 3 [] [34]).md.shifts ∧ (33 : Nat) ∈ (silent33 7 3 [] [33]).md.shifts ∧ (33 : Nat) ∉ (silent33 7 3 [] [65]).md.shifts ∧
      20 * (34 / 1024 % 8) + 34 / 32 % 32 = 20 * (33 / 1024 % 8) + 33 / 32 % 32 ∧ 20 * (65 / 1024 % 8) + 65 / 32 % 32 ≠ 20 * (33 / 1024 % 8) + 33 / 32 % 32 ∧
      (let s := silent33 7 3
       ((s.parts.map fun x => (x.1, x.2.hasTile 33)) = [(0, true)]) ∧
        ((s.part 0).ctxs.map fun x => (x.1, x.2.state, x.2.vf)) = [(0, 0x02, 4), (1, 0x02, 6)] ∧
        (s.tile 33).launch.map (fun l => (l.part, l.ctx)) = some (0, 0)) ∧
      ((silent33 7 0 [] [] { ok := false, n := 1 }).arg.n = 1 ∧ (silent33 7 0 [] [] { ok := false }).arg.n ≠ 1 ∧
        (silent33 7 0).md.silent.Rising ∧ (silent33 7 0).md.erred.Nodup) ∧
      ((readyModule { n := 255 }).md.chfail.getLsbD 255 = false ∧ (readyModule { n := 255 } [] { chfail := 1#256 <<< 255 }).md.chfail.getLsbD 255 = true) ∧
      (([1, 2, 3] : List Byte).all fun st =>
        let x : Part := { sc0 := 0, sr0 := 0, sc1 := 31, sr1 := 1, ctxs := [(0, { state := st, root := 1 })] }
        decide (x.sc0 ≤ chanStrip 255 % 32) && decide (chanStrip 255 % 32 ≤ x.sc1) && decide (x.sr0 ≤ chanStrip 255 / 32) &&
          decide (chanStrip 255 / 32 ≤ x.sr1) && decide ((x.ctx 0).state = st) && (x.ctx 0).root.getLsbD 0) = true ∧
      (readyModule { n := 7, m := 201 }).arg.n = (7 : Fin 8).val ∧ (200 : Nat) < (readyModule { n := 7, m := 201 }).arg.m ∧
      (readyModule { n := 7, m := 0, w := 2801 }).md.cap < (readyModule { n := 7, m := 0, w := 2801 }).arg.w.toNat ∧
      (readyModule { n := 7, m := 189 }).arg.m < 190 ∧ (230 : Nat) < (readyModule { n := 7, m := 231 }).arg.m ∧ (readyModule {} [] {}).md.state = 1 ∧
      (readyModule {}).md.state ≠ 3 ∧ (readyModule {} [] { state := 3 }).md.state = 3 := by decide +kernel

/-- ManagementCommands: commands in each state, while another runs and when none does; the last tile and port, and the first beyond
them; a ring; caps at their ends and beyond; images; registers. -/
theorem witness_ManagementCommands :
    let md (st : Nat) (busy win : Bool) : Module := { state := st, busy := busy, meas := if win then [(6, 0)] else [] }
    let e : TraceEnt := ⟨5, ⟨0, false, 7, 15, 0⟩, 0xFFFF⟩
    let last : Nat := 7 * 1024 + 19 * 32 + 31
    let s (n : Nat) (l : List Nat) (m : Nat) (w : Word) : State := readyModule { n := n, l := l, m := m, w := w } [(63, { sc0 := 0, sr0 := 0, sc1 := 0, sr1 := 0, ctxs := [(15, { state := 2, vf := 7 })] })]
    ([0, 1, 2, 3, 4].all fun st => [false, true].all fun b => [false, true].all fun w =>
        decide ((md st b w).state = st) && decide ((md st b w).busy = b) && decide ((md st b w).meas.has 6 = w)) = true ∧
      tileIdOk last = true ∧ tileIdOk (20 * 32) = false ∧
      (((readyModule { n := 55 }).modTile last fun t => { t with ports := [(55, { ring := [e] })] }).tile last).ports.get? 55 = some { ring := [e] } ∧
      (readyModule { n := 55 }).md.buffer.wf = true ∧ (readyModule { n := 55 }).arg.n ≤ 55 ∧ 55 < (readyModule { n := 56 }).arg.n ∧
      800 ≤ (s 800 [] 0 0).arg.n ∧ (s 2800 [] 0 0).arg.n ≤ 2800 ∧ (s 799 [] 0 0).arg.n < 800 ∧ 2800 < (s 2801 [] 0 0).arg.n ∧
      (s 1 [64 * 159 + 31] 1 0).arg.l = [64 * 159 + 31] ∧ (s 0 [] 2 0).arg.m = 2 ∧ (readyModule {} [] {} [(63, { st := 1 })]).keys = [(63, { st := 1 })] ∧
      ([0, 1, 2, 3, 4, 5, 6, 7, 255].all fun op => decide ((s 0 [] 0x1000 (BitVec.ofNat 64 op)).arg.w.toNat % 256 = op)) = true ∧
      (s 0 [] 0x2FF8 7).arg.m < 0x3000 ∧ (s 0 [] (0x4000 + 0x40 * 63) 7).parts.has 63 = true ∧
      ([0x1008, 0x1010, 0x1018, 0x1028, 0x1030].all fun m => decide ((s 1 [7] m 3).ofVf 7 = some (63, 15))) = true ∧ (3 : Word).toNat % 4 = 3 ∧
      (s 2 [63, 15] 0 0).arg.l = [63, 15] ∧ (s 3 [63, 6] 0 0).arg.l = [63, 6] ∧
      (BitVec.ofNat 64 (((s 4 [63, 15] 64 0).part 63).physSize - 64)).toNat + 64 ≤ ((s 4 [63, 15] 64 0).part 63).physSize ∧
      (s 5 [] 64 0).host.wf = true ∧ (s 6 [] 1 9).arg.m = 1 ∧ tileIdOk (s 7 [] 0xFFFF 0).cur.tile = true ∧
      (s 8 [63, 15] 0 0).parts.has 63 = true ∧ (s 10 [] 0 128).arg.n = 10 := by decide +kernel

/-- ManagementCommands: clean and dirty lines of a core whose copy of line 5 is damaged. -/
theorem witness_ManagementCommands_line :
    ([false, true].all fun dirty => decide (((cached dirty 9).core 0 0).lineGet? 5 = some (line5 dirty)) && decide ((cached dirty 9).arg.n = 9)) = true ∧
      (let s := (cached true 9).modCore 0 0 fun c => { c with lines := [(0, [line5 true])] }
       (s.core 0 0).lines.Rising) ∧ (cached true 9).parts.has 0 = true := by decide +kernel

/-- StepRunsDecoded: an input; a due event at its tick; a thread in its slot with a word at the last place of its code segment. -/
theorem witness_StepRunsDecoded :
    let t := (State.reset.placeWord 32 0x0CBE0000)
    ({ mk with inputs := [(.flitAgeTick, r0, {})] } : State).inputs = (.flitAgeTick, r0, {}) :: [] ∧
      (State.reset.inputs = [] ∧ State.reset.agenda = ⟨.ref, 0, false, default, {}, .moduleStart⟩ :: []) ∧
      t.inputs = [] ∧ (t.agenda.all fun e => e.late || match e.clk with
        | .deck d => t.decks[d].tcyc < e.due
        | .ref => t.clock < e.due) = true ∧ t.slots ≠ [] ∧ (t.slots.all fun r =>
        (t.tile r.tile).launch.isSome && !(t.tile r.tile).frozen && decide ((t.core r.tile r.core).displacing = none) && decide ((t.thread r).st = .running) &&
          decide ((t.thread r).notBefore ≤ t.now r.tile) && !(t.thread r).busy && (t.thread r).resv.isNone &&
          decide ((t.thread r).pc.toNat < (t.launch r.tile).csize) && (t.thread r).starved.isEmpty && (t.thread r).laidOff.isEmpty &&
          decide (t.globalPeek r.tile ((t.launch r.tile).code + BitVec.ofNat 64 (t.thread r).pc.toNat) 4 = some 0x0CBE0000)) = true ∧
      (decodeWord 0x0CBE0000).toOption = some (.lui 5 0x1E0000) := by decide +kernel

/-- A machine with nothing to do in this tick but what its units do and the events that end a cycle. -/
def atRest (agenda : List Agenda) (thr : Nat) : State :=
  { mk with agenda := agenda, decks := Vector.replicate 8 { thr := thr, acc := 15 } }

/-- StepRunsDecoded: units that act and units that do not; an event that ends the cycle, due and not, on a deck whose cycle ends and one
whose does not; a tick in which nothing comes. -/
theorem witness_StepRunsDecoded_rest :
    let late (due : Nat) : Agenda := ⟨.deck 0, due, true, default, {}, .flitAgeTick⟩
    let early : Agenda := ⟨.ref, 1, false, default, {}, .flitAgeTick⟩
    ([[late 0], [late 1], [early], []].all fun l => (atRest l 0).slots.isEmpty && (atRest l 0).inputs.isEmpty &&
        decide ((atRest l 0).pollAll.2 = false) && decide ((atRest l 0).pollAll.1.agenda = l)) = true ∧
      (∀ e ∈ [early], ¬(e.late = false ∧ e.due ≤ (atRest [early] 0).clock)) ∧
      (late 0).due ≤ ((atRest [late 0] 0).pollAll.1).decks[0].tcyc ∧ 16 ≤ (atRest [late 0] 0).decks[0].acc + (16 - (atRest [late 0] 0).decks[0].thr) ∧
      ¬16 ≤ ({ (atRest [] 15) with decks := Vector.replicate 8 { thr := 15, acc := 14 } } : State).decks[0].acc + (16 - 15) ∧
      ((serving 7 0).slots = [] ∧ (serving 7 0).inputs = [] ∧ (serving 7 0).agenda = [] ∧ (serving 7 0).pollAll.2 = true) := by decide +kernel

/-- EncodingRoundTrip: instructions and commands at the ends of their fields. -/
theorem witness_EncodingRoundTrip :
    (([.aluAdd 31 31 31 .d, .jmp 0x3FFFFFF, .memStD 31 31 0x1FF, .atomCas 31 31 31 .i64 15] : List Instr).all fun i => i.wf && (encodeWord i).isSome) = true ∧
      (([.mxRun 3 (BitVec.allOnes 192), .copyHatom ⟨15, 63, 3, 3⟩ 0, .evRead 1 1] : List Instr).all fun i => i.wf && (encodeTWord i).isSome) = true ∧
      (decodeWord 0x04632020).toOption = some (.aluAdd 3 3 4 .d) ∧ (decodeTWord swapCmd.word).toOption = some (.mxSwap 0 0) := by decide +kernel

/-- InvariantKept: a machine that meets the invariant, and its step. -/
theorem witness_InvariantKept : let s : State := { agenda := [⟨.ref, 5, false, default, {}, .moduleStart⟩], clock := 5 }
    s.Inv ∧ ∃ s', step s = .next s' := by
  refine ⟨?_, _, rfl⟩
  refine ⟨by simp, by simp, by decide, by decide⟩

/-- RegisterFrame: a word of each of its majors, on a machine whose thread may issue it. -/
theorem witness_RegisterFrame :
    (([0x04632020, 0x094A8022, 0x0CBE0000, 0x14328820, 0x18236008, 0x602218A0, 0x64456A80, 0x68C60180, 0x6F6D0080, 0x72A2B170] : List (BitVec 32)).all fun w =>
      ((decodeWord w).toOption.bind encodeWord) == some w && ([0x01, 0x02, 0x03, 0x05, 0x06, 0x18, 0x19, 0x1A, 0x1B, 0x1C] : List Nat).contains (w.extractLsb' 26 6).toNat)
      = true ∧ quiet mk = true := by decide +kernel

end Sys2Proof.Tests
end

section
/-!
PROOFS. The frame of the register forms (spec/03 R73, R75; spec/04 R96 to R103; spec/05 R137 to R154): what an advance, a
retirement and an update of the current thread leave alone, which instructions write registers alone, and O60.
-/
namespace Sys2Proof

/-! ## Majors (R70, R75) -/

/-- The major opcode among the fields of a word. -/
def Raw.major : Raw → BitVec 6
  | .fR maj _ _ _ _ _ | .fI maj _ _ _ _ | .fM maj _ _ _ _ _ | .fB maj _ _ _ _ | .fJ maj _ | .fU maj _ _ => maj

/-- The major stands in bits 31 to 26 of every format. -/
theorem Raw.extractLsb'_pack_major (r : Raw) : r.pack.extractLsb' 26 6 = r.major := by
  cases r with
  | fR => exact Raw.fields_fR.1
  | fI => exact Raw.fields_fI.1
  | fM => exact Raw.fields_fM.1
  | fB => exact Raw.fields_fB.1
  | fJ => exact Raw.fields_fJ.1
  | fU => exact Raw.fields_fU.1

/-- The instruction is an S-word of one of the majors of a list. -/
def Instr.majorIn (i : Instr) (l : List Nat) : Bool := i.raw.any fun r => l.contains r.major.toNat

theorem Instr.majorIn_iff {i : Instr} {w : BitVec 32} (h : encodeWord i = some w) (l : List Nat) :
    i.majorIn l = true ↔ (w.extractLsb' 26 6).toNat ∈ l := by
  obtain ⟨r, hr, rfl⟩ : ∃ r, i.raw = some r ∧ r.pack = w := by simpa [encodeWord] using h
  simp [Instr.majorIn, hr, Raw.extractLsb'_pack_major]

/-- alu, alui, lui, cmp, cmpi, valu, vflt, vcvt, vred and vmov (R75). -/
def registerMajors : List Nat := [0x01, 0x02, 0x03, 0x05, 0x06, 0x18, 0x19, 0x1A, 0x1B, 0x1C]

/-- The majors that raise floating-point flags: vflt, vcvt and vred (R137). -/
def floatMajors : List Nat := [0x19, 0x1A, 0x1B]

end Sys2Proof

namespace Sys2Proof.Machine

/-! ## Advance (R107, R110) -/

/-- Two threads that differ in the pc, the hold of a transfer's target and the loop registers alone. -/
def Thread.PcFrame (t t' : Thread) : Prop :=
  ∃ pc held cnt start last, t' = { t with pc := pc, held := held, loopcnt := cnt, loopstart := start, loopend := last }

section
variable {t u : Thread}

theorem Thread.PcFrame.refl (t : Thread) : t.PcFrame t := ⟨_, _, _, _, _, rfl⟩

theorem Thread.PcFrame.setPc (h : t.PcFrame u) (a : Word) : t.PcFrame { u with pc := a } := by
  obtain ⟨_, _, _, _, _, rfl⟩ := h
  exact ⟨_, _, _, _, _, rfl⟩

theorem Thread.PcFrame.goto (h : t.PcFrame u) (a : Word) : t.PcFrame (u.goto a) := by
  obtain ⟨_, _, _, _, _, rfl⟩ := h
  exact ⟨_, _, _, _, _, rfl⟩

theorem Thread.PcFrame.setLoop (h : t.PcFrame u) (o : Bool) (l : LoopLvl) : t.PcFrame (u.setLoop o l) := by
  obtain ⟨_, _, _, _, _, rfl⟩ := h
  exact ⟨_, _, _, _, _, rfl⟩

theorem Thread.PcFrame.loopEnd (h : t.PcFrame u) {o : Bool} {v : Thread} {x : Option Word}
    (e : u.loopEnd o = (v, x)) : t.PcFrame v := by
  simp only [Thread.loopEnd] at e
  split at e <;> cases e <;> exact h.setLoop _ _

/-- An advance changes the pc, the hold and the loop registers, and nothing else. -/
theorem Thread.advanceFrom_frame (t : Thread) (a : Word) : t.PcFrame (t.advanceFrom a) := by
  have hrefl := Thread.PcFrame.refl t
  unfold Thread.advanceFrom
  extract_lets next inn out outerEnd
  have houter (u : Thread) (hu : t.PcFrame u) : t.PcFrame (outerEnd u) := by
    unfold outerEnd
    split
    · split
      · next e => exact (hu.loopEnd e).goto _
      · next e => exact (hu.loopEnd e).setPc _
    · exact hu.setPc _
  split
  · exact hrefl.setPc _
  · split
    · split
      · next e => exact (hrefl.loopEnd e).goto _
      · next e => exact houter _ (hrefl.loopEnd e)
    · exact houter _ hrefl

end

/-- In a handler, and where no active loop ends, an advance is the next pc. -/
theorem Thread.advanceFrom_noLoop {t : Thread} {a : Word}
    (h : t.ih = true ∨ ∀ o, (t.loopLvl o).active = false ∨ (t.loopLvl o).last ≠ a.toNat) :
    t.advanceFrom a = { t with pc := a + 4 } := by
  unfold Thread.advanceFrom
  rcases h with hih | hlvl
  · simp [hih]
  · have hend (o : Bool) : ((t.loopLvl o).active && (t.loopLvl o).last == a.toNat) = false := by
      rcases hlvl o with h | h <;> simp [h]
    simp [hend]

/-! ## Updates of the current thread -/

/-- Of a tile, an update of the current thread changes its core only. -/
theorem State.tile_modTh (s : State) (f : Thread → Thread) (t : Nat) :
    (s.modTh f).tile t =
      if t = s.cur.tile then (s.tile t).modCore s.cur.core (fun c => c.modThread s.cur.thr f) else s.tile t := by
  split
  · next h => subst h; exact State.tile_modTile_self s _ _
  · next h => exact State.tile_modTile_ne s _ h

/-- A part of the cores that an update of a thread leaves alone stays when the current thread is updated. -/
theorem State.modTh_coreField {s : State} {f : Thread → Thread} {t : Nat} {c : Fin 8} {α : Type} (π : Core → α)
    (hπ : ∀ (c : Core) h f, π (c.modThread h f) = π c := by intros; rfl) :
    π ((s.modTh f).core t c) = π (s.core t c) := by
  rw [State.core_modTh]
  split
  · exact hπ _ _ _
  · rfl

/-- A part of the tiles that an update of a core leaves alone stays when the current thread is updated. -/
theorem State.modTh_tileField {s : State} {f : Thread → Thread} {t : Nat} {α : Type} (π : Tile → α)
    (hπ : ∀ (x : Tile) c f, π (x.modCore c f) = π x := by intros; rfl) :
    π ((s.modTh f).tile t) = π (s.tile t) := by
  rw [State.tile_modTh]
  split
  · exact hπ _ _ _
  · rfl

/-! ## Retirement (R15, R107) -/

/-- A retirement updates the current thread and may schedule the end of a clean-up budget. -/
theorem State.retired_eq (s : State) (f : Thread → Thread) : ∃ ag,
    s.retired f = { s.modTh (fun t => (f (t.counted false)).advanceFrom s.th.pc) with agenda := ag } := by
  obtain ⟨ag, hag⟩ := s.countIssue_eq false
  refine ⟨ag, ?_⟩
  rw [State.retired, hag]
  exact congrArg (fun x : State => { x with agenda := ag }) (State.modTh_modTh s _ _)

theorem State.retired_th (s : State) (f : Thread → Thread) :
    (s.retired f).th = (f (s.th.counted false)).advanceFrom s.th.pc := by
  rw [State.retired, State.th_modTh, State.countIssue_th]

/-- A clear instruction whose effect is an update of the thread's registers, chosen in the state in which it issues, retires. -/
theorem State.issue_onRegs_of_state {s : State} {i : Instr} (h : s.clear i) {f : State → Thread → Thread}
    (hf : ∀ s t, (f s t).binds = t.binds) :
    s.issue i false (fun s => onRegs (f s) s) = s.retired (f (s.countIssue false)) := by
  rw [State.issue_clear h, ← State.issue_onRegs h (hf _), State.issue_clear h]

/-! ## Writes of registers alone -/

/-- From `t` to `t'` an instruction changes its destination registers and the flags alone: it adds flags, and only in the
floating-point majors. -/
structure RegFrame (i : Instr) (t t' : Thread) : Prop where
  getS : ∀ r, RegRef.s r ∉ (regUse i).writes → t'.getS r = t.getS r
  getV : ∀ r, RegRef.v r ∉ (regUse i).writes → t'.getV r = t.getV r
  getP : ∀ r, RegRef.p r ∉ (regUse i).writes → t'.getP r = t.getP r
  flagsGain : t.fflags &&& t'.fflags = t.fflags
  flagsFloat : i.majorIn floatMajors = false → t'.fflags = t.fflags
  others : t' = { t with s := t'.s, v := t'.v, p := t'.p, fflags := t'.fflags }

section
variable {i : Instr}

theorem RegFrame.setS (t : Thread) {d : SReg} (x : Word) (hd : .s d ∈ (regUse i).writes) : RegFrame i t (t.setS d x) where
  getS _ hr := Thread.getS_setS_ne t x fun e => hr (e ▸ hd)
  getV _ _ := Thread.getV_setS ..
  getP _ _ := Thread.getP_setS ..
  flagsGain := by simp
  flagsFloat _ := by simp
  others := by unfold Thread.setS; split <;> rfl

theorem RegFrame.setV (t : Thread) {d : VReg} (x : V256) (hd : .v d ∈ (regUse i).writes) : RegFrame i t (t.setV d x) where
  getS _ _ := Thread.getS_setV ..
  getV _ hr := Thread.getV_setV_ne t x fun e => hr (e ▸ hd)
  getP _ _ := Thread.getP_setV ..
  flagsGain := BitVec.and_self
  flagsFloat _ := rfl
  others := rfl

theorem RegFrame.setP (t : Thread) {d : PReg} (x : Bool) (hd : .p d ∈ (regUse i).writes) : RegFrame i t (t.setP d x) where
  getS _ _ := Thread.getS_setP ..
  getV _ _ := Thread.getV_setP ..
  getP _ hr := Thread.getP_setP_ne t x fun e => hr (e ▸ hd)
  flagsGain := by simp
  flagsFloat _ := by simp
  others := by unfold Thread.setP; split <;> rfl

/-- Flags raised with the result of a floating-point major (R137). -/
theorem RegFrame.addFlags {t t' : Thread} (h : RegFrame i t t') (fl : BitVec 5) (hf : i.majorIn floatMajors = true) :
    RegFrame i t (t'.addFlags fl) where
  getS := h.getS
  getV := h.getV
  getP := h.getP
  flagsGain := by
    show t.fflags &&& (t'.fflags ||| fl) = t.fflags
    have hgain := h.flagsGain
    grind
  flagsFloat hn := absurd hf (by simp [hn])
  others := congrArg (fun x : Thread => x.addFlags fl) h.others

/-- What does not depend on registers and flags stays. -/
theorem RegFrame.keeps {t t' : Thread} (h : RegFrame i t t') {α : Type} (π : Thread → α)
    (hπ : ∀ (t : Thread) s v p fl, π { t with s := s, v := v, p := p, fflags := fl } = π t := by intros; rfl) :
    π t' = π t := by
  rw [h.others]
  exact hπ t _ _ _ _

end

/-! ## The register forms: the register majors but for the three long-latency forms -/

section
variable {i : Instr} (hreg : i.majorIn registerMajors = true) (hdiv : ∀ d a b rm la, i ≠ .vfltDiv d a b rm la)
  (hsqrt : ∀ d a rm la, i ≠ .vfltSqrt d a rm la) (htload : ∀ a t la, i ≠ .vcvtTload a t la)
include hreg hdiv hsqrt htload

/-- A register form issues with an update of the thread's registers that changes its destination and the flags alone. -/
theorem exec_registerForm (s : State) :
    ∃ f : State → Thread → Thread,
      exec i s = .next (s.issue i false fun s => onRegs (f s) s) ∧ ∀ s t, RegFrame i t (f s t) := by
  cases i with
  | aluAdd | aluSub | aluAnd | aluOr | aluXor | aluAndn | aluShl | aluShr | aluSar | aluMul | aluMin | aluMax
  | aluMinu | aluMaxu | aluClz | aluPopc | aluAdds | aluSubs | aluiAdd | aluiAnd | aluiOr | aluiXor | aluiShl
  | aluiShr | aluiSar | lui | vredAdd | vredMax | vredMin | vredAnd | vredOr | vredXor | vmovExt | vmovExtu =>
    exact ⟨_, rfl, fun _ t => .setS t _ List.mem_cons_self⟩
  | cmpEq | cmpNe | cmpLt | cmpGe | cmpLtu | cmpGeu | cmpPand | cmpPor | cmpPxor | cmpPandn | cmpiEq | cmpiNe
  | cmpiLt | cmpiGe | cmpiLtu | cmpiGeu | vmovAny | vmovAll =>
    exact ⟨_, rfl, fun _ t => .setP t _ List.mem_cons_self⟩
  | valuAdd | valuSub | valuAdds | valuSubs | valuMul | valuMulh | valuMin | valuMax | valuAnd | valuOr | valuXor
  | valuShl | valuShr | valuCeq | valuClt | vfltAbs | vfltNeg | vcvtDec | vmovMov | vmovSplat | vmovIns | vmovPerm
  | vmovSlup | vmovSldn | vmovSel =>
    exact ⟨_, rfl, fun _ t => .setV t _ List.mem_cons_self⟩
  | vfltAdd | vfltSub | vfltMul | vfltFma | vfltFnma | vfltMin | vfltMax | vfltCeq | vfltClt | vfltCle | vcvtToi
  | vcvtTon | vcvtFri | vcvtFrn | vcvtTox | vcvtPkh | vcvtPkb | vcvtUplh | vcvtUphh | vcvtUplb | vcvtUphb | vcvtEnc8
  | vcvtEnc4 =>
    exact ⟨_, rfl, fun _ t => (RegFrame.setV t _ List.mem_cons_self).addFlags _ rfl⟩
  | vredFadd | vredFmax | vredFmin =>
    exact ⟨_, rfl, fun _ t => (RegFrame.setS t _ List.mem_cons_self).addFlags _ rfl⟩
  | vfltDiv d a b rm la => exact absurd rfl (hdiv d a b rm la)
  | vfltSqrt d a rm la => exact absurd rfl (hsqrt d a rm la)
  | vcvtTload a t la => exact absurd rfl (htload a t la)
  | _ => exact absurd hreg Bool.false_ne_true

/-- A clear register form retires with such an update. -/
theorem exec_registerForm_clear {s : State} (hclear : s.clear i) :
    ∃ f : Thread → Thread, exec i s = .next (s.retired f) ∧ ∀ t, RegFrame i t (f t) := by
  obtain ⟨f, hexec, hframe⟩ := exec_registerForm hreg hdiv hsqrt htload s
  refine ⟨f (s.countIssue false), ?_, hframe _⟩
  rw [hexec, State.issue_onRegs_of_state hclear fun s t => (hframe s t).keeps Thread.binds]

end

/-! ## The frame of a retirement -/

section
variable {s : State} {i : Instr} {f : Thread → Thread} (hf : ∀ t, RegFrame i t (f t))
include hf

/-- Of the thread, what depends on nothing that the update, the count of the issue or the advance changes stays. -/
theorem State.retired_threadField {α : Type} (π : Thread → α)
    (hreg : ∀ (t : Thread) s v p fl, π { t with s := s, v := v, p := p, fflags := fl } = π t := by intros; rfl)
    (hpc : ∀ t t' : Thread, t.PcFrame t' → π t' = π t := by rintro _ _ ⟨_, _, _, _, _, rfl⟩; rfl)
    (hcount : ∀ t : Thread, π (t.counted false) = π t := by intros; rfl) : π (s.retired f).th = π s.th := by
  rw [State.retired_th, hpc _ _ (Thread.advanceFrom_frame _ _), (hf _).keeps π hreg, hcount]

/-- The loop registers stay when the thread is in a handler or no active loop ends at its pc (R110). -/
theorem State.retired_loops
    (h : s.th.ih = true ∨ ∀ o, (s.th.loopLvl o).active = false ∨ (s.th.loopLvl o).last ≠ s.th.pc.toNat) :
    (s.retired f).th.loopcnt = s.th.loopcnt ∧ (s.retired f).th.loopstart = s.th.loopstart ∧
      (s.retired f).th.loopend = s.th.loopend := by
  have hwrite := hf (s.th.counted false)
  have hlvl (o : Bool) : (f (s.th.counted false)).loopLvl o = s.th.loopLvl o := hwrite.keeps fun t => t.loopLvl o
  have hih : (f (s.th.counted false)).ih = s.th.ih := hwrite.keeps Thread.ih
  rw [State.retired_th, Thread.advanceFrom_noLoop (by simpa only [hih, hlvl] using h)]
  exact ⟨hwrite.keeps Thread.loopcnt, hwrite.keeps Thread.loopstart, hwrite.keeps Thread.loopend⟩

/-- The window of a reservation counts down; its word and its address stay (R183). -/
theorem State.retired_resv :
    ((s.retired f).th.resv.map fun v => (v.va, v.addr)) = s.th.resv.map fun v => (v.va, v.addr) :=
  State.retired_threadField hf (fun t => t.resv.map fun v => (v.va, v.addr))
    (hcount := fun t => by simp [Thread.counted, Function.comp_def])

end

theorem State.retired_thread_ne (s : State) (f : Thread → Thread) {r : ThreadRef} (h : r ≠ s.cur) :
    (s.retired f).thread r = s.thread r := by
  obtain ⟨ag, e⟩ := s.retired_eq f
  rw [e]
  exact State.thread_modTh_ne s _ h

theorem State.retired_coreField {s : State} {f : Thread → Thread} {t : Nat} {c : Fin 8} {α : Type} (π : Core → α)
    (hπ : ∀ (c : Core) h f, π (c.modThread h f) = π c := by intros; rfl) :
    π ((s.retired f).core t c) = π (s.core t c) := by
  obtain ⟨ag, e⟩ := s.retired_eq f
  rw [e]
  exact State.modTh_coreField π hπ

theorem State.retired_tileField {s : State} {f : Thread → Thread} {t : Nat} {α : Type} (π : Tile → α)
    (hπ : ∀ (x : Tile) c f, π (x.modCore c f) = π x := by intros; rfl) :
    π ((s.retired f).tile t) = π (s.tile t) := by
  obtain ⟨ag, e⟩ := s.retired_eq f
  rw [e]
  exact State.modTh_tileField π hπ

/-- Settles O60: a clear register form retires with an update of its destination and the flags, and a retirement changes
nothing else but the pc, the counts of an issue and, at the end of a loop's body, the loop registers. -/
theorem registerFrame : Obligations.RegisterFrame := by
  intro s i w hw maj hmaj hdiv hsqrt htload hclear
  obtain ⟨f, hexec, hf⟩ := exec_registerForm_clear ((Instr.majorIn_iff hw _).2 hmaj) hdiv hsqrt htload hclear
  have hwrite := hf (s.th.counted false)
  have hfloat (h : maj ∉ floatMajors) : i.majorIn floatMajors = false := by
    rwa [← Bool.not_eq_true, Instr.majorIn_iff hw]
  obtain ⟨pc, held, cnt, start, last, hadv⟩ := (f (s.th.counted false)).advanceFrom_frame s.th.pc
  have hth := (s.retired_th f).trans hadv
  obtain ⟨ag, hstate⟩ := s.retired_eq f
  exact ⟨s.retired f, hexec, hth ▸ hwrite.getS, hth ▸ hwrite.getV, hth ▸ hwrite.getP, hth ▸ hwrite.flagsGain,
    fun h => hth ▸ hwrite.flagsFloat (hfloat h),
    State.retired_threadField hf Thread.frm, State.retired_threadField hf Thread.tpc,
    State.retired_threadField hf Thread.tinst, State.retired_threadField hf Thread.tcause,
    State.retired_threadField hf Thread.tval, State.retired_threadField hf Thread.ih,
    State.retired_threadField hf Thread.tbm, State.retired_threadField hf Thread.outst,
    State.retired_threadField hf Thread.binds, State.retired_threadField hf Thread.watch,
    State.retired_threadField hf Thread.st,
    State.retired_resv hf, State.retired_loops hf, fun _ => s.retired_thread_ne f,
    fun t c => ⟨fun a => State.retired_coreField fun c => c.lm.readByte a,
      State.retired_coreField Core.full, State.retired_coreField Core.lines, State.retired_coreField Core.mxflags,
      State.retired_coreField Core.t8, State.retired_coreField Core.t4⟩,
    fun t => ⟨State.retired_tileField Tile.launch, State.retired_tileField Tile.cells, State.retired_tileField Tile.copy,
      State.retired_tileField Tile.mx, State.retired_tileField Tile.ev, State.retired_tileField Tile.slice,
      State.retired_tileField Tile.accs, State.retired_tileField Tile.misses⟩,
    hstate ▸ ⟨rfl, rfl, rfl, rfl, rfl, rfl⟩⟩

end Sys2Proof.Machine
end

section
/-!
PROOFS. Table loads (spec/02 R43, R46; spec/05 R152): the image that a read of local memory gives, the table that an image becomes,
the queue of a core's tload unit, and O31.
-/
namespace Sys2Proof.Machine

/-! ## The words of a read of memory (R4) -/

theorem Memory.drop_readBytes (m : Memory) (a n j : Nat) : (m.readBytes a n).drop j = m.readBytes (a + j) (n - j) := by
  induction j generalizing a n with
  | zero => rfl
  | succ j ih =>
    cases n with
    | zero => simp [Memory.readBytes]
    | succ n => rw [Memory.readBytes, List.drop_succ_cons, ih, Nat.add_sub_add_right, Nat.add_right_comm, Nat.add_assoc]

theorem Memory.take_readBytes (m : Memory) (a : Nat) {n j : Nat} (h : j ≤ n) : (m.readBytes a n).take j = m.readBytes a j := by
  induction j generalizing a n with
  | zero => rfl
  | succ j ih =>
    cases n with
    | zero => omega
    | succ n => rw [Memory.readBytes, List.take_succ_cons, ih (a + 1) (by omega), Memory.readBytes]

/-- A word of a record read from memory is the four bytes at its place. -/
theorem recWord_readBytes (m : Memory) (a : Nat) {n k : Nat} (h : k < n) :
    recWord (m.readBytes a (4 * n)) k = BitVec.ofNat 32 (m.readNat (a + 4 * k) 4) := by
  rw [recWord, Memory.drop_readBytes, Memory.take_readBytes _ _ (by omega), Memory.readNat]

/-- An image read from memory holds the X19 entries of the containers there (R43). -/
theorem imageOf_readBytes (m : Memory) (a n : Nat) :
    imageOf (m.readBytes a (4 * n)) n =
      (List.range n).map fun k => ofContainer (BitVec.ofNat 32 (m.readNat (a + 4 * k) 4)) :=
  List.map_congr_left fun _ hk => congrArg ofContainer (recWord_readBytes m a (List.mem_range.1 hk))

/-! ## An image as a table (R46) -/

/-- The table of the entries of an image, its codes counted from `c`: an entry that is +0 is not listed (R46). -/
def tabFrom (c : Nat) (es : List (BitVec 19)) : KMap (BitVec 19) :=
  ((es.zipIdx c).filter fun e => e.1 != 0).map fun e => (e.2, e.1)

theorem Core.install_eq (c : Core) (t4 : Bool) (es : List (BitVec 19)) :
    c.install t4 es = if t4 then { c with t4 := tabFrom 0 es } else { c with t8 := tabFrom 0 es } := rfl

theorem tabFrom_cons (c : Nat) (e : BitVec 19) (es : List (BitVec 19)) :
    tabFrom c (e :: es) = if e = 0#19 then tabFrom (c + 1) es else (c, e) :: tabFrom (c + 1) es := by
  by_cases h : e = 0#19 <;> simp [tabFrom, h]

theorem le_of_mem_tabFrom {c : Nat} {es : List (BitVec 19)} {q : Nat × BitVec 19} (h : q ∈ tabFrom c es) : c ≤ q.1 := by
  obtain ⟨e, he, rfl⟩ := List.mem_map.1 h
  exact List.le_snd_of_mem_zipIdx (List.mem_filter.1 he).1

/-- Each code has the entry that the image gives it; the codes past the image have +0. -/
theorem tabEntry_tabFrom (c : Nat) (es : List (BitVec 19)) (k : Nat) : tabEntry (tabFrom c es) (c + k) = es.getD k 0 := by
  induction es generalizing c k with
  | nil => rfl
  | cons e es ih =>
    rw [tabFrom_cons]
    cases k with
    | zero =>
      split
      · next h =>
        have hbelow : KMap.get? (tabFrom (c + 1) es) c = none := KMap.get?_below fun _ => le_of_mem_tabFrom
        simp [tabEntry, KMap.getD, hbelow, h]
      · simp [tabEntry, KMap.getD, KMap.get?]
    | succ k =>
      rw [List.getD_cons_succ, ← ih (c + 1) k, show c + (k + 1) = c + 1 + k by omega]
      split
      · rfl
      · have hne : c + 1 + k ≠ c := by omega
        have hge : ¬ c + 1 + k < c := by omega
        simp [tabEntry, KMap.getD, KMap.get?, hne, hge]

/-- The installed table gives the image; the other table stays (R46). -/
theorem Core.tabEntry_install (c : Core) (t4 : Bool) (es : List (BitVec 19)) (k : Nat) :
    tabEntry (if t4 then (c.install t4 es).t4 else (c.install t4 es).t8) k = es.getD k 0 := by
  have htab := tabEntry_tabFrom 0 es k
  rw [Nat.zero_add] at htab
  cases t4 <;> simpa [Core.install_eq] using htab

theorem Core.install_other (c : Core) (t4 : Bool) (es : List (BitVec 19)) :
    if t4 then (c.install t4 es).t8 = c.t8 else (c.install t4 es).t4 = c.t4 := by
  cases t4 <;> rfl

/-! ## The issue of a table load (R15, R152) -/

theorem State.core_modTh_cur (s : State) (f : Thread → Thread) :
    (s.modTh f).core s.cur.tile s.cur.core = (s.core s.cur.tile s.cur.core).modThread s.cur.thr f :=
  State.core_modCore_self s _ _ _

theorem State.countIssue_core (s : State) (b : Bool) :
    (s.countIssue b).core s.cur.tile s.cur.core =
      (s.core s.cur.tile s.cur.core).modThread s.cur.thr fun t => t.counted b := by
  obtain ⟨ag, e⟩ := s.countIssue_eq b
  rw [e]
  exact s.core_modTh_cur _

@[simp] theorem State.countIssue_now (s : State) (b : Bool) (t : Nat) : (s.countIssue b).now t = s.now t := by
  obtain ⟨ag, e⟩ := s.countIssue_eq b
  rw [e]
  exact s.now_modTh t fun t => t.counted b

@[simp] theorem Thread.advanceFrom_outst (t : Thread) (a : Word) : (t.advanceFrom a).outst = t.outst := by
  obtain ⟨_, _, _, _, _, e⟩ := t.advanceFrom_frame a
  rw [e]

/-- The state in which a table load joins the queue of its core, to complete in cycle `done`: it is outstanding as if it wrote s0,
and TLOAD_COMPLETE is due (R152). -/
def State.queueTload (s : State) (la : BitVec 4) (q : TLoad) (done : Nat) : State :=
  ((s.modTh fun t => t.addOutst [.s 0] (some la) .tload).modCore s.cur.tile s.cur.core fun c =>
    { c with tlast := done, tloads := c.tloads ++ [q] }).atTile s.cur.tile (done - s.now s.cur.tile) .tloadComplete s.cur

/-- The state after the issue of a table load. -/
def State.tloadIssued (s : State) (la : BitVec 4) (q : TLoad) (done : Nat) : State :=
  ((s.countIssue true).queueTload la q done).modTh fun t => t.advanceFrom s.th.pc

section
variable (s : State) (la : BitVec 4) (q : TLoad) (done : Nat)

@[simp] theorem State.queueTload_cur : (s.queueTload la q done).cur = s.cur := rfl

theorem State.queueTload_core : (s.queueTload la q done).core s.cur.tile s.cur.core =
    { (s.core s.cur.tile s.cur.core).modThread s.cur.thr (fun t => t.addOutst [.s 0] (some la) .tload) with
      tlast := done, tloads := (s.core s.cur.tile s.cur.core).tloads ++ [q] } := by
  refine (State.core_modCore_self _ _ _ _).trans ?_
  rw [State.core_modTh_cur]
  rfl

theorem State.queueTload_th : (s.queueTload la q done).th = s.th.addOutst [.s 0] (some la) .tload := by
  show ((s.queueTload la q done).core s.cur.tile s.cur.core).threads[s.cur.thr] = _
  rw [State.queueTload_core]
  exact Core.modThread_threads_self (s.core s.cur.tile s.cur.core) s.cur.thr fun t => t.addOutst [.s 0] (some la) .tload

theorem State.tloadComplete_mem_queueTload :
    (⟨.deck (deckOf s.cur.tile), s.now s.cur.tile + (done - s.now s.cur.tile), false, s.cur, {}, .tloadComplete⟩ : Agenda) ∈
      (s.queueTload la q done).agenda :=
  List.mem_append_right _ List.mem_cons_self

@[simp] theorem State.tloadIssued_cur : (s.tloadIssued la q done).cur = s.cur := s.countIssue_cur true

/-- Of its core, a table load changes the thread and the queue of the tload unit with its last cycle. -/
theorem State.tloadIssued_core : ∃ f, (s.tloadIssued la q done).core s.cur.tile s.cur.core =
    { (s.core s.cur.tile s.cur.core).modThread s.cur.thr f with
      tlast := done, tloads := (s.core s.cur.tile s.cur.core).tloads ++ [q] } := by
  refine ⟨fun t => ((t.counted true).addOutst [.s 0] (some la) .tload).advanceFrom s.th.pc, ?_⟩
  have hqueue := (s.countIssue true).queueTload_core la q done
  have hadv := ((s.countIssue true).queueTload la q done).core_modTh_cur fun t => t.advanceFrom s.th.pc
  simp only [State.queueTload_cur, State.countIssue_cur] at hqueue hadv
  rw [State.tloadIssued, hadv, hqueue, State.countIssue_core]
  simp [Core.modThread]

theorem State.tloadIssued_tloads : ((s.tloadIssued la q done).core s.cur.tile s.cur.core).tloads =
    (s.core s.cur.tile s.cur.core).tloads ++ [q] := by
  obtain ⟨f, hf⟩ := s.tloadIssued_core la q done
  rw [hf]

theorem State.tloadIssued_tlast : ((s.tloadIssued la q done).core s.cur.tile s.cur.core).tlast = done := by
  obtain ⟨f, hf⟩ := s.tloadIssued_core la q done
  rw [hf]

theorem State.tloadIssued_tables :
    ((s.tloadIssued la q done).core s.cur.tile s.cur.core).t8 = (s.core s.cur.tile s.cur.core).t8 ∧
      ((s.tloadIssued la q done).core s.cur.tile s.cur.core).t4 = (s.core s.cur.tile s.cur.core).t4 := by
  obtain ⟨f, hf⟩ := s.tloadIssued_core la q done
  rw [hf]
  exact ⟨rfl, rfl⟩

theorem State.tloadIssued_outst : (s.tloadIssued la q done).th.outst = s.th.outst ++
    [{ id := s.th.nextOp, addr := s.th.pc, dests := [.s 0], cond := .tload }] := by
  rw [State.tloadIssued, State.th_modTh, Thread.advanceFrom_outst, State.queueTload_th, State.countIssue_th]
  rfl

theorem State.tloadComplete_mem_tloadIssued :
    (⟨.deck (deckOf s.cur.tile), s.now s.cur.tile + (done - s.now s.cur.tile), false, s.cur, {}, .tloadComplete⟩ : Agenda) ∈
      (s.tloadIssued la q done).agenda := by
  simpa [State.tloadIssued] using (s.countIssue true).tloadComplete_mem_queueTload la q done

end

/-! ## An image in the own core's local memory -/

/-- The mask with which vcvt.tload tests the alignment of its image is the remainder by 32 (R152). -/
theorem and_31_ne_zero_iff (x : Word) : (x &&& 31 != 0) = true ↔ x.toNat % 32 ≠ 0 := by
  have hmask : (x &&& 31).toNat = x.toNat % 32 := by
    rw [BitVec.toNat_and]
    exact Nat.and_two_pow_sub_one_eq_mod x.toNat 5
  rw [bne_iff_ne, ne_eq, ← hmask, BitVec.toNat_eq]
  rfl

/-- A record in readable local memory of the own tile is its bytes (R57, R152). -/
theorem State.readRecord_localMemory {s : State} {tile n : Nat} {a : Word} {kindOk : Nat → Bool} (hglob : isGlobal a = false)
    (hmap : isTileMap a = true) (hform : amFormOk a = true) (htile : amTile a = tile) (hkind : amKind a = 0)
    (hok : kindOk 0 = true) (hfit : amOff a + n ≤ 0x4_0000)
    (hgood : s.lmBad tile (amCore a) (lmPlace (s.launch tile) a).off n = false) :
    s.readRecord tile a n kindOk = .ok ((s.core tile (amCore a)).lm.readBytes (lmPlace (s.launch tile) a).off n) := by
  have hwin : ¬ windowSize (s.launch tile) 0 < amOff a + n := Nat.not_lt.2 hfit
  have hcore : (lmPlace (s.launch tile) a).core = amCore a := rfl
  simp only [State.readRecord, hglob, hmap, hform, htile, hwin, hkind, hok, hcore, hgood, Bool.not_true, Bool.or_self,
    decide_false, bne_self_eq_false, Bool.false_eq_true, if_false]

/-- After the count of an issue, a record in the own core's local memory reads as before it. -/
theorem State.readRecord_countIssue_ownCore {s : State} {n : Nat} {a : Word} {kindOk : Nat → Bool} (long : Bool)
    (hglob : isGlobal a = false) (hmap : isTileMap a = true) (hform : amFormOk a = true) (htile : amTile a = s.cur.tile)
    (hkind : amKind a = 0) (hok : kindOk 0 = true) (hfit : amOff a + n ≤ 0x4_0000) (hown : amCore a = s.cur.core)
    (hgood : s.lmBad s.cur.tile s.cur.core (lmPlace (s.launch s.cur.tile) a).off n = false) :
    (s.countIssue long).readRecord s.cur.tile a n kindOk =
      .ok ((s.core s.cur.tile s.cur.core).lm.readBytes (lmPlace (s.launch s.cur.tile) a).off n) := by
  have hgood' : (s.countIssue long).lmBad s.cur.tile (amCore a) (lmPlace ((s.countIssue long).launch s.cur.tile) a).off n =
      false := by
    rw [State.countIssue_launch, hown, State.lmBad, State.countIssue_core]
    exact hgood
  rw [State.readRecord_localMemory hglob hmap hform htile hkind hok hfit hgood', State.countIssue_lm, State.countIssue_launch, hown]

/-- An access of local memory of the own core takes 8 cycles when its kind takes 2 more (R162, R436). -/
theorem State.portTime_ownCore (s : State) (r : ThreadRef) : s.portTime r r.core 2 = 8 := by
  simp [State.portTime, State.portReach, State.portLag]

section
variable {s : State} {a : SReg} {tb : TblSel} {la : BitVec 4} (hclear : s.clear (.vcvtTload a tb la))
include hclear

theorem exec_vcvtTload_misaligned (hx : (s.th.getS a).toNat % 32 ≠ 0) :
    exec (.vcvtTload a tb la) s = .next (s.trap .align (s.th.getS a)) := by
  show execVcvtTload a tb la s = _
  rw [execVcvtTload, State.issue_clear hclear]
  simp only [State.countIssue_getS, (and_31_ne_zero_iff _).2 hx, if_true, State.finish]

/-- A table load that has read its image from the own core's local memory queues it: the image has arrived after 8 cycles, and the
load completes 24 or 160 cycles after that, or after the load before it (R152). -/
theorem exec_vcvtTload_read {bs : List Byte} (hx : (s.th.getS a).toNat % 32 = 0) (hglob : isGlobal (s.th.getS a) = false)
    (hown : amCore (s.th.getS a) = s.cur.core)
    (hread : (s.countIssue true).readRecord s.cur.tile (s.th.getS a) (4 * if tb = .t4 then 16 else 256) (· == 0) = .ok bs) :
    exec (.vcvtTload a tb la) s = .next (s.tloadIssued la
      ⟨s.cur.thr, s.th.nextOp, decide (tb = .t4), imageOf bs (if tb = .t4 then 16 else 256), s.now s.cur.tile + 8⟩
      (max (s.now s.cur.tile + 8) (s.core s.cur.tile s.cur.core).tlast + if tb = .t4 then 24 else 160)) := by
  have haligned : (s.th.getS a &&& 31 != 0) = false :=
    Bool.eq_false_iff.2 fun h => (and_31_ne_zero_iff _).1 h hx
  have hport : (s.countIssue true).portTime s.cur s.cur.core 2 = 8 := State.portTime_ownCore _ _
  have hlast : ((s.countIssue true).core s.cur.tile s.cur.core).tlast = (s.core s.cur.tile s.cur.core).tlast := by
    rw [State.countIssue_core]
    rfl
  have hop : (s.countIssue true).th.nextOp = s.th.nextOp := by
    rw [State.countIssue_th]
    rfl
  show execVcvtTload a tb la s = _
  rw [execVcvtTload, State.issue_clear hclear]
  simp only [State.countIssue_getS, State.countIssue_cur, State.countIssue_now, beq_iff_eq, haligned, hread, hglob, hown, hport,
    hlast, hop, Bool.false_eq_true, if_false, State.finish, if_true]
  simp only [State.tloadIssued, State.queueTload, State.countIssue_cur, State.countIssue_now]
  rfl

end

/-! ## TLOAD_COMPLETE (R46, R152) -/

/-- An outstanding instruction of the number whose condition was replaced has the new condition. -/
theorem Thread.cond_of_op?_setCond {t : Thread} {op : Nat} {c : Cond} {o : Outst} (h : (t.setCond op c).op? op = some o) :
    o.cond = c := by
  have hfind : (t.setCond op c).outst.find? (fun o => o.id == op) = some o := h
  have hid : (o.id == op) = true := List.find?_some (p := fun o : Outst => o.id == op) hfind
  obtain ⟨x, -, rfl⟩ := List.mem_map.1 (List.mem_of_find?_eq_some hfind)
  split at hid
  · next hx => rw [if_pos hx]
  · next hx => exact absurd hid hx

/-- The arrival of a result that is ready is an update of its thread (R15). -/
theorem State.arrive_ready {s : State} {r : ThreadRef} {op : Nat} {o : Outst} {w : Writes}
    (hop : (s.thread r).op? op = some o) (hcond : o.cond = .ready w) : ∃ f, s.arrive r op = s.modThread r f := by
  simp only [State.arrive, hop, hcond]
  exact ⟨_, rfl⟩

theorem State.arrive_none {s : State} {r : ThreadRef} {op : Nat} (hop : (s.thread r).op? op = none) : s.arrive r op = s := by
  simp only [State.arrive, hop]

/-- An instruction that becomes ready and arrives at once is an update of its thread. -/
theorem State.arrive_setCond_ready (s : State) (r : ThreadRef) (op : Nat) (w : Writes) :
    ∃ f, (s.modThread r fun t => t.setCond op (.ready w)).arrive r op = s.modThread r f := by
  cases hop : ((s.modThread r fun t => t.setCond op (.ready w)).thread r).op? op with
  | none => exact ⟨_, State.arrive_none hop⟩
  | some o =>
    have hcond : o.cond = .ready w := Thread.cond_of_op?_setCond (by rwa [State.thread_modThread_self] at hop)
    obtain ⟨f, hf⟩ := State.arrive_ready hop hcond
    exact ⟨_, hf.trans (State.modThread_modThread s r _ f)⟩

/-- Whether a trap entry follows or not, a thread that settles changes no core (R19). -/
theorem State.settleThread_core (s : State) (r : ThreadRef) (t : Nat) (c : Fin 8) : (s.settleThread r).core t c = s.core t c := by
  unfold State.settleThread
  split <;> rfl

theorem State.settleThread_cur (s : State) (r : ThreadRef) : (s.settleThread r).cur = s.cur := by
  unfold State.settleThread
  split <;> rfl

/-- The state in which the core of the current thread has taken the oldest image off its queue as its table (R46). -/
def State.cutOver (s : State) (q : TLoad) (rest : List TLoad) : State :=
  s.modCore s.cur.tile s.cur.core fun c => { c.install q.t4 q.image with tloads := rest }

theorem State.cutOver_core (s : State) (q : TLoad) (rest : List TLoad) : (s.cutOver q rest).core s.cur.tile s.cur.core =
    { (s.core s.cur.tile s.cur.core).install q.t4 q.image with tloads := rest } :=
  State.core_modCore_self s _ _ _

/-- TLOAD_COMPLETE cuts over to the oldest image; else it changes of its core the thread that loaded the image only. -/
theorem exec_tloadComplete {s : State} {q : TLoad} {rest : List TLoad}
    (hq : (s.core s.cur.tile s.cur.core).tloads = q :: rest) :
    ∃ s' f, exec .tloadComplete s = .next s' ∧ s'.cur = s.cur ∧ s'.core s.cur.tile s.cur.core =
      ((s.cutOver q rest).core s.cur.tile s.cur.core).modThread q.thr f := by
  obtain ⟨f, hf⟩ := (s.cutOver q rest).arrive_setCond_ready ⟨s.cur.tile, s.cur.core, q.thr⟩ q.op {}
  have hexec : exec .tloadComplete s = .next (((s.cutOver q rest).modThread ⟨s.cur.tile, s.cur.core, q.thr⟩ f).settleThread
      ⟨s.cur.tile, s.cur.core, q.thr⟩) := by
    show execTloadComplete s = _
    rw [execTloadComplete, hq, ← hf]
    rfl
  refine ⟨_, f, hexec, State.settleThread_cur _ _, ?_⟩
  rw [State.settleThread_core]
  exact State.core_modCore_self _ _ _ _

/-- Settles O31: a table load reads its image and joins the queue of its core; TLOAD_COMPLETE installs the oldest image. -/
theorem tableLoads : Obligations.TableLoads := by
  intro s a tb la
  refine ⟨fun hclear => ⟨exec_vcvtTload_misaligned hclear, fun hx hglob hmap hform htile hkind hfit hown hgood => ?_⟩,
    fun q rest hq => ?_⟩
  · have hread := State.readRecord_countIssue_ownCore (kindOk := (· == 0)) true hglob hmap hform htile hkind rfl hfit hown hgood
    have hexec := exec_vcvtTload_read hclear hx hglob hown hread
    rw [imageOf_readBytes] at hexec
    refine ⟨_, hexec, State.tloadIssued_cur .., ?_⟩
    simp only [State.tloadIssued_cur, State.tloadIssued_outst, List.getLast?_concat, true_and]
    exact ⟨State.tloadIssued_tloads .., State.tloadIssued_tlast .., (State.tloadIssued_tables ..).1,
      (State.tloadIssued_tables ..).2, State.tloadComplete_mem_tloadIssued ..⟩
  · obtain ⟨s', f, hexec, hcur, hcore⟩ := exec_tloadComplete hq
    refine ⟨s', hexec, hcur, ?_⟩
    simp only [hcur, hcore, State.cutOver_core]
    exact ⟨rfl, fun k _ => Core.tabEntry_install _ q.t4 q.image k, Core.install_other _ q.t4 q.image⟩

end Sys2Proof.Machine
end
